-- ==== Sys2Proof/Word.lean ====
section
/-! DEFINITION. The word types (R5), and the plain-data types that an event's operands are made of. -/

namespace Sys2Proof

/-- A byte (R5). -/
abbrev Byte := BitVec 8
/-- A doubleword: an x register, a control word, a device register (R5, R43, R318). -/
abbrev Dword := BitVec 64
/-- A v register (R43). -/
abbrev VReg := BitVec 1024
/-- A k register (R43). -/
abbrev KReg := BitVec 128
/-- A tile register: 64 rows of 256 bytes, row r at bits [2048r + 2047 : 2048r] (R213). -/
abbrev Tile := BitVec 131072
/-- A register number of a file of 32 (R82, R86). -/
abbrev Reg := BitVec 5
/-- A register number of a file of eight. -/
abbrev Reg3 := BitVec 3
/-- A package context number, bits [12:0] of the coordinate (R15). -/
abbrev CtxId := BitVec 13
/-- A package core number (R15). -/
abbrev CoreId := BitVec 10
/-- A package-wide logical skein number (R3, R15). -/
abbrev SkeinId := BitVec 7
/-- A package number (R347). -/
abbrev PkgId := BitVec 13
/-- A 56-bit physical address (R317). -/
abbrev PAddr := BitVec 56
/-- A 128-byte line of physical memory: the physical address divided by 128 (R5). -/
abbrev LineNo := BitVec 49

/-- The fields of a launch request (R16), in the layout SPAWN's registers and a mailbox entry share (R202, R330). -/
structure LaunchReq where
  /-- bits [9:0] the core or skein number, bit 10 the kind: any core of the skein -/
  target : BitVec 11
  pc : Dword
  arg0 : Dword
  arg1 : Dword
  asn : BitVec 16
  tag : BitVec 32
  prio : BitVec 2
  fence : Bool
  /-- completion token address -/
  token : Dword
  /-- completion word, laid out as SPAWN's x[a + 5] -/
  comp : Dword
  deriving DecidableEq, Repr, Inhabited

/-- Where a launch request came from (R278): a mailbox entry, a SPAWN, or a copy command's completion, whose scope its
start acquires at (R206). -/
inductive LaunchOrigin where
  | mailbox (m : BitVec 6)
  | spawn (c : CtxId)
  | copy (core : CoreId) (q : BitVec 2) (scope : BitVec 4)
  deriving DecidableEq, Repr

/-- What a fabric packet asks of its home (R188, R342). -/
inductive FabKind where
  | load
  | store
  | amo
  | cas
  deriving DecidableEq, Repr

/-- The part of a core a fabric packet belongs to: a ticket-table entry or a copy queue (R189, R206). -/
inductive FabOwner where
  | entry (n : BitVec 5)
  | queue (q : BitVec 2)
  deriving DecidableEq, Repr

/-- A fabric request, whole (R188, R350): at most one 128-byte line. -/
structure Packet where
  srcPkg : PkgId
  srcCore : CoreId
  owner : FabOwner
  dest : PkgId
  /-- window offset of the first byte (R339) -/
  off : BitVec 50
  kind : FabKind
  /-- bytes accessed, 1 to 128 -/
  len : BitVec 8
  /-- bytes of the access that take part (R188: the mask of LDV and STV) -/
  mask : KReg
  /-- store data, atomic operand, or for a CAS the expected value in [63:0] and the new one in [127:64] -/
  data : VReg
  /-- AMO operation (R195) -/
  op : BitVec 4
  /-- the source package's partition number (R338) -/
  partId : BitVec 16
  /-- travels in the time-triggered class (R352) -/
  tt : Bool
  /-- the store's data is poisoned: a copy unit that read a poisoned line (R362) -/
  poison : Bool
  /-- the route its header carries, as the hops (package, port) it crosses (R350) -/
  route : List (PkgId × BitVec 3)
  deriving DecidableEq, Repr

/-- A home's answer to a fabric request (R189, R342, R361). -/
inductive FabAnswer where
  | ok (data : VReg)
  | poison
  | ticket (t : BitVec 16)
  | blocked (t : BitVec 16)
  | refused
  deriving DecidableEq, Repr

/-- What a host link trained as (R328). -/
inductive LinkMode where
  | down
  | pcie
  | cxl
  deriving DecidableEq, Repr

/-- What a host does to memory (R244, R261, R262): a read of n bytes, a write, an atomic amoop with AMO's function numbers
(R195), or the two halves of a load-reserved pair, by the hart that executes them; dw: on a doubleword, else on a word. -/
inductive HostAccess where
  | read (n : Nat)
  | write (d : List Byte)
  | amo (f : BitVec 4) (dw : Bool) (v : Dword)
  | lr (hart : Nat) (dw : Bool)
  | sc (hart : Nat) (dw : Bool) (v : Dword)
  deriving DecidableEq, Repr

/-- Who performs a device-register access (R318, R378). -/
inductive Accessor where
  | host
  | supervisor
  | firmware
  deriving DecidableEq, Repr

end Sys2Proof
end

