-- ==== Sys2Proof/Config.lean ====
section
/-! DEFINITION. What one implementation or one part fixes and the manual leaves open: uninterpreted values, and the
constants of stepping A2 that several chapters use. -/

namespace Sys2Proof.Config

/-- Which of the ways it may give up a cache gives up to a fill (R273): each cache's own policy, a free value. The argument
numbers the draw; the answer is taken modulo the number of those ways. DESIGN CHOICE, log 62. -/
opaque victim : Nat → Nat

/-- Whether a core's tracking of outstanding misses is full when a prefetch hint comes (R271), which drops the hint: the part's own
timing, a free value. The argument numbers the draw. DESIGN CHOICE, log 62. -/
opaque missesFull : Nat → Bool

/-- The accesses that a core has made on a predicted path that it then discards (R133, R323): whether each is a fetch, and its address, a
free value. The argument numbers the draw. DESIGN CHOICE, log 87. -/
opaque wrongPath : Nat → List (Bool × BitVec 64)

/-- The packages of a partition (R338, R351): no register of a package lists them, so they are a free value of the partition's
number. DESIGN CHOICE, log 3. -/
opaque partition : BitVec 16 → List PkgId

/-- The place, in that list, of the package drawn for a Valiant route (R351): a free value, taken modulo the list's length. The
argument numbers the draw. DESIGN CHOICE, log 3. -/
opaque valiant : Nat → Nat

/-- The private half of the part's identity key (R373): a free value of the part, taken modulo the order less 1, plus 1.
DESIGN CHOICE, log 3. -/
opaque identitySecret : Unit → Nat

/-- The random number of an ECDSA signature (R373, R374): a free value, taken as the secret is. The argument numbers the draw.
DESIGN CHOICE, log 3. -/
opaque signatureNonce : Nat → Nat

/-- The addresses that the Darkroom gives its own mailbox (R331, R366): 0 the ring of commands, 1 their acknowledgment slots, 2 the
ring of replies. The manual gives none: free values. DESIGN CHOICE, log 89. -/
opaque darkroomRing : Nat → BitVec 64

/-- Microjoules attributed to a tenant in one measured microsecond (R387): a free value. The arguments number the draw and the
tenant. DESIGN CHOICE, log 3. -/
opaque tenantEnergy : Nat → Nat → Nat

/-- Whether the power manager relaxes a shedding step in a microsecond in which it may (R383): a free value. The argument
numbers the draw. DESIGN CHOICE, log 49. -/
opaque relaxes : Nat → Bool

/-- HBM bytes of a package: 16 stacks of 48 GiB (R1). -/
def hbmSize : Nat := 768 * 2 ^ 30
/-- Bytes of BAR0, the device register space (R317). -/
def barSize : Nat := 256 * 2 ^ 20
/-- Entries of a core's ticket table (R189). -/
def ticketEntries : Nat := 32
/-- Forwarding records of a core (R306). -/
def forwardingRecords : Nat := 16
/-- Commands of a copy queue (R290). -/
def copyQueueDepth : Nat := 16
/-- Entries of a launch queue (R20). -/
def launchQueueDepth : Nat := 16
/-- Hold entries of a skein at the router (R278). -/
def holdEntries : Nat := 8
/-- Tile-enabled threads of a core, and of a skein (R13). -/
def tileThreadsPerCore : Nat := 4
def tileThreadsPerSkein : Nat := 32
/-- Tile slots of a skein (R217, R395). -/
def tileSlots : Nat := 512

end Sys2Proof.Config
end

