-- ==== Sys2Proof/Syntax.lean ====
section
/-! DEFINITION. Instr: one constructor per row of spec/opcode_table.json. An encoded instruction's operands are the
fields of its row, raw bits (R82, R86, R204, R217, R223, R227); WellFormed says which values are instructions (R91).
A row without an encoding is an event of the part; Event holds its operands. -/

namespace Sys2Proof

/-- One constructor per row of spec/opcode_table.json, in the table's order. -/
inductive Instr where
  /-- ANOP (R74). All-zero A word; has no effect. -/
  | anop
  /-- CNOP (R90). C-word no-op used as padding. -/
  | cnop
  /-- PAUSE (R146). Asks the core to give the thread's issue slots to core-mates for up to 16 cycles, within the fairness bound. -/
  | pause
  /-- PREP (R130). Sets a b register to a PC-relative bundle target with the valid bit set, and prefetches by hint. -/
  | prep (b : BitVec 3) (o : BitVec 20) (h : BitVec 2)
  /-- LPREP (R130). Long form of PREP: sets a b register to an absolute 48-bit bundle target, valid. -/
  | lprep (b : BitVec 3) (h : BitVec 2) (i : BitVec 48)
  /-- PREPX (R130). Sets a b register from an x register with bits 2:0 cleared, valid, and prefetches by hint. -/
  | prepx (d : BitVec 5) (a : BitVec 5) (h : BitVec 2)
  /-- BCLR (R130). Writes a b register image from an x register with the valid bit clear; no prefetch. -/
  | bclr (d : BitVec 5) (a : BitVec 5)
  /-- MOVXB (R130). Copies the 64-bit image of a b register into an x register. -/
  | movxb (d : BitVec 5) (a : BitVec 5)
  /-- BR (R132). Checks the b register's valid bit in step 1, then transfers in step 3 if the predicate (optionally negated) holds. -/
  | br (b : BitVec 3) (p : BitVec 3) (n : BitVec 1)
  /-- CALL (R132). As BR, and when taken writes the return address, valid, to b0 in step 3. -/
  | call (b : BitVec 3) (p : BitVec 3) (n : BitVec 1)
  /-- TRAP (R147). Completes in step 1, then raises the system-call trap recording slot A. -/
  | trap (c : BitVec 15)
  /-- BRK (R147). Raises the breakpoint trap at slot C without completing. -/
  | brk (c : BitVec 15)
  /-- ERET (R148). Restores cw.status from cw.estat, never raising the mode, and resumes at cw.epc or cw.fwepc and its slot. -/
  | eret
  /-- URET (R149). Ends a ticket upcall: clears uact and resumes at cw.uepc, re-executing the ticketed access. -/
  | uret
  /-- WAIT (R151). Completes if an enabled interrupt is pending or the wake-event latch is set; otherwise parks; clears the latch on completion. -/
  | wait
  /-- HALT (R152). Firmware-mode wait as WAIT; the core stops its clocks while all its contexts are Idle or halted. -/
  | halt
  /-- IFENCE (R135). Waits for the thread's older stores, then discards every instruction the core holds for the address space and refetches younger bundles. -/
  | ifence
  /-- GETCW (R155). Reads a control word into an x register. -/
  | getcw (d : BitVec 5) (n : BitVec 15)
  /-- SETCW (R155). Writes an x register to a control word under each field's access rule. -/
  | setcw (a : BitVec 5) (n : BitVec 15)
  /-- SWAPCW (R155). Reads the old control word into x[d] and writes x[a] to it as one step. -/
  | swapcw (d : BitVec 5) (a : BitVec 5) (n : BitVec 15)
  /-- TLBINV_ALL (R157). Drops every cached translation of the issuing core. -/
  | tlbinvAll
  /-- TLBINV_ASN (R157). Drops non-global translations of one address space on the issuing core. -/
  | tlbinvAsn (b : BitVec 5)
  /-- TLBINV_PAGE (R157). Drops the translations of one address in one address space, global pages included. -/
  | tlbinvPage (a : BitVec 5) (b : BitVec 5)
  /-- TLBINV_VA (R157). Drops the translations of one address in every address space. -/
  | tlbinvVa (a : BitVec 5)
  /-- RDTIME (R153). Reads package time in nanoseconds into an x register. -/
  | rdtime (d : BitVec 5)
  /-- WAITUNTIL (R154). Parks until package time reaches x[a], then writes package time to x[d]. -/
  | waituntil (d : BitVec 5) (a : BitVec 5)
  /-- CTXSAVE (R160). Writes the whole thread state to a 5,120-byte image, all or nothing, freeing its ticket entries. -/
  | ctxsave (a : BitVec 5)
  /-- CTXLOAD (R162). Replaces the context's thread state with an image's, all or nothing. -/
  | ctxload (a : BitVec 5)
  /-- LI (R141). Loads a sign-extended 48-bit immediate into an x register. -/
  | li (d : BitVec 5) (i : BitVec 48)
  /-- ADD (R137). x[d] = a + b. -/
  | add (d : BitVec 5) (a : BitVec 5) (b : BitVec 5)
  /-- SUB (R137). x[d] = a - b. -/
  | sub (d : BitVec 5) (a : BitVec 5) (b : BitVec 5)
  /-- AND (R137). Bitwise AND. -/
  | and (d : BitVec 5) (a : BitVec 5) (b : BitVec 5)
  /-- OR (R137). Bitwise OR. -/
  | or (d : BitVec 5) (a : BitVec 5) (b : BitVec 5)
  /-- XOR (R137). Bitwise XOR. -/
  | xor (d : BitVec 5) (a : BitVec 5) (b : BitVec 5)
  /-- ANDN (R137). a AND NOT b. -/
  | andn (d : BitVec 5) (a : BitVec 5) (b : BitVec 5)
  /-- SHL (R137). Shift left by b<5:0>. -/
  | shl (d : BitVec 5) (a : BitVec 5) (b : BitVec 5)
  /-- SHR (R137). Logical shift right by b<5:0>. -/
  | shr (d : BitVec 5) (a : BitVec 5) (b : BitVec 5)
  /-- SAR (R137). Arithmetic shift right by b<5:0>. -/
  | sar (d : BitVec 5) (a : BitVec 5) (b : BitVec 5)
  /-- ROTL (R137). Rotate left by b<5:0>. -/
  | rotl (d : BitVec 5) (a : BitVec 5) (b : BitVec 5)
  /-- MIN (R137). Signed minimum. -/
  | min (d : BitVec 5) (a : BitVec 5) (b : BitVec 5)
  /-- MAX (R137). Signed maximum. -/
  | max (d : BitVec 5) (a : BitVec 5) (b : BitVec 5)
  /-- MINU (R137). Unsigned minimum. -/
  | minu (d : BitVec 5) (a : BitVec 5) (b : BitVec 5)
  /-- MAXU (R137). Unsigned maximum. -/
  | maxu (d : BitVec 5) (a : BitVec 5) (b : BitVec 5)
  /-- ADDI (R138). x[d] = a + sign-extended imm16. -/
  | addi (d : BitVec 5) (a : BitVec 5) (i : BitVec 16)
  /-- ANDI (R138). x[d] = a AND sign-extended imm16. -/
  | andi (d : BitVec 5) (a : BitVec 5) (i : BitVec 16)
  /-- ORI (R138). x[d] = a OR sign-extended imm16. -/
  | ori (d : BitVec 5) (a : BitVec 5) (i : BitVec 16)
  /-- XORI (R138). x[d] = a XOR sign-extended imm16. -/
  | xori (d : BitVec 5) (a : BitVec 5) (i : BitVec 16)
  /-- SHLI (R139). Shift left by an immediate amount. -/
  | shli (d : BitVec 5) (a : BitVec 5) (n : BitVec 6)
  /-- SHRI (R139). Logical shift right by an immediate amount. -/
  | shri (d : BitVec 5) (a : BitVec 5) (n : BitVec 6)
  /-- SARI (R139). Arithmetic shift right by an immediate amount. -/
  | sari (d : BitVec 5) (a : BitVec 5) (n : BitVec 6)
  /-- ROTLI (R139). Rotate left by an immediate amount. -/
  | rotli (d : BitVec 5) (a : BitVec 5) (n : BitVec 6)
  /-- MOVI (R140). Sets x[d] to imm16 shifted to halfword position h, other bits zero. -/
  | movi (d : BitVec 5) (h : BitVec 2) (i : BitVec 16)
  /-- LIH (R140). Replaces halfword h of x[d] with imm16. -/
  | lih (d : BitVec 5) (h : BitVec 2) (i : BitVec 16)
  /-- MUL (R137). Low 64 bits of the product. -/
  | mul (d : BitVec 5) (a : BitVec 5) (b : BitVec 5)
  /-- MULH (R137). High 64 bits of the signed product. -/
  | mulh (d : BitVec 5) (a : BitVec 5) (b : BitVec 5)
  /-- MULHU (R137). High 64 bits of the unsigned product. -/
  | mulhu (d : BitVec 5) (a : BitVec 5) (b : BitVec 5)
  /-- DIV (R107). Signed quotient rounded toward zero. -/
  | div (d : BitVec 5) (a : BitVec 5) (b : BitVec 5)
  /-- DIVU (R107). Unsigned quotient. -/
  | divu (d : BitVec 5) (a : BitVec 5) (b : BitVec 5)
  /-- REM (R107). Signed remainder. -/
  | rem (d : BitVec 5) (a : BitVec 5) (b : BitVec 5)
  /-- REMU (R107). Unsigned remainder. -/
  | remu (d : BitVec 5) (a : BitVec 5) (b : BitVec 5)
  /-- CLZ (R142). Count leading zeros. -/
  | clz (d : BitVec 5) (a : BitVec 5)
  /-- CTZ (R142). Count trailing zeros. -/
  | ctz (d : BitVec 5) (a : BitVec 5)
  /-- POPC (R142). Count set bits. -/
  | popc (d : BitVec 5) (a : BitVec 5)
  /-- BSWAP (R142). Reverse byte order. -/
  | bswap (d : BitVec 5) (a : BitVec 5)
  /-- BREV (R142). Reverse bit order. -/
  | brev (d : BitVec 5) (a : BitVec 5)
  /-- BFX (R142). Extract a sign-extended bit field. -/
  | bfx (d : BitVec 5) (a : BitVec 5) (l : BitVec 5) (h : BitVec 1) (p : BitVec 6)
  /-- BFXU (R142). Extract a zero-extended bit field. -/
  | bfxu (d : BitVec 5) (a : BitVec 5) (l : BitVec 5) (h : BitVec 1) (p : BitVec 6)
  /-- BFI (R142). Insert a bit field into x[d]. -/
  | bfi (d : BitVec 5) (a : BitVec 5) (l : BitVec 5) (h : BitVec 1) (p : BitVec 6)
  /-- LEA (R142). x[d] = a + b shifted left by sh. -/
  | lea (d : BitVec 5) (a : BitVec 5) (b : BitVec 5) (s : BitVec 3)
  /-- ADDW (R137). 32-bit add, sign-extended. -/
  | addw (d : BitVec 5) (a : BitVec 5) (b : BitVec 5)
  /-- SUBW (R137). 32-bit subtract, sign-extended. -/
  | subw (d : BitVec 5) (a : BitVec 5) (b : BitVec 5)
  /-- MULW (R137). 32-bit multiply, sign-extended. -/
  | mulw (d : BitVec 5) (a : BitVec 5) (b : BitVec 5)
  /-- SHLW (R137). 32-bit shift left, sign-extended. -/
  | shlw (d : BitVec 5) (a : BitVec 5) (b : BitVec 5)
  /-- SHRW (R137). 32-bit logical shift right, sign-extended. -/
  | shrw (d : BitVec 5) (a : BitVec 5) (b : BitVec 5)
  /-- SARW (R137). 32-bit arithmetic shift right, sign-extended. -/
  | sarw (d : BitVec 5) (a : BitVec 5) (b : BitVec 5)
  /-- SEL (R143). Selects x[a] or x[b] by a predicate. -/
  | sel (d : BitVec 5) (a : BitVec 5) (b : BitVec 5) (n : BitVec 1) (q : BitVec 3)
  /-- CMP (R144). Sets a predicate from a register-register condition. -/
  | cmp (p : BitVec 3) (a : BitVec 5) (b : BitVec 5) (c : BitVec 4)
  /-- CMPI (R144). Sets a predicate from a condition against a sign-extended imm14. -/
  | cmpi (p : BitVec 3) (a : BitVec 5) (i : BitVec 14) (c : BitVec 4)
  /-- PAND (R145). Predicate AND. -/
  | pand (d : BitVec 5) (a : BitVec 5) (b : BitVec 5)
  /-- POR (R145). Predicate OR. -/
  | por (d : BitVec 5) (a : BitVec 5) (b : BitVec 5)
  /-- PXOR (R145). Predicate XOR. -/
  | pxor (d : BitVec 5) (a : BitVec 5) (b : BitVec 5)
  /-- PANDN (R145). Predicate AND NOT. -/
  | pandn (d : BitVec 5) (a : BitVec 5) (b : BitVec 5)
  /-- PMOV (R145). Predicate copy. -/
  | pmov (d : BitVec 5) (a : BitVec 5)
  /-- PTOX (R145). Writes 1 or 0 to x[d] from a predicate. -/
  | ptox (d : BitVec 5) (a : BitVec 5)
  /-- FADD (R167). Scalar FP add with one rounding. -/
  | fadd (d : BitVec 5) (a : BitVec 5) (b : BitVec 5) (r : BitVec 3) (t : BitVec 2)
  /-- FSUB (R167). Scalar FP subtract. -/
  | fsub (d : BitVec 5) (a : BitVec 5) (b : BitVec 5) (r : BitVec 3) (t : BitVec 2)
  /-- FMUL (R167). Scalar FP multiply. -/
  | fmul (d : BitVec 5) (a : BitVec 5) (b : BitVec 5) (r : BitVec 3) (t : BitVec 2)
  /-- FDIV (R167). Scalar FP divide. -/
  | fdiv (d : BitVec 5) (a : BitVec 5) (b : BitVec 5) (r : BitVec 3) (t : BitVec 2)
  /-- FSQRT (R167). Scalar FP square root. -/
  | fsqrt (d : BitVec 5) (a : BitVec 5) (r : BitVec 3) (t : BitVec 2)
  /-- FMIN (R116). Scalar minimumNumber. -/
  | fmin (d : BitVec 5) (a : BitVec 5) (b : BitVec 5) (t : BitVec 2)
  /-- FMAX (R116). Scalar maximumNumber. -/
  | fmax (d : BitVec 5) (a : BitVec 5) (b : BitVec 5) (t : BitVec 2)
  /-- FCMP (R168). Sets a predicate from a floating-point condition. -/
  | fcmp (d : BitVec 5) (a : BitVec 5) (b : BitVec 5) (c : BitVec 4) (t : BitVec 2)
  /-- FCVT (R169). Scalar conversion between FP and integer or FP formats. -/
  | fcvt (d : BitVec 5) (a : BitVec 5) (b : BitVec 5) (s : BitVec 2) (r : BitVec 3) (t : BitVec 2)
  /-- FCLASS (R170). Sets one bit of x[d] by the class of the operand. -/
  | fclass (d : BitVec 5) (a : BitVec 5) (t : BitVec 2)
  /-- FFMA (R171). Scalar fused multiply-add with one rounding. -/
  | ffma (d : BitVec 5) (a : BitVec 5) (b : BitVec 5) (c : BitVec 5) (t : BitVec 3)
  /-- VADD_I (R172). Vector integer add under a mask. -/
  | vaddI (d : BitVec 5) (a : BitVec 5) (b : BitVec 5) (k : BitVec 3) (t : BitVec 2)
  /-- VSUB_I (R172). Vector integer subtract. -/
  | vsubI (d : BitVec 5) (a : BitVec 5) (b : BitVec 5) (k : BitVec 3) (t : BitVec 2)
  /-- VMUL_I (R172). Vector integer multiply, low bits. -/
  | vmulI (d : BitVec 5) (a : BitVec 5) (b : BitVec 5) (k : BitVec 3) (t : BitVec 2)
  /-- VMIN_I (R172). Vector signed minimum. -/
  | vminI (d : BitVec 5) (a : BitVec 5) (b : BitVec 5) (k : BitVec 3) (t : BitVec 2)
  /-- VMAX_I (R172). Vector signed maximum. -/
  | vmaxI (d : BitVec 5) (a : BitVec 5) (b : BitVec 5) (k : BitVec 3) (t : BitVec 2)
  /-- VMINU (R172). Vector unsigned minimum. -/
  | vminu (d : BitVec 5) (a : BitVec 5) (b : BitVec 5) (k : BitVec 3) (t : BitVec 2)
  /-- VMAXU (R172). Vector unsigned maximum. -/
  | vmaxu (d : BitVec 5) (a : BitVec 5) (b : BitVec 5) (k : BitVec 3) (t : BitVec 2)
  /-- VADDSS (R172). Vector add with signed saturation. -/
  | vaddss (d : BitVec 5) (a : BitVec 5) (b : BitVec 5) (k : BitVec 3) (t : BitVec 2)
  /-- VADDSU (R172). Vector add with unsigned saturation. -/
  | vaddsu (d : BitVec 5) (a : BitVec 5) (b : BitVec 5) (k : BitVec 3) (t : BitVec 2)
  /-- VSUBSS (R172). Vector subtract with signed saturation. -/
  | vsubss (d : BitVec 5) (a : BitVec 5) (b : BitVec 5) (k : BitVec 3) (t : BitVec 2)
  /-- VSUBSU (R172). Vector subtract with unsigned saturation. -/
  | vsubsu (d : BitVec 5) (a : BitVec 5) (b : BitVec 5) (k : BitVec 3) (t : BitVec 2)
  /-- VABS_I (R172). Vector integer absolute value. -/
  | vabsI (d : BitVec 5) (a : BitVec 5) (k : BitVec 3) (t : BitVec 2)
  /-- VNEG_I (R172). Vector integer negate. -/
  | vnegI (d : BitVec 5) (a : BitVec 5) (k : BitVec 3) (t : BitVec 2)
  /-- VAVGU (R172). Vector unsigned rounding average. -/
  | vavgu (d : BitVec 5) (a : BitVec 5) (b : BitVec 5) (k : BitVec 3) (t : BitVec 2)
  /-- VAND (R172). Vector AND. -/
  | vand (d : BitVec 5) (a : BitVec 5) (b : BitVec 5) (k : BitVec 3) (t : BitVec 2)
  /-- VOR (R172). Vector OR. -/
  | vor (d : BitVec 5) (a : BitVec 5) (b : BitVec 5) (k : BitVec 3) (t : BitVec 2)
  /-- VXOR (R172). Vector XOR. -/
  | vxor (d : BitVec 5) (a : BitVec 5) (b : BitVec 5) (k : BitVec 3) (t : BitVec 2)
  /-- VANDN (R172). Vector AND NOT. -/
  | vandn (d : BitVec 5) (a : BitVec 5) (b : BitVec 5) (k : BitVec 3) (t : BitVec 2)
  /-- VNOT (R172). Vector NOT. -/
  | vnot (d : BitVec 5) (a : BitVec 5) (k : BitVec 3) (t : BitVec 2)
  /-- VSHL (R172). Vector shift left per element. -/
  | vshl (d : BitVec 5) (a : BitVec 5) (b : BitVec 5) (k : BitVec 3) (t : BitVec 2)
  /-- VSHR (R172). Vector logical shift right per element. -/
  | vshr (d : BitVec 5) (a : BitVec 5) (b : BitVec 5) (k : BitVec 3) (t : BitVec 2)
  /-- VSAR (R172). Vector arithmetic shift right per element. -/
  | vsar (d : BitVec 5) (a : BitVec 5) (b : BitVec 5) (k : BitVec 3) (t : BitVec 2)
  /-- VSHLS (R173). Vector shift left by a scalar amount. -/
  | vshls (d : BitVec 5) (a : BitVec 5) (b : BitVec 5) (k : BitVec 3) (t : BitVec 2)
  /-- VSHRS (R173). Vector logical shift right by a scalar amount. -/
  | vshrs (d : BitVec 5) (a : BitVec 5) (b : BitVec 5) (k : BitVec 3) (t : BitVec 2)
  /-- VSARS (R173). Vector arithmetic shift right by a scalar amount. -/
  | vsars (d : BitVec 5) (a : BitVec 5) (b : BitVec 5) (k : BitVec 3) (t : BitVec 2)
  /-- VROTL (R172). Vector rotate left. -/
  | vrotl (d : BitVec 5) (a : BitVec 5) (b : BitVec 5) (k : BitVec 3) (t : BitVec 2)
  /-- VADD_F (R172). Vector FP add. -/
  | vaddF (d : BitVec 5) (a : BitVec 5) (b : BitVec 5) (k : BitVec 3) (t : BitVec 2)
  /-- VSUB_F (R172). Vector FP subtract. -/
  | vsubF (d : BitVec 5) (a : BitVec 5) (b : BitVec 5) (k : BitVec 3) (t : BitVec 2)
  /-- VMUL_F (R172). Vector FP multiply. -/
  | vmulF (d : BitVec 5) (a : BitVec 5) (b : BitVec 5) (k : BitVec 3) (t : BitVec 2)
  /-- VMIN_F (R172). Vector FP minimumNumber. -/
  | vminF (d : BitVec 5) (a : BitVec 5) (b : BitVec 5) (k : BitVec 3) (t : BitVec 2)
  /-- VMAX_F (R172). Vector FP maximumNumber. -/
  | vmaxF (d : BitVec 5) (a : BitVec 5) (b : BitVec 5) (k : BitVec 3) (t : BitVec 2)
  /-- VABS_F (R172). Vector FP absolute value. -/
  | vabsF (d : BitVec 5) (a : BitVec 5) (k : BitVec 3) (t : BitVec 2)
  /-- VNEG_F (R172). Vector FP negate. -/
  | vnegF (d : BitVec 5) (a : BitVec 5) (k : BitVec 3) (t : BitVec 2)
  /-- VFMA (R174). Vector fused a*b+c. -/
  | vfma (d : BitVec 5) (a : BitVec 5) (b : BitVec 5) (c : BitVec 5) (k : BitVec 3) (t : BitVec 3)
  /-- VFMS (R174). Vector fused a*b-c. -/
  | vfms (d : BitVec 5) (a : BitVec 5) (b : BitVec 5) (c : BitVec 5) (k : BitVec 3) (t : BitVec 3)
  /-- VFNMA (R174). Vector fused -(a*b)+c. -/
  | vfnma (d : BitVec 5) (a : BitVec 5) (b : BitVec 5) (c : BitVec 5) (k : BitVec 3) (t : BitVec 3)
  /-- VCMP (R175). Sets mask bits from an element-wise condition. -/
  | vcmp (d : BitVec 5) (a : BitVec 5) (b : BitVec 5) (k : BitVec 3) (t : BitVec 4) (c : BitVec 4)
  /-- VSEL (R176). Selects elements of v[a] or v[b] by a mask. -/
  | vsel (d : BitVec 5) (a : BitVec 5) (b : BitVec 5) (k : BitVec 3) (t : BitVec 3)
  /-- VBCAST (R176). Broadcasts a scalar into active elements. -/
  | vbcast (d : BitVec 5) (a : BitVec 5) (k : BitVec 3) (t : BitVec 3)
  /-- VEXTR (R176). Extracts one element into an x register. -/
  | vextr (d : BitVec 5) (a : BitVec 5) (b : BitVec 5) (t : BitVec 3)
  /-- VINS (R176). Inserts a scalar into one element. -/
  | vins (d : BitVec 5) (a : BitVec 5) (b : BitVec 5) (t : BitVec 3)
  /-- VPERM (R176). Permutes elements by an index vector. -/
  | vperm (d : BitVec 5) (a : BitVec 5) (b : BitVec 5) (k : BitVec 3) (t : BitVec 3)
  /-- VSLIDE (R176). Slides elements by a signed scalar amount. -/
  | vslide (d : BitVec 5) (a : BitVec 5) (b : BitVec 5) (k : BitVec 3) (t : BitVec 3)
  /-- VZIP (R176). Interleaves two vectors. -/
  | vzip (d : BitVec 5) (a : BitVec 5) (b : BitVec 5) (k : BitVec 3) (t : BitVec 3)
  /-- VUNZIP (R176). De-interleaves two vectors. -/
  | vunzip (d : BitVec 5) (a : BitVec 5) (b : BitVec 5) (k : BitVec 3) (t : BitVec 3)
  /-- VREDADD (R177). Tree reduction sum of active elements, optionally with a starting value. -/
  | vredadd (d : BitVec 5) (a : BitVec 5) (b : BitVec 5) (k : BitVec 3) (t : BitVec 3) (v : BitVec 1)
  /-- VREDMAX (R177). Maximum of active elements, signed or unsigned. -/
  | vredmax (d : BitVec 5) (a : BitVec 5) (k : BitVec 3) (t : BitVec 3) (u : BitVec 1)
  /-- VREDMIN (R177). Minimum of active elements, signed or unsigned. -/
  | vredmin (d : BitVec 5) (a : BitVec 5) (k : BitVec 3) (t : BitVec 3) (u : BitVec 1)
  /-- VSCANADD (R125). Inclusive prefix sum of active elements. -/
  | vscanadd (d : BitVec 5) (a : BitVec 5) (k : BitVec 3) (t : BitVec 3)
  /-- VCVT (R179). Element-wise conversion between types. -/
  | vcvt (d : BitVec 5) (a : BitVec 5) (x : BitVec 1) (y : BitVec 4) (k : BitVec 3) (t : BitVec 4) (u : BitVec 1)
  /-- VPACK (R180). Narrows integer elements with clamping. -/
  | vpack (d : BitVec 5) (a : BitVec 5) (b : BitVec 5) (k : BitVec 3) (t : BitVec 4) (u : BitVec 1)
  /-- VUNPK (R180). Widens half of the integer elements. -/
  | vunpk (d : BitVec 5) (a : BitVec 5) (h : BitVec 1) (k : BitVec 3) (t : BitVec 4) (u : BitVec 1)
  /-- VMXPACK (R181). Packs FP32 or BF16 elements into MX blocks with scales. -/
  | vmxpack (d : BitVec 5) (a : BitVec 5) (f : BitVec 4) (t : BitVec 4)
  /-- VMXUNPK (R181). Expands MX blocks to FP32 or BF16 elements. -/
  | vmxunpk (d : BitVec 5) (a : BitVec 5) (f : BitVec 4) (k : BitVec 3) (t : BitVec 4)
  /-- VDIV (R182). Vector correctly rounded divide. -/
  | vdiv (d : BitVec 5) (a : BitVec 5) (b : BitVec 5) (k : BitVec 3) (t : BitVec 2)
  /-- VSQRT (R182). Vector correctly rounded square root. -/
  | vsqrt (d : BitVec 5) (a : BitVec 5) (k : BitVec 3) (t : BitVec 2)
  /-- VRCP (R121). Vector correctly rounded reciprocal. -/
  | vrcp (d : BitVec 5) (a : BitVec 5) (k : BitVec 3) (t : BitVec 2)
  /-- VRSQ (R121). Vector reciprocal square root. -/
  | vrsq (d : BitVec 5) (a : BitVec 5) (k : BitVec 3) (t : BitVec 2)
  /-- VEXP2 (R121). Vector base-2 exponential. -/
  | vexp2 (d : BitVec 5) (a : BitVec 5) (k : BitVec 3) (t : BitVec 2)
  /-- VLOG2 (R121). Vector base-2 logarithm. -/
  | vlog2 (d : BitVec 5) (a : BitVec 5) (k : BitVec 3) (t : BitVec 2)
  /-- VSIN (R121). Vector sine. -/
  | vsin (d : BitVec 5) (a : BitVec 5) (k : BitVec 3) (t : BitVec 2)
  /-- VCOS (R121). Vector cosine. -/
  | vcos (d : BitVec 5) (a : BitVec 5) (k : BitVec 3) (t : BitVec 2)
  /-- VTANH (R121). Vector hyperbolic tangent. -/
  | vtanh (d : BitVec 5) (a : BitVec 5) (k : BitVec 3) (t : BitVec 2)
  /-- VDOT4 (R183). Accumulates signed 4-byte dot products into word elements. -/
  | vdot4 (d : BitVec 5) (a : BitVec 5) (b : BitVec 5) (k : BitVec 3)
  /-- VDOT4_U (R183). Unsigned 4-byte dot product accumulate. -/
  | vdot4U (d : BitVec 5) (a : BitVec 5) (b : BitVec 5) (k : BitVec 3)
  /-- VDOT4_SU (R183). Signed-by-unsigned 4-byte dot product accumulate. -/
  | vdot4Su (d : BitVec 5) (a : BitVec 5) (b : BitVec 5) (k : BitVec 3)
  /-- VCLMUL (R183). Low half of the carry-less product. -/
  | vclmul (d : BitVec 5) (a : BitVec 5) (b : BitVec 5) (k : BitVec 3) (t : BitVec 2)
  /-- VCLMUL_H (R183). High half of the carry-less product. -/
  | vclmulH (d : BitVec 5) (a : BitVec 5) (b : BitVec 5) (k : BitVec 3) (t : BitVec 2)
  /-- VMULH (R183). High half of the signed element product. -/
  | vmulh (d : BitVec 5) (a : BitVec 5) (b : BitVec 5) (k : BitVec 3) (t : BitVec 2)
  /-- VMULH_U (R183). High half of the unsigned element product. -/
  | vmulhU (d : BitVec 5) (a : BitVec 5) (b : BitVec 5) (k : BitVec 3) (t : BitVec 2)
  /-- KAND (R184). Mask AND. -/
  | kand (d : BitVec 5) (a : BitVec 5) (b : BitVec 5)
  /-- KOR (R184). Mask OR. -/
  | kor (d : BitVec 5) (a : BitVec 5) (b : BitVec 5)
  /-- KXOR (R184). Mask XOR. -/
  | kxor (d : BitVec 5) (a : BitVec 5) (b : BitVec 5)
  /-- KNOT (R184). Mask NOT. -/
  | knot (d : BitVec 5) (a : BitVec 5)
  /-- KPOPC (R184). Counts set mask bits below n. -/
  | kpopc (d : BitVec 5) (a : BitVec 5) (t : BitVec 3)
  /-- KFIRST (R184). Index of the lowest set mask bit, or all ones. -/
  | kfirst (d : BitVec 5) (a : BitVec 5) (t : BitVec 3)
  /-- KMOV (R184). Mask copy. -/
  | kmov (d : BitVec 5) (a : BitVec 5)
  /-- KMOV_X (R184). Builds a mask from two x registers. -/
  | kmovX (d : BitVec 5) (a : BitVec 5) (b : BitVec 5)
  /-- KMOV_LO (R184). Low 64 mask bits to an x register. -/
  | kmovLo (d : BitVec 5) (a : BitVec 5)
  /-- KMOV_HI (R184). High 64 mask bits to an x register. -/
  | kmovHi (d : BitVec 5) (a : BitVec 5)
  /-- LDB (R190). Loads a sign-extended byte. -/
  | ldb (d : BitVec 5) (b : BitVec 5) (e : BitVec 12)
  /-- LDBU (R190). Loads a zero-extended byte. -/
  | ldbu (d : BitVec 5) (b : BitVec 5) (e : BitVec 12)
  /-- LDH (R190). Loads a sign-extended half. -/
  | ldh (d : BitVec 5) (b : BitVec 5) (e : BitVec 12)
  /-- LDHU (R190). Loads a zero-extended half. -/
  | ldhu (d : BitVec 5) (b : BitVec 5) (e : BitVec 12)
  /-- LDW (R190). Loads a sign-extended word. -/
  | ldw (d : BitVec 5) (b : BitVec 5) (e : BitVec 12)
  /-- LDWU (R190). Loads a zero-extended word. -/
  | ldwu (d : BitVec 5) (b : BitVec 5) (e : BitVec 12)
  /-- LDD (R190). Loads a doubleword. -/
  | ldd (d : BitVec 5) (b : BitVec 5) (e : BitVec 12)
  /-- STB (R190). Stores a byte. -/
  | stb (s : BitVec 5) (b : BitVec 5) (e : BitVec 12)
  /-- STH (R190). Stores a half. -/
  | sth (s : BitVec 5) (b : BitVec 5) (e : BitVec 12)
  /-- STW (R190). Stores a word. -/
  | stw (s : BitVec 5) (b : BitVec 5) (e : BitVec 12)
  /-- STD (R190). Stores a doubleword. -/
  | std (s : BitVec 5) (b : BitVec 5) (e : BitVec 12)
  /-- LDV (R191). Loads 128 bytes into a vector under a byte mask. -/
  | ldv (d : BitVec 5) (b : BitVec 5) (k : BitVec 3) (e : BitVec 12)
  /-- STV (R191). Stores 128 bytes of a vector under a byte mask. -/
  | stv (s : BitVec 5) (b : BitVec 5) (k : BitVec 3) (e : BitVec 12)
  /-- LDVS (R192). Strided vector load. -/
  | ldvs (d : BitVec 5) (a : BitVec 5) (b : BitVec 5) (k : BitVec 3) (w : BitVec 2)
  /-- STVS (R192). Strided vector store. -/
  | stvs (d : BitVec 5) (a : BitVec 5) (b : BitVec 5) (k : BitVec 3) (w : BitVec 2)
  /-- LDVG (R192). Indexed vector gather. -/
  | ldvg (d : BitVec 5) (a : BitVec 5) (b : BitVec 5) (c : BitVec 2) (k : BitVec 3) (w : BitVec 2)
  /-- STVX (R192). Indexed vector scatter. -/
  | stvx (d : BitVec 5) (a : BitVec 5) (b : BitVec 5) (c : BitVec 2) (k : BitVec 3) (w : BitVec 2)
  /-- LDNC (R193). Load that reads S lines from home, bypassing the L1. -/
  | ldnc (d : BitVec 5) (b : BitVec 5) (z : BitVec 3) (e : BitVec 12)
  /-- LDAQ (R194). Acquire (or SC) load at a scope. -/
  | ldaq (s : BitVec 4) (o : BitVec 2) (k : BitVec 3) (a : BitVec 5) (b : BitVec 5)
  /-- STRL (R194). Release (or SC) store at a scope. -/
  | strl (s : BitVec 4) (o : BitVec 2) (k : BitVec 3) (a : BitVec 5) (b : BitVec 5)
  /-- AMO (R195). Atomic read-modify-write of an aligned word or doubleword. -/
  | amo (s : BitVec 4) (o : BitVec 2) (w : BitVec 1) (a : BitVec 5) (b : BitVec 5) (r : BitVec 1) (f : BitVec 4)
  /-- CAS (R196). Atomic compare-and-swap. -/
  | cas (s : BitVec 4) (o : BitVec 2) (w : BitVec 1) (a : BitVec 5) (b : BitVec 5) (r : BitVec 1)
  /-- FENCE (R197). Orders accesses at a scope; waits for fabric acknowledgments and reports deferred failures. -/
  | fence (s : BitVec 4) (o : BitVec 2)
  /-- AFENCE (R198). Places a barrier in named copy queues. -/
  | afence (a : BitVec 5)
  /-- CFLUSH (R199). Writes back a modified line and removes it from every cache of the package. -/
  | cflush (a : BitVec 5)
  /-- CCLEAN (R199). Writes back a modified line, keeping clean copies. -/
  | cclean (a : BitVec 5)
  /-- CINV (R199). Removes an S line from the issuing core's L1. -/
  | cinv (a : BitVec 5)
  /-- CZERO (R199). Writes 128 zero bytes to a line. -/
  | czero (a : BitVec 5)
  /-- PREF (R199). Hint to bring a line into a named level. -/
  | pref (a : BitVec 5) (l : BitVec 5)
  /-- TOKWAIT (R200). Acquire-reads a token word and parks until its condition holds. -/
  | tokwait (s : BitVec 4) (k : BitVec 3) (a : BitVec 5) (b : BitVec 5)
  /-- MSEND (R201). Posts a 64-byte message to a device-to-host mailbox and writes a status. -/
  | msend (d : BitVec 5) (a : BitVec 5) (b : BitVec 5)
  /-- SPAWN (R202). Sends a launch request as oldest bundle after a PACKAGE release; writes whether the router accepted it. -/
  | spawn (d : BitVec 5) (a : BitVec 5)
  /-- EXIT (R24). Squashes younger bundles and moves the context to Exiting to drain. -/
  | exit
  /-- WCFG (R208). Replaces a feeder channel's nest from a descriptor if valid. -/
  | wcfg (a : BitVec 5) (c : BitVec 5) (p : BitVec 3)
  /-- WGET (R209). Takes the next chunk of a feeder channel as one indivisible operation. -/
  | wget (d : BitVec 5) (c : BitVec 5) (p : BitVec 3)
  /-- MKINIT (R210). Sets a marker's participant count and starts a new base phase. -/
  | mkinit (a : BitVec 5) (m : BitVec 5) (p : BitVec 3)
  /-- MKARR (R210). Arrives at a marker with release at SKEIN scope, completing the phase at the last arrival. -/
  | mkarr (d : BitVec 5) (m : BitVec 5)
  /-- MKWAIT (R210). Waits for a marker phase and acquires its arrivals, or writes false. -/
  | mkwait (a : BitVec 5) (m : BitVec 5) (p : BitVec 3)
  /-- TKWAIT (R211). Parks until the named ticket's replay notice has arrived. -/
  | tkwait (a : BitVec 5)
  /-- TKPOLL (R211). Writes whether the named ticket's notice has arrived, without waiting. -/
  | tkpoll (d : BitVec 5) (a : BitVec 5)
  /-- COPY (R205). Probes and enters a 2-D copy command into a copy queue at retirement. -/
  | copy (c : BitVec 2) (s : BitVec 4) (d : BitVec 5) (a : BitVec 5) (g : BitVec 5) (r : BitVec 5) (q : BitVec 2)
  /-- CPFL (R207). Enters a 2-D cache prefill command into a copy queue. -/
  | cpfl (l : BitVec 2) (c : BitVec 2) (s : BitVec 4) (a : BitVec 5) (g : BitVec 5) (r : BitVec 5) (q : BitVec 2)
  /-- TCFG (R217). Enables tile state with eight slots if quota allows, or writes fmt. -/
  | tcfg (q : BitVec 3) (f : BitVec 1) (a : BitVec 5) (i : BitVec 16)
  /-- TZERO (R218). Zeroes a tile register. -/
  | tzero (d : BitVec 3)
  /-- TREL (R218). Returns the thread's tile slots and ends tile-enabled state. -/
  | trel
  /-- TLD (R224). Loads a tile register from memory by geometry. -/
  | tld (d : BitVec 3) (b : BitVec 5) (g : BitVec 5)
  /-- TST (R225). Stores a tile register raw or converted after retirement. -/
  | tst (a : BitVec 3) (b : BitVec 5) (g : BitVec 5) (t : BitVec 4)
  /-- TST_AMAX (R226). Stores a tile and merges its largest magnitude into an amax word. -/
  | tstAmax (a : BitVec 3) (b : BitVec 5) (g : BitVec 5) (t : BitVec 4) (w : BitVec 5) (s : BitVec 4)
  /-- TMMA (R229). One 64x64 multiply-accumulate D = C + A x B^T. -/
  | tmma (d : BitVec 3) (c : BitVec 3) (a : BitVec 5) (ga : BitVec 5) (b : BitVec 5) (gb : BitVec 5) (am : BitVec 1) (bm : BitVec 1) (mx : BitVec 1) (sa : BitVec 5) (sb : BitVec 5)
  /-- TMMAG (R229). Block multiply of a given shape with operands from memory. -/
  | tmmag (d : BitVec 3) (c : BitVec 3) (h : BitVec 3) (a : BitVec 5) (ga : BitVec 5) (b : BitVec 5) (gb : BitVec 5) (mx : BitVec 1) (sa : BitVec 5) (sb : BitVec 5)
  /-- TMMAP (R231). 2x4 block multiply that may pair with a sibling core's to share B. -/
  | tmmap (t : BitVec 5) (a : BitVec 5) (ga : BitVec 5) (b : BitVec 5) (gb : BitVec 5) (mx : BitVec 1) (sa : BitVec 5) (sb : BitVec 5)
  /-- TADD (R232). Adds two accumulator tiles. -/
  | tadd (d : BitVec 3) (a : BitVec 3) (b : BitVec 3)
  /-- TSCL_ROW (R232). Scales each accumulator row by a vector element. -/
  | tsclRow (d : BitVec 3) (a : BitVec 3) (x : BitVec 5)
  /-- TSCL_COL (R232). Scales each accumulator column by a vector element. -/
  | tsclCol (d : BitVec 3) (a : BitVec 3) (x : BitVec 5)
  /-- TCVT (R232). Converts accumulators into a part of a destination tile. -/
  | tcvt (d : BitVec 3) (a : BitVec 3) (h : BitVec 3) (t : BitVec 4)
  /-- TTR (R232). Transposes a tile in bands of an element width. -/
  | ttr (d : BitVec 3) (a : BitVec 3) (t : BitVec 4)
  /-- TROWV (R232). Copies half a tile row into a vector register. -/
  | trowv (a : BitVec 3) (x : BitVec 5) (y : BitVec 5)
  /-- TVROW (R232). Copies a vector register into half a tile row. -/
  | tvrow (d : BitVec 3) (x : BitVec 5) (y : BitVec 5)
  /-- TAMAX (R232). Writes the largest accumulator magnitude to an x register. -/
  | tamax (a : BitVec 3) (x : BitVec 5)
  /-- TSAVE (R233). Writes the tile image of m0-m7 and fmt. -/
  | tsave (b : BitVec 5)
  /-- TRSTR (R233). Loads a tile image and enables tile state if quota allows. -/
  | trstr (q : BitVec 3) (b : BitVec 5)
  /-- TAKE_INTERRUPT (R299). An enabled interrupt becomes takeable: renaming stops, unretired bundles settle or squash, and the interrupt is taken at a boundary. -/
  | takeInterrupt
  /-- TIMECMP_REACHED (R61). Package time reaches cw.timecmp, making the timer pending bit read 1. -/
  | timecmpReached
  /-- DEFERRED_FAIL_DUE (R197). A posted-store FAIL unreported by a FENCE for 1 ms becomes due. -/
  | deferredFailDue
  /-- DEFERRED_REMOTE_STORE_TRAP (R197). A due failure is reported at the next boundary with no enabled interrupt, waking a parked thread. -/
  | deferredRemoteStoreTrap
  /-- FENCE_DELIVERY_FAILURE (R197). A FENCE waiting on undeliverable stores raises cause 0x10 once the loss-log entry is written. -/
  | fenceDeliveryFailure
  /-- LAUNCH_ROUTE (R278). The router takes a launch request, checks it, chooses the core and enters it in the queue or holds it. -/
  | launchRoute
  /-- ROUTER_FILL (R279). A freed launch-queue entry is filled from waiting requests in order of first refusal. -/
  | routerFill
  /-- LAUNCH_CLAIM (R20). The queue head claims an Idle context, moving it to Starting. -/
  | launchClaim
  /-- THREAD_START (R21). A Starting context's first bundle fetch issues with the start state; it becomes Running. -/
  | threadStart
  /-- LAUNCH_ENTRY_AGING (R280). An entry waiting 1,048,576 cycles at one priority is raised by one. -/
  | launchEntryAging
  /-- EXIT_DRAIN_COMPLETE (R24). An Exiting context's stores are performed; tiles are released, the completion action performed, and it becomes Idle. -/
  | exitDrainComplete
  /-- COMPLETION_MESSAGE_TIMEOUT (R335). A completion message waiting 1 ms for a slot is dropped and counted in lost. -/
  | completionMessageTimeout
  /-- PARKED_WAKE (R28). A parked thread's wake condition holds and it returns to Running. -/
  | parkedWake
  /-- WAITUNTIL_EXPIRY (R154). Package time reaches a parked WAITUNTIL's target and it completes within 40 ns. -/
  | waituntilExpiry
  /-- ISSUE_ARBITRATE (R281). Each cycle the core chooses up to two ready contexts to rename. -/
  | issueArbitrate
  /-- URGENT_MARK (R281). A context's wait count reaches 32 and it is marked urgent. -/
  | urgentMark
  /-- FUSED_FETCH (R34). One instruction-cache access and decode serves a fused group of contexts. -/
  | fusedFetch
  /-- MISPREDICT_SQUASH (R133). A branch resolves against the prediction and wrong-path work is discarded. -/
  | mispredictSquash
  /-- STORE_PERFORM (R185). A retired store is performed in memory after retirement. -/
  | storePerform
  /-- AMAX_MERGE (R226). After retirement, TST.AMAX's maximum is merged atomically into the amax word. -/
  | amaxMerge
  /-- FABRIC_RESPONSE (R189). A fabric answer (data, OK, TICKET, BLOCKED or REFUSED) arrives at the source core. -/
  | fabricResponse
  /-- TICKET_NOTICE (R344). A replay notice arrives and the core replays, skips or cancels the flow's entries in order. -/
  | ticketNotice
  /-- TILE_GRANT (R284). The tile arbiter grants an eligible 64x64 step on an engine by weighted round robin. -/
  | tileGrant
  /-- TILE_STEP_COMPLETE (R230). An engine finishes a 64x64 step and writes its destination slot. -/
  | tileStepComplete
  /-- TMMAP_PAIR (R231). The arbiter pairs two TMMAP commands of sibling cores with equal tags. -/
  | tmmapPair
  /-- TMMAP_PAIR_TIMEOUT (R231). A TMMAP unpaired for 256 cycles runs alone. -/
  | tmmapPairTimeout
  /-- GAUGE_WINDOW (R286). At each 64-cycle window the Gauge moves its ceiling and inserts empty cycles or dummy steps. -/
  | gaugeWindow
  /-- COPY_UNIT (R205). The copy engine performs one unit of a queue's head command, then its completion action after the last. -/
  | copyUnit
  /-- CPFL_FILL (R272). The copy engine fills or skips lines of a CPFL command. -/
  | cpflFill
  /-- S_DIRTY_WRITEBACK (R241). A dirty S byte is written back no later than 20 us after it was written. -/
  | sDirtyWriteback
  /-- CACHE_EVICTION (R273). A fill chooses an unpinned victim and writes back modified data. -/
  | cacheEviction
  /-- COHERENCE_REQUEST (R276). A coherence request for a line is answered, or held while the line is pinned with permission. -/
  | coherenceRequest
  /-- HOST_MEM_REQUEST (R261). A host access to HBM over CXL.mem is served coherently with back-invalidation. -/
  | hostMemRequest
  /-- ICSEND (R308). A supervisor write names a target context for an inter-core interrupt. -/
  | icsend
  /-- ICSEND_DELIVER (R308). Within 200 cycles the inter-core pending bit is set in the named context with its source. -/
  | icsendDeliver
  /-- GANG_STOP_TRIGGER (R314). Package time reaches GSTIME with arm set; the halt tree stops user renaming, takes snapshots and sets the pending bit. -/
  | gangStopTrigger
  /-- GANG_RELEASE (R316). Writing release to GSCTL resumes held contexts and clears arm. -/
  | gangRelease
  /-- SHOOTDOWN_REQUEST (R325). A write of identity 1 to a proxy hart file, or of slot 16's word 0, starts a shootdown slot's request. -/
  | shootdownRequest
  /-- SHOOTDOWN_COMPLETE (R327). After dropped entries' accesses settle, the completion word is written with release. -/
  | shootdownComplete
  /-- HDM_COMMIT (R368). Committing HDM decoder 0 sets HBMBASE, only while READY.done is 1. -/
  | hdmCommit
  /-- MAILBOX_DOORBELL (R332). A write to MBDB lets the part read entries up to its value. -/
  | mailboxDoorbell
  /-- LAUNCH_ENTRY (R333). A host-to-device launch entry at the head is checked, acknowledged and sent to the router or refused. -/
  | launchEntry
  /-- SERVICE_ENTRY (R333). A service entry at the head raises the mailbox interrupt and waits for MBSVC. -/
  | serviceEntry
  /-- WAKE_ENTRY (R333). A wake entry posts a wake event to a named context, or is refused. -/
  | wakeEntry
  /-- MBSVC (R333). Writing the head service entry's seq consumes it. -/
  | mbsvc
  /-- MAILBOX_RESET (R336). Writing 1 to MBRST discards unconsumed entries and closes the mailbox. -/
  | mailboxReset
  /-- MAILBOX_OPEN (R331). Setting MBCFG.open opens a mailbox, locking SRVMASK on the first non-zero mailbox. -/
  | mailboxOpen
  /-- VERSION_WRITE (R346). A partner write to a version word recomputes the agreed version. -/
  | versionWrite
  /-- FABRIC_REQUEST (R342). A request-class packet arrives at the home NIU and is blocked, refused, performed or ticketed. -/
  | fabricRequest
  /-- FABRIC_REPLAY (R342). A replay arrives at home and is admitted or blocked again, settling the source entry. -/
  | fabricReplay
  /-- FABRIC_SKIP (R342). A skip arrives at home and settles the source entry. -/
  | fabricSkip
  /-- FABRIC_CANCEL (R305). A cancel arrives at home and settles the ticket's source entry like a replay without performing. -/
  | fabricCancel
  /-- TKDONE (R343). Writing TKDONE serves a live ticket and sends its OK or FAIL notice to every source. -/
  | tkdone
  /-- NIU_HELD_ADMIT (R345). A request held for lack of entries, tickets or ring room is taken in when the resource frees. -/
  | niuHeldAdmit
  /-- NIU_BUSY (R345). A request held 16 us causes BUSY to be sent to its source. -/
  | niuBusy
  /-- BUSY_RECEIVE (R345). A source receiving BUSY stops new requests to that package until the answer. -/
  | busyReceive
  /-- BUSY_BACKOFF_EXPIRY (R345). The source's backoff after a BUSY-held answer ends. -/
  | busyBackoffExpiry
  /-- PORT_RETRAIN_ENTER (R349). 16 CRC failures in 1 ms or loss of lane lock puts a port into Retraining. -/
  | portRetrainEnter
  /-- PORT_UP (R349). Training of a port succeeds and it becomes Up. -/
  | portUp
  /-- PORT_FAILED (R356). A port not Up 2 ms after leaving Up becomes Failed, discards its packets and floods a notice. -/
  | portFailed
  /-- PORT_RETRAIN (R349). Writing retrain to a Failed port starts training. -/
  | portRetrain
  /-- PORT_FAILURE_NOTICE (R356). A port-failure notice arrives; the NIU logs and completes its lost requests and reroutes flows. -/
  | portFailureNotice
  /-- SYNC_SEND (R354). The grandmaster sends a one-step Sync every 2^-7 s on every Up port. -/
  | syncSend
  /-- SYNC_MESSAGE (R354). A Sync arrives; the package forwards it and corrects its time. -/
  | syncMessage
  /-- PDELAY_MEASURE (R354). A peer-delay exchange measures a link's delay. -/
  | pdelayMeasure
  /-- TIME_LOCK (R354). Offset within 10 ns for 1 s makes package time locked. -/
  | timeLock
  /-- TIME_LOCK_LOSS (R354). No Sync for 1 s or offset above 1 us loses lock. -/
  | timeLockLoss
  /-- PTSET (R355). Grandmaster write sets the next value of package time, forward only. -/
  | ptset
  /-- CORRECTED_ERROR (R359). A corrected error is counted and may write an error record. -/
  | correctedError
  /-- UNCORRECTABLE_ERROR (R359). An uncorrectable error poisons a line, refetches, or raises a machine check, and may terminate tenants. -/
  | uncorrectableError
  /-- PATROL_SCRUB (R359). The HBM patrol scrub reads a line and writes it back corrected. -/
  | patrolScrub
  /-- TNKILL (R364). Writing a mask terminates tenants: contexts to Idle, queues emptied, cancels sent, skeins wiped. -/
  | tnkill
  /-- RESET_RELEASE (R366). Reset release starts the Darkroom and the staged start. -/
  | resetRelease
  /-- IMAGE_VERIFY (R369). The Darkroom verifies slot A then B, or enters recovery wait. -/
  | imageVerify
  /-- SAFELIGHT (R366). Safelight is reached: enumeration, mailbox 0 and the Shutter are served; latched Shutter levels apply. -/
  | safelight
  /-- DIE_READY (R368). A die finishes wipe and self-test, or fails; held launches are served. -/
  | dieReady
  /-- HBM_PAIR_READY (R367). An HBM pair finishes training and wipe, or fails. -/
  | hbmPairReady
  /-- RECOVER (R371). Darkroom command: verifies a pushed recovery image and runs it. -/
  | recover
  /-- COMMIT (R372). Darkroom command: blows rollback fuses up to the running svn. -/
  | commit
  /-- ATTEST (R373). Darkroom command: writes a signed attestation report and replies. -/
  | attest
  /-- LCADV (R375). Darkroom command: wipes, blows the next life-cycle fuse and resets. -/
  | lcadv
  /-- REVOKE (R372). Darkroom command: blows a key slot's revocation bit. -/
  | revoke
  /-- DARKROOM_UNKNOWN_COMMAND (R372). Any other command code is refused. -/
  | darkroomUnknownCommand
  /-- SRVLOCK (R378). A firmware write of 1 locks the server mask, filling empty dies' default bits. -/
  | srvlock
  /-- SHUTTER_FRAME (R380). A valid Shutter pin frame arrives; two equal frames deliver a level. -/
  | shutterFrame
  /-- SHUTTER_PIN_FAULT (R380). No valid pin frame for 100 us sets pinfault. -/
  | shutterPinFault
  /-- SHTIN (R380). Host write delivers an in-band Shutter level. -/
  | shtin
  /-- SHUTTER_I3C_WRITE (R380). An I3C private write delivers a Shutter level. -/
  | shutterI3cWrite
  /-- POWER_MANAGER_TICK (R383). Each microsecond the power manager deepens or relaxes shedding steps. -/
  | powerManagerTick
  /-- VOLTAGE_SETTLED (R384). A raised voltage settles and frequency steps may follow. -/
  | voltageSettled
  /-- PFAIL (R389). PFAIL held 1 us starts the power-fail drain of thread images to flash. -/
  | pfail
  /-- PFAIL_STOP_TIMEOUT (R389). After 20 us an unanswered fabric or U atomic is abandoned unretired. -/
  | pfailStopTimeout
  /-- PFSTAT_CLEAR (R392). Writing clear erases the flash drain record. -/
  | pfstatClear
  /-- REGISTER_WRITE (R318). A write to a device register without its own row applies each field's access rule. -/
  | registerWrite
  /-- ILLEGAL_INSTRUCTION (R91). A bundle holding a pattern that is not an instruction raises the illegal-instruction trap at the step that holds it. -/
  | illegalInstruction
  /-- HOST_LINK_TRAINED (R328). A host link trains, as CXL 3.x or as PCIe only, and starts carrying traffic. -/
  | hostLinkTrained
  /-- HOST_LINK_DOWN (R329). A host link goes down and the other link carries all CXL.cache and CXL.mem traffic. -/
  | hostLinkDown
  /-- AGENT_DIED (R361). The directory finds that an agent has died holding the only modified copy of a line, and the line becomes poisoned. -/
  | agentDied
  /-- FLIT_CRC_FAILURE (R349). A flit arrives with a failed CRC and is resent from the retry buffer, counted in PORTST.crc. -/
  | flitCrcFailure
  deriving DecidableEq, Repr

/-- What happens in an event row, with its operands: what it happens to, and what the outside supplies. exec of the row's
constructor reads them from the state, where the step has put them. -/
inductive Event where
  | takeInterrupt (c : CtxId)
  | timecmpReached (c : CtxId)
  | deferredFailDue (c : CtxId)
  | deferredRemoteStoreTrap (c : CtxId)
  | fenceDeliveryFailure (c : CtxId)
  | launchRoute (o : LaunchOrigin) (q : LaunchReq)
  | routerFill (core : CoreId)
  | launchClaim (core : CoreId)
  | threadStart (c : CtxId)
  | launchEntryAging (core : CoreId) (n : BitVec 4)
  | exitDrainComplete (c : CtxId)
  | completionMessageTimeout (n : Nat)
  | parkedWake (c : CtxId)
  | waituntilExpiry (c : CtxId)
  | issueArbitrate (core : CoreId)
  | urgentMark (c : CtxId)
  | fusedFetch (core : CoreId) (members : BitVec 8)
  | mispredictSquash (c : CtxId)
  | storePerform (c : CtxId) (n : Nat)
  | amaxMerge (c : CtxId) (n : Nat)
  | fabricResponse (core : CoreId) (o : FabOwner) (ans : FabAnswer)
  | ticketNotice (core : CoreId) (home : PkgId) (t : BitVec 16) (ok : Bool)
  | tileGrant (k : SkeinId) (e : BitVec 2)
  | tileStepComplete (k : SkeinId) (e : BitVec 2)
  | tmmapPair (k : SkeinId) (n : BitVec 2)
  | tmmapPairTimeout (c : CtxId)
  | gaugeWindow (k : SkeinId)
  | copyUnit (k : SkeinId)
  | cpflFill (k : SkeinId)
  | sDirtyWriteback (core : CoreId) (l : LineNo)
  | cacheEviction (level : BitVec 2) (u : CoreId) (l : LineNo)
  | coherenceRequest (k : SkeinId) (l : LineNo) (excl outside : Bool)
  | hostMemRequest (a : PAddr) (w : HostAccess)
  | icsend (core : CoreId) (v : Dword)
  | icsendDeliver (core : CoreId)
  | gangStopTrigger
  | gangRelease
  | shootdownRequest (n : BitVec 5)
  | shootdownComplete (n : BitVec 5)
  | hdmCommit (base : PAddr)
  | mailboxDoorbell (m : BitVec 6) (v : Dword)
  | launchEntry (m : BitVec 6)
  | serviceEntry (m : BitVec 6)
  | wakeEntry (m : BitVec 6)
  | mbsvc (m : BitVec 6) (v : Dword)
  | mailboxReset (toHost : Bool) (m : BitVec 6) (v : Dword)
  | mailboxOpen (toHost : Bool) (m : BitVec 6) (v : Dword)
  | versionWrite (n : BitVec 4) (lo : Byte) (hi : Byte)
  | fabricRequest (q : Packet)
  | fabricReplay (q : Packet)
  | fabricSkip (src : PkgId) (core : CoreId)
  | fabricCancel (src : PkgId) (core : CoreId)
  | tkdone (v : Dword)
  | niuHeldAdmit
  | niuBusy
  | busyReceive (core : CoreId) (dest : PkgId)
  | busyBackoffExpiry (core : CoreId) (dest : PkgId)
  | portRetrainEnter (p : BitVec 3)
  | portUp (p : BitVec 3) (peer : PkgId)
  | portFailed (p : BitVec 3)
  | portRetrain (p : BitVec 3)
  | portFailureNotice (n : PkgId) (p : BitVec 3) (t : Dword)
  | syncSend
  | syncMessage (p : BitVec 3) (v : Dword)
  | pdelayMeasure (p : BitVec 3) (delay : BitVec 32)
  | timeLock
  | timeLockLoss
  | ptset (v : Dword)
  | correctedError (u : BitVec 4) (loc : Dword) (a : PAddr)
  | uncorrectableError (u : BitVec 4) (loc : Dword) (a : PAddr) (modified : Bool)
  | patrolScrub (l : LineNo)
  | tnkill (v : Dword)
  | resetRelease
  | imageVerify
  | safelight (bar : PAddr)
  | dieReady (n : BitVec 3) (ok : Bool)
  | hbmPairReady (n : BitVec 3) (ok : Bool)
  | recover (len : Dword)
  | commit (svn : Byte)
  | attest (nonce : BitVec 256)
  | lcadv (target : Byte)
  | revoke (k : Byte)
  | darkroomUnknownCommand (code : BitVec 16)
  | srvlock (v : Dword)
  | shutterFrame (f : BitVec 16)
  | shutterPinFault
  | shtin (v : Dword)
  | shutterI3cWrite (v : Byte)
  | powerManagerTick (watts : BitVec 16)
  | voltageSettled
  | pfail
  | pfailStopTimeout
  | pfstatClear
  | registerWrite (by_ : Accessor) (off : BitVec 28) (v : Dword)
  | illegalInstruction (w : Dword)
  | hostLinkTrained (n : BitVec 1) (mode : LinkMode)
  | hostLinkDown (n : BitVec 1)
  | agentDied (l : LineNo)
  | flitCrcFailure (p : BitVec 3)
  deriving DecidableEq, Repr

/-- The row of the opcode table an event belongs to. -/
def Event.row : Event → Instr
  | .takeInterrupt _ => .takeInterrupt
  | .timecmpReached _ => .timecmpReached
  | .deferredFailDue _ => .deferredFailDue
  | .deferredRemoteStoreTrap _ => .deferredRemoteStoreTrap
  | .fenceDeliveryFailure _ => .fenceDeliveryFailure
  | .launchRoute _ _ => .launchRoute
  | .routerFill _ => .routerFill
  | .launchClaim _ => .launchClaim
  | .threadStart _ => .threadStart
  | .launchEntryAging _ _ => .launchEntryAging
  | .exitDrainComplete _ => .exitDrainComplete
  | .completionMessageTimeout _ => .completionMessageTimeout
  | .parkedWake _ => .parkedWake
  | .waituntilExpiry _ => .waituntilExpiry
  | .issueArbitrate _ => .issueArbitrate
  | .urgentMark _ => .urgentMark
  | .fusedFetch _ _ => .fusedFetch
  | .mispredictSquash _ => .mispredictSquash
  | .storePerform _ _ => .storePerform
  | .amaxMerge _ _ => .amaxMerge
  | .fabricResponse _ _ _ => .fabricResponse
  | .ticketNotice _ _ _ _ => .ticketNotice
  | .tileGrant _ _ => .tileGrant
  | .tileStepComplete _ _ => .tileStepComplete
  | .tmmapPair _ _ => .tmmapPair
  | .tmmapPairTimeout _ => .tmmapPairTimeout
  | .gaugeWindow _ => .gaugeWindow
  | .copyUnit _ => .copyUnit
  | .cpflFill _ => .cpflFill
  | .sDirtyWriteback _ _ => .sDirtyWriteback
  | .cacheEviction _ _ _ => .cacheEviction
  | .coherenceRequest _ _ _ _ => .coherenceRequest
  | .hostMemRequest _ _ => .hostMemRequest
  | .icsend _ _ => .icsend
  | .icsendDeliver _ => .icsendDeliver
  | .gangStopTrigger => .gangStopTrigger
  | .gangRelease => .gangRelease
  | .shootdownRequest _ => .shootdownRequest
  | .shootdownComplete _ => .shootdownComplete
  | .hdmCommit _ => .hdmCommit
  | .mailboxDoorbell _ _ => .mailboxDoorbell
  | .launchEntry _ => .launchEntry
  | .serviceEntry _ => .serviceEntry
  | .wakeEntry _ => .wakeEntry
  | .mbsvc _ _ => .mbsvc
  | .mailboxReset _ _ _ => .mailboxReset
  | .mailboxOpen _ _ _ => .mailboxOpen
  | .versionWrite _ _ _ => .versionWrite
  | .fabricRequest _ => .fabricRequest
  | .fabricReplay _ => .fabricReplay
  | .fabricSkip _ _ => .fabricSkip
  | .fabricCancel _ _ => .fabricCancel
  | .tkdone _ => .tkdone
  | .niuHeldAdmit => .niuHeldAdmit
  | .niuBusy => .niuBusy
  | .busyReceive _ _ => .busyReceive
  | .busyBackoffExpiry _ _ => .busyBackoffExpiry
  | .portRetrainEnter _ => .portRetrainEnter
  | .portUp _ _ => .portUp
  | .portFailed _ => .portFailed
  | .portRetrain _ => .portRetrain
  | .portFailureNotice _ _ _ => .portFailureNotice
  | .syncSend => .syncSend
  | .syncMessage _ _ => .syncMessage
  | .pdelayMeasure _ _ => .pdelayMeasure
  | .timeLock => .timeLock
  | .timeLockLoss => .timeLockLoss
  | .ptset _ => .ptset
  | .correctedError _ _ _ => .correctedError
  | .uncorrectableError _ _ _ _ => .uncorrectableError
  | .patrolScrub _ => .patrolScrub
  | .tnkill _ => .tnkill
  | .resetRelease => .resetRelease
  | .imageVerify => .imageVerify
  | .safelight _ => .safelight
  | .dieReady _ _ => .dieReady
  | .hbmPairReady _ _ => .hbmPairReady
  | .recover _ => .recover
  | .commit _ => .commit
  | .attest _ => .attest
  | .lcadv _ => .lcadv
  | .revoke _ => .revoke
  | .darkroomUnknownCommand _ => .darkroomUnknownCommand
  | .srvlock _ => .srvlock
  | .shutterFrame _ => .shutterFrame
  | .shutterPinFault => .shutterPinFault
  | .shtin _ => .shtin
  | .shutterI3cWrite _ => .shutterI3cWrite
  | .powerManagerTick _ => .powerManagerTick
  | .voltageSettled => .voltageSettled
  | .pfail => .pfail
  | .pfailStopTimeout => .pfailStopTimeout
  | .pfstatClear => .pfstatClear
  | .registerWrite _ _ _ => .registerWrite
  | .illegalInstruction _ => .illegalInstruction
  | .hostLinkTrained _ _ => .hostLinkTrained
  | .hostLinkDown _ => .hostLinkDown
  | .agentDied _ => .agentDied
  | .flitCrcFailure _ => .flitCrcFailure

end Sys2Proof
end

