-- ==== Sys2Proof/Machine/State.lean ====
section
/-! DEFINITION. The state of one CKS48 package, as plain data: every register, table, queue and memory the manual gives
it, and the model's own scheduling data. Numbered things (contexts, cores, skeins, mailboxes, ports) are tables keyed by
their number; an unlisted key holds the reset value. -/

namespace Sys2Proof.Machine

/-! ## Tables -/

/-- The value of a key in a table, or d where it is not listed. -/
def tableGet {α : Type} (t : List (Nat × α)) (k : Nat) (d : α) : α :=
  match t with
  | [] => d
  | (i, v) :: r => if i = k then v else tableGet r k d

/-- Set the value of a key; keys stay in rising order where they were. -/
def tableSet {α : Type} (t : List (Nat × α)) (k : Nat) (v : α) : List (Nat × α) :=
  match t with
  | [] => [(k, v)]
  | (i, w) :: r => if i = k then (k, v) :: r else if k < i then (k, v) :: (i, w) :: r else (i, w) :: tableSet r k v

/-! ## Contexts -/

/-- Context states (R10). -/
inductive CtxState where
  | idle
  | starting
  | running
  | parked
  | exiting
  deriving DecidableEq, Repr

/-- Page treatments (R239). -/
inductive Treat where
  | D
  | S
  | U
  deriving DecidableEq, Repr

/-- What a parked context waits for (R27). The condition is evaluated anew when the agenda says it may hold. -/
inductive Park where
  /-- WAIT or HALT (R151, R152) -/
  | wait
  /-- WAITUNTIL (R154): package time to reach -/
  | until (t : Dword)
  /-- TOKWAIT (R200): address of the word, translated anew whenever it is read; whether the scope is CORE or narrower (R241);
  condition, comparand -/
  | token (va : Dword) (narrow : Bool) (kind : BitVec 3) (y : Dword)
  /-- MKWAIT (R210): skein, marker, phase awaited -/
  | marker (skein : SkeinId) (m : BitVec 5) (u : Dword)
  /-- TKWAIT (R211) -/
  | tkwait (t : BitVec 16)
  /-- a load or atomic given a ticket (R189): its ticket-table entry -/
  | ticket (n : Nat)
  deriving DecidableEq, Repr

/-- Where a context stands in its bundle (R76): it fetches next, step 1 is due, or step 2 is due. DESIGN CHOICE, log 1; DEDUCED, log 13. -/
inductive Phase where
  | fetch
  | first
  | second
  deriving DecidableEq, Repr

/-- What step 3 of the bundle does (R77). -/
inductive Xfer where
  | next
  | br (b : BitVec 3) (p : BitVec 3) (n : BitVec 1)
  | call (b : BitVec 3) (p : BitVec 3) (n : BitVec 1)
  | eret
  | uret
  deriving DecidableEq, Repr

/-- A branch-target register (R46): bits [63:3] of the target and the valid bit. -/
structure BReg where
  target : BitVec 61
  valid : Bool
  deriving DecidableEq, Repr, Inhabited

/-- A retired store not yet performed (R185): bytes of one line, or an amax merge (R226). DESIGN CHOICE, log 11. -/
inductive Retired where
  /-- locations and bytes of one line; whole: a whole-line write in the sense of R187 -/
  | bytes (t : Treat) (l : List (Nat × Byte)) (whole : Bool)
  /-- amax word location and the maximum to merge -/
  | amax (t : Treat) (loc : Nat) (m : BitVec 32)
  /-- a release store: performed after every older entry and the S write-back of its scope; on an S page its own bytes
  are then written back (R194, R241) -/
  | release (scope : BitVec 4) (t : Treat) (l : List (Nat × Byte)) (whole : Bool)
  /-- a FENCE with a release part: no younger store is performed before an older one, and the S write-back of its scope
  comes between (R241, R251) -/
  | barrier (scope : BitVec 4)
  /-- an acquire at PARTITION scope or wider: a later fabric access of the thread agrees with the stores before it, those to S pages
  written back (R245) -/
  | seen
  deriving DecidableEq, Repr

/-- A posted store answered FAIL and not yet reported (R197). -/
structure Fail where
  addr : Dword
  ticket : BitVec 16
  /-- it met a poisoned line at its home (R187, R362) -/
  poison : Bool
  /-- the store's place in the order of sending -/
  seq : Nat
  /-- package time of the notice -/
  at_ : Dword
  /-- 1 ms have passed without a report -/
  due : Bool
  deriving DecidableEq, Repr

/-- A launch's completion action (R16), its fields in SPAWN's layout (R202), with the address space and the tag of the launch: the
token is accessed there, whatever thread the context holds by then (R24, R393). -/
structure Completion where
  token : Dword
  word : Dword
  asn : BitVec 16
  ltag : BitVec 32
  deriving DecidableEq, Repr

/-- The per-thread control words (R54). cw.tid is computed from the context's number (R14); bit 0 of cw.ipend is
computed from package time and cw.timecmp (R61). -/
structure Cw where
  ltag : BitVec 32
  fpctl : Dword
  upctl : Dword
  uvec : Dword
  uepc : Dword
  uinfo : Dword
  status : Dword
  estat : Dword
  epc : Dword
  cause : Dword
  tval : Dword
  tval2 : Dword
  scratch : Dword
  asn : BitVec 16
  ien : BitVec 5
  ipend : BitVec 5
  timecmp : Dword
  fwepc : Dword
  fwcause : Dword
  deriving DecidableEq, Repr

/-- The per-thread words at thread start (R54, R56-R63): zero but for cw.timecmp. -/
def Cw.reset : Cw :=
  { ltag := 0, fpctl := 0, upctl := 0, uvec := 0, uepc := 0, uinfo := 0, status := 0, estat := 0, epc := 0, cause := 0,
    tval := 0, tval2 := 0, scratch := 0, asn := 0, ien := 0, ipend := 0, timecmp := BitVec.allOnes 64, fwepc := 0,
    fwcause := 0 }

/-- One hardware context and the thread it holds (R10, R43). -/
structure Ctx where
  st : CtxState
  park : Option Park
  pc : Dword
  /-- arrive at slot A of the bundle at pc (R57, R79) -/
  slotA : Bool
  phase : Phase
  /-- the bundle fetched as one unit (R75) -/
  bundle : BitVec 64
  /-- cw.trapvec and cw.fwvec as they stood when that bundle was renamed (R55) -/
  trapTo : Dword
  fwTo : Dword
  /-- the core chosen for the SPAWN in step 1, once it has been (R19) -/
  spawnTo : Option CoreId
  /-- the AMO or CAS to a U page in step 1 has been sent to its home and has no answer yet (R299, R389) -/
  asked : Bool
  /-- the core's fetch at which this context was last served (R282) -/
  fetched : Nat
  xfer : Xfer
  x : Vector Dword 32
  p : Vector Bool 8
  b : Vector BReg 8
  v : Vector VReg 32
  k : Vector KReg 8
  m : Vector Tile 8
  /-- tile-enabled (R48) -/
  tile : Bool
  /-- the engine of each tile slot held, m0 first (R217, R395) -/
  tslots : List Nat
  fmt : BitVec 16
  cw : Cw
  /-- wake-event latch (R150) -/
  latch : Bool
  /-- recorded sources of cw.ipend bits 1 and 2 (R62) -/
  mbSrc : Dword
  icSrc : Dword
  /-- retired stores not yet performed, oldest first (R185) -/
  stores : List Retired
  fails : List Fail
  /-- loss-log entries that a FENCE of the thread has still to report (R197, R357) -/
  lost : List Nat
  comp : Option Completion
  /-- the request a Starting context starts with (R20, R21) -/
  start : Option (LaunchReq × LaunchOrigin)
  /-- issue arbitration (R281, R282) -/
  urgent : Bool
  waitCount : Nat
  pausedTill : Nat
  /-- the MKWAIT the thread was interrupted out of: marker, phase awaited, bundle address (R303) -/
  mkRec : Option (BitVec 5 × Dword × Dword)
  /-- machine checks that came while the thread did not run: detail and record index, oldest first: DESIGN CHOICE, log 86 -/
  checks : List (Nat × Nat)
  deriving DecidableEq, Repr

/-- A context at reset: Idle, holding no thread (R10); its registers as at thread start, zero where only a launch gives
a value (R43, R54). DESIGN CHOICE, log 4. -/
def Ctx.reset : Ctx :=
  { st := .idle, park := none, pc := 0, slotA := false, phase := .fetch, bundle := 0, trapTo := 0, fwTo := 0
    spawnTo := none, asked := false, fetched := 0, xfer := .next
    x := Vector.replicate 32 0, p := Vector.replicate 8 false, b := Vector.replicate 8 ⟨0, false⟩
    v := Vector.replicate 32 0, k := Vector.replicate 8 0, m := Vector.replicate 8 0
    tile := false, tslots := [], fmt := 0, cw := Cw.reset, latch := false, mbSrc := 0, icSrc := 0, stores := []
    fails := [], lost := [], comp := none, start := none, urgent := false, waitCount := 0, pausedTill := 0
    mkRec := none, checks := [] }

/-! ## Cores -/

/-- A cached translation (R157, R324): a leaf of one address space, or an address-space table entry. -/
structure TlbEntry where
  asn : BitVec 16
  global : Bool
  /-- virtual page number of the first 4 KiB page the leaf maps, and 12 plus the log2 of their number -/
  vpn : Nat
  shift : Nat
  /-- the leaf PTE as it stands in memory, A and D included -/
  pte : Dword
  /-- location of the PTE in memory -/
  loc : Nat
  /-- dref of the address space (R320) -/
  dref : Bool
  deriving DecidableEq, Repr

/-- A cached address-space table entry (R320). -/
structure AsEntry where
  asn : BitVec 16
  word0 : Dword
  lmask : Dword
  dmask : Dword
  last : Dword
  deriving DecidableEq, Repr

/-- A line of instructions the core holds for an address space (R135, R136, R263): one version of each of its bundles. -/
structure IcEntry where
  asn : BitVec 16
  line : Nat
  bytes : BitVec 1024
  deriving DecidableEq, Repr

/-- Coherence state of a cached line. -/
inductive LineState where
  | shared
  | exclusive
  | modified
  deriving DecidableEq, Repr

/-- A line of a core's L1 (R263): an S line holds its own bytes and which of them are dirty (R241); a D line's bytes are
the coherent ones, so only its state is held. -/
structure L1Line where
  line : Nat
  s : Bool
  bytes : BitVec 1024
  dirty : BitVec 128
  /-- an S line that a whole-line write has filled and that is not yet written back: its write-back is one (R187) -/
  whole : Bool
  state : LineState
  deriving DecidableEq, Repr

/-- Kinds of ticket-table entry (R311). -/
inductive TkKind where
  | read
  | posted
  | detached
  | cancel
  deriving DecidableEq, Repr

/-- States of a ticket-table entry (R311); done holds an answer that its access has still to take. -/
inductive TkState where
  | sent
  | ticket
  | blocked
  | noticeOk
  | noticeFail
  | done
  deriving DecidableEq, Repr

/-- A ticket-table entry (R189, R311), with the access held for replay. DEDUCED, log 14. -/
structure TkEntry where
  kind : TkKind
  ctx : BitVec 3
  /-- the bundle whose access it is, which executes again at the same address: DESIGN CHOICE, log 79 -/
  pc : Dword
  state : TkState
  /-- forwarding record, for kinds 2 and 3 -/
  fwd : Option Nat
  ticket : BitVec 16
  addr : Dword
  packet : Packet
  /-- the answer taken: data, poison or REFUSED -/
  answer : Option FabAnswer
  /-- a replay has been sent and not answered -/
  replaying : Bool
  /-- the thread has been parked or called up for the ticket -/
  told : Bool
  /-- the owner was squashed; the answer is to be discarded (R299) -/
  squashed : Bool
  /-- the last notice that came for the access: OK or FAIL -/
  noted : Option Bool
  /-- order of sending -/
  seq : Nat
  deriving DecidableEq, Repr

/-- A forwarding record (R306): the first line of the image, what the record still waits for. -/
structure FwdRecord where
  /-- location of the image's first byte, and its page's treatment -/
  img : Nat
  t : Treat
  /-- a ticket notice is awaited -/
  notice : Bool
  /-- detached posted stores unsettled -/
  stores : Nat
  /-- a failure was recorded in the image -/
  failed : Bool
  /-- skein, marker and phase awaited -/
  marker : Option (SkeinId × BitVec 5 × Dword)
  deriving DecidableEq, Repr

/-- A copy command's completion action with its register values (R206). -/
inductive CopyDone where
  | none
  | token (addr : Dword)
  | spawn (pc arg0 arg1 : Dword)
  deriving DecidableEq, Repr

/-- What a copy command's unit waits for, where the engine passes its queue over (R275, R291): a pin of its set, or something
else that an event will bring. -/
inductive CopyWait where
  | none
  | pin
  | other
  deriving DecidableEq, Repr

/-- A COPY or CPFL command (R204), the register values as read when it executed, and how far it has gone. -/
structure CopyCmd where
  /-- none for COPY; the level of a CPFL -/
  level : Option (BitVec 2)
  scope : BitVec 4
  dst : Dword
  src : Dword
  rowLen : Nat
  rows : Nat
  srcPitch : Nat
  dstPitch : Nat
  done : CopyDone
  asn : BitVec 16
  tag : BitVec 32
  /-- privilege when the command executed (R206): mode and sum -/
  mode : BitVec 2
  sum : Bool
  issuer : BitVec 3
  /-- next row, next byte of the row -/
  row : Nat
  col : Nat
  /-- a unit failed: the completion action carries the failure mark -/
  failed : Bool
  /-- the fabric access that the unit in progress waits for -/
  unit : Option TkEntry
  /-- bytes the unit in progress has read, and whether its source was poisoned -/
  buf : List Byte
  bufPoison : Bool
  /-- the opening release has been made (R205, R259) -/
  started : Bool
  /-- where the unit in progress writes, its line pinned, and whether its cache has write permission (R274, R276) -/
  pin : Option (Nat × Treat × Bool)
  wait : CopyWait
  /-- every unit is done; the completion action waits for the router -/
  finished : Bool
  deriving DecidableEq, Repr

/-- An entry of a copy queue: a command or an AFENCE barrier (R198, R290). -/
inductive CqEntry where
  | cmd (c : CopyCmd)
  | barrier
  deriving DecidableEq, Repr

/-- A launch-queue entry (R20, R280). -/
structure LqEntry where
  req : LaunchReq
  origin : LaunchOrigin
  /-- order of arrival -/
  seq : Nat
  /-- cycle at which it took its present priority -/
  since : Nat
  deriving DecidableEq, Repr

/-- A step of a tile command (R284): its number in the core's queue, its engine, the steps that still have to write what it reads,
and the tile register it writes, unless that has since been given another slot. -/
structure TileStep where
  id : Nat
  engine : Nat
  needs : List Nat
  writes : Option Nat
  deriving DecidableEq, Repr

/-- What a TMMAP that waits for a partner shows the arbiter (R231): its tag, its address space, the cycle it reached the arbiter, and
its B operand: where its rows lie, its geometry, bfmt and the scale address; and the lines that B and its scales lie in, which its
pairing brings into an L1 (R268). -/
structure PairWait where
  tag : BitVec 16
  asn : BitVec 16
  since : Nat
  b : List Nat × Dword × Nat × Dword
  lines : List (Nat × Treat)
  deriving DecidableEq, Repr

/-- A tile command in the core's queue (R283), which is not yet retired: its steps not yet granted and those granted and not done, the engine
cycles of a step, and the engines of the slots that the registers it writes held before it, which its retirement frees (R220). -/
structure TileCmd where
  ctx : BitVec 3
  fmt : BitVec 16
  cycles : Nat
  waiting : List TileStep
  running : List TileStep
  old : List Nat
  /-- a step has been granted -/
  begun : Bool
  /-- an interrupt waits for it: its steps go ahead of the round robin, uncharged (R299) -/
  ahead : Bool
  pair : Option PairWait
  deriving DecidableEq, Repr

/-- One core (R1, R10). -/
structure CoreSt where
  trapvec : Dword
  exitpc : Dword
  robcap : Dword
  fwvec : Dword
  lq : List LqEntry
  cq : Vector (List CqEntry) 4
  /-- fabric accesses of copy queues that were emptied, by queue: an answer or a notice is still to come (R305, R364) -/
  ghosts : List (BitVec 2 × TkEntry)
  tk : List (Nat × TkEntry)
  tkSeq : Nat
  fwd : List (Nat × FwdRecord)
  tlb : List TlbEntry
  ast : List AsEntry
  icache : List IcEntry
  l1 : List L1Line
  tq : List TileCmd
  nfwd : Dword
  /-- contexts named by inter-core sends not yet delivered (R308) -/
  icq : List CtxId
  ctr : List (Nat × Nat)
  retired : Dword
  sent : Dword
  recvd : Dword
  gsret : Dword
  gssent : Dword
  gsrecv : Dword
  rrUrgent : Nat
  rrSup : Nat
  rrUser : Nat
  /-- the contexts the arbiter chose in its latest cycle, with the bundles each may still rename in it (R281) -/
  slots : List (BitVec 3 × Nat)
  /-- the contexts that were ready in that cycle and have not been chosen in it (R281, R282) -/
  unchosen : List (BitVec 3)
  /-- the first cycle in which the arbiter has still to choose -/
  nextChoice : Nat
  fused : List (BitVec 8)
  deriving DecidableEq, Repr

/-- A core at reset; NFWD names the first server core of the core's die (R307), which is die × 128 (R40). -/
def CoreSt.reset (n : Nat) : CoreSt :=
  { trapvec := 0, exitpc := 0, robcap := 0, fwvec := 0, lq := [], cq := Vector.replicate 4 [], ghosts := [], tk := [], tkSeq := 0
    fwd := [], tlb := [], ast := [], icache := [], l1 := [], tq := [], nfwd := .ofNat 64 (n / 128 * 128 + 2 ^ 13)
    icq := [], ctr := [], retired := 0, sent := 0, recvd := 0, gsret := 0, gssent := 0, gsrecv := 0
    rrUrgent := 0, rrSup := 0, rrUser := 0, slots := [], unchosen := [], nextChoice := 0, fused := [] }

/-! ## Skeins -/

/-- A skein marker (R210). -/
structure Marker where
  n : Nat
  a : Nat
  p : Dword
  b : Dword
  deriving DecidableEq, Repr

def Marker.reset : Marker := { n := 0, a := 0, p := 0, b := 0 }

/-- A feeder channel's nest (R208). -/
structure Nest where
  ext : Vector Nat 3
  tile : Vector Nat 3
  dims : Nat
  guided : Bool
  chunk : Nat
  takers : Nat
  /-- tiles in all, and the lowest remaining one -/
  total : Nat
  next : Nat
  deriving DecidableEq, Repr

/-- A tile engine (R284, R285): the step it runs, the fmt of the step before, the core the round has come to with its grants
so far, and the weights of the round, none between rounds. -/
structure Engine where
  /-- the step's core, its number there, and the fmt -/
  run : Option (BitVec 3 × Nat × BitVec 16)
  last : Option (BitVec 16)
  core : Nat
  used : Nat
  weights : Option (BitVec 32)
  deriving DecidableEq, Repr

def Engine.reset : Engine := { run := none, last := none, core := 0, used := 0, weights := none }

/-- The Gauge (R286, R287), in 1/2400 of a window's capacity: its ceiling, the upper limit it holds, which goes to the power manager's
(R383), the engine time granted and not yet allowed for, the engine time granted in this window, and the cycle at which the window began. -/
structure Gauge where
  ceiling : Nat
  limit : Nat
  debt : Nat
  busy : Nat
  since : Nat
  deriving DecidableEq, Repr

/-- A skein-cache line (R263, R274): its state, and the pin's permission. -/
structure ScLine where
  line : Nat
  state : LineState
  /-- pinned until the named accesses end: 0 is unpinned -/
  pins : Nat
  permission : Bool
  deriving DecidableEq, Repr

/-- A line of a memory-side cache (R263, R274): whether it is newer than HBM, and the fabric writes that pin it. -/
structure MscLine where
  line : Nat
  modified : Bool
  pins : Nat
  deriving DecidableEq, Repr

/-- A line of this package's HBM that a host or another package holds, as the home directory tracks it (R240); excl: it may
have written it; reserved: the host's harts whose load-reserved of the line no write has followed (R244, R262). -/
structure AwayLine where
  line : Nat
  excl : Bool
  reserved : List Nat
  deriving DecidableEq, Repr

/-- One skein (R1). -/
structure SkeinSt where
  markers : List (Nat × Marker)
  ch : List (Nat × Nest)
  sktw : BitVec 32
  pfpers : Dword
  cqfail : BitVec 32
  copyRr : Nat
  eng : List (Nat × Engine)
  gauge : Gauge
  sc : List ScLine
  /-- coherence requests held at pinned lines: whether they want the line exclusive (R276), and whether another package asks (R240) -/
  held : List (Nat × Bool × Bool)
  deriving DecidableEq, Repr

/-- A skein at reset (R210, R284, R286, R288). -/
def SkeinSt.reset : SkeinSt :=
  { markers := [], ch := [], sktw := 0x11111111, pfpers := 0, cqfail := 0, copyRr := 0, eng := []
    gauge := { ceiling := 150, limit := 2400, debt := 0, busy := 0, since := 0 }, sc := [], held := [] }

/-! ## Package devices -/

/-- A host-to-device mailbox (R331, R332). Its entries are received, unconsumed ones. -/
structure H2d where
  base : Dword
  ack : Dword
  cfg : Dword
  db : BitVec 32
  next : BitVec 32
  consumed : BitVec 32
  ovr : Bool
  svc : Bool
  lost : BitVec 16
  entries : List (BitVec 32 × BitVec 512)
  /-- the head waits at the launch router (R278) -/
  waiting : Bool
  /-- an entry with another seq than the one expected was met: nothing is read until the next doorbell (R332) -/
  stale : Bool
  deriving DecidableEq, Repr

def H2d.reset : H2d :=
  { base := 0, ack := 0, cfg := 0, db := 0, next := 0, consumed := 0, ovr := false, svc := false, lost := 0
    entries := [], waiting := false, stale := false }

/-- A device-to-host mailbox (R331, R334). -/
structure D2h where
  base : Dword
  cfg : Dword
  head : Dword
  posted : BitVec 32
  lost : BitVec 16
  deriving DecidableEq, Repr

def D2h.reset : D2h := { base := 0, cfg := 0, head := 0, posted := 0, lost := 0 }

/-- A completion message waiting for a slot (R335): its mailbox, the source context, and bytes 8-63 of its entry. -/
structure Message where
  mailbox : BitVec 6
  source : CtxId
  body : List Byte
  deriving DecidableEq, Repr

/-- A shootdown slot (R326). -/
structure Sdq where
  w : Vector Dword 4
  /-- the request in progress: its descriptor as taken, and whether it is refused -/
  busy : Option (Vector Dword 4 × Bool)
  deriving DecidableEq, Repr

def Sdq.reset : Sdq := { w := Vector.replicate 4 0, busy := none }

/-- A request waiting at the launch router (R278, R279), in order of first refusal. -/
structure RouterWait where
  core : CoreId
  req : LaunchReq
  origin : LaunchOrigin
  /-- it has one of the hold entries of its core's skein -/
  hold : Bool
  /-- it came while its die was not ready, and is checked when it is served (R368) -/
  unchecked : Bool
  deriving DecidableEq, Repr

/-- Package-wide registers and units of the device space (R319). BAR0's base at reset: DESIGN CHOICE, log 6. -/
structure Dev where
  time : Dword
  /-- bits [55:0] of BAR0's base; hbmBase is HBMBASE and committed says HDM decoder 0 is (R317) -/
  bar0 : Nat
  hbmBase : Nat
  committed : Bool
  /-- HDM decoder 0's CXL commit-error indication (R368) -/
  hdmError : Bool
  /-- the ranges of the other packages of the chassis, base and size, as their hosts gave them (R317) -/
  peers : List (Nat × Nat)
  astBase : Dword
  /-- address-space entries that the launch router, the mailboxes and the NIU have cached (R320) -/
  ast : List AsEntry
  partId : BitVec 16
  gsctl : Dword
  gstime : Dword
  /-- a gang stop is in its step 1: its snapshots are still to be taken (R314) -/
  gsSnap : Bool
  ttwin : Vector Dword 16
  winBase : Dword
  winCnt : Nat
  /-- window table entries the NIU has cached, by index (R339) -/
  wins : List (Nat × Vector Dword 4)
  svBase : Dword
  svHead : BitVec 32
  svTail : BitVec 32
  svTgt : Dword
  sdq : List (Nat × Sdq)
  /-- version words VMBX, VSHT, VLNK 0-7: partner's lowest and highest (R346) -/
  ver : List (Nat × (Byte × Byte))
  h2d : List (Nat × H2d)
  d2h : List (Nat × D2h)
  msgs : List Message
  links : Vector LinkMode 2
  router : List RouterWait
  lqSeq : Nat
  deriving DecidableEq, Repr

def Dev.reset : Dev :=
  { time := 0, bar0 := 2 ^ 55, hbmBase := 0, committed := false, hdmError := false, peers := [], astBase := 0, ast := [], partId := 0, gsctl := 0
    gstime := BitVec.allOnes 64, gsSnap := false, ttwin := Vector.replicate 16 0, winBase := 0, winCnt := 0, wins := [], svBase := 0, svHead := 0
    svTail := 0, svTgt := 0, sdq := [], ver := [], h2d := [], d2h := [], msgs := []
    links := Vector.replicate 2 .down, router := [], lqSeq := 0 }

/-! ## NIU and ports -/

/-- A live ticket (R341): its page, whether TKDONE has served it and how. -/
structure Ticket where
  num : BitVec 16
  asn : BitVec 16
  page : Nat
  served : Bool
  deriving DecidableEq, Repr

/-- A source entry (R341). -/
structure Source where
  pkg : PkgId
  core : CoreId
  t : BitVec 16
  c : Nat
  s : Nat
  deriving DecidableEq, Repr

/-- A lost request (R357, R358): its access, by owner and order of sending, the failed port, its package and the time it failed, and its
record as it stands when the failure is learned. -/
structure LostReq where
  owner : FabOwner
  seq : Nat
  pkg : PkgId
  port : BitVec 3
  at_ : Dword
  record : Dword
  deriving DecidableEq, Repr

/-- What the NIU holds (R345): a request, a replay, or a skip or cancel that came behind a held replay of its source. -/
inductive HeldMsg where
  | request (q : Packet)
  | replay (q : Packet)
  | settled (pkg : PkgId) (core : CoreId)
  deriving DecidableEq, Repr

/-- A packet that the NIU holds (R345). -/
structure Held where
  msg : HeldMsg
  busySent : Bool
  deriving DecidableEq, Repr

/-- A flow (R254, R351): core and destination, its route as the hops (package, port) it crosses, the notices it has
received by ticket, the tickets whose TICKET such a notice has settled already (R344), and requests lost and not yet in the loss log
(R358). -/
structure Flow where
  core : CoreId
  dest : PkgId
  route : List (PkgId × BitVec 3)
  notes : List (BitVec 16 × Bool)
  served : List (BitVec 16)
  lost : List LostReq
  deriving DecidableEq, Repr

/-- A destination under BUSY (R345): consecutive BUSYs so far; held until the answer, then backing off for so many
microseconds. -/
structure Busy where
  core : CoreId
  dest : PkgId
  count : Nat
  held : Bool
  backoff : Bool
  deriving DecidableEq, Repr

/-- Port states (R349). -/
inductive PortState where
  | absent
  | training
  | up
  | retraining
  | failed
  deriving DecidableEq, Repr

/-- A Sahora port (R348, R349). -/
structure Port where
  state : PortState
  crc : BitVec 32
  peer : PkgId
  /-- measured link delay, in nanoseconds (R354) -/
  delay : BitVec 32
  /-- package times of the latest CRC failures, newest first, at most 16 (R349) -/
  fails : List Dword
  deriving DecidableEq, Repr

def Port.reset : Port := { state := .absent, crc := 0, peer := 0, delay := 0, fails := [] }

/-- The network interface and the ports (R341-R345, R347-R358). -/
structure Niu where
  tickets : List Ticket
  lastTicket : BitVec 16
  sources : List Source
  held : List Held
  flows : List Flow
  busy : List Busy
  ports : List (Nat × Port)
  /-- ports known to have Failed, with the package time of each failure as its notice gave it (R356) -/
  failedPorts : List (PkgId × BitVec 3 × Dword)
  /-- the configured sizes of the C and D rings (R348) -/
  ringC : Nat
  ringD : Nat
  llBase : Dword
  llHead : BitVec 32
  llTail : BitVec 32
  llTgt : Dword
  /-- the flow whose next entry a written one has named (R358) -/
  llChain : Option (CoreId × PkgId)
  timectl : Dword
  /-- TIMESTAT: locked; the offset last measured; the grandmaster's role is in timectl -/
  locked : Bool
  /-- TIMESTAT.lost -/
  timeLost : Bool
  offset : Int
  lastSync : Dword
  /-- since when the offset has stayed within 10 ns (R354) -/
  good : Option Dword
  /-- nanoseconds by which the count is still held, and the correction still to be slewed in (R354) -/
  hold : Nat
  slew : Int
  pkgNum : PkgId
  deriving DecidableEq, Repr

def Niu.reset : Niu :=
  { tickets := [], lastTicket := 0xFFFE, sources := [], held := [], flows := [], busy := [], ports := [], failedPorts := []
    ringC := 32, ringD := 32, llBase := 0, llHead := 0, llTail := 0, llTgt := 0, llChain := none, timectl := 0, locked := false, timeLost := false
    offset := 0
    lastSync := 0, good := none, hold := 0, slew := 0, pkgNum := 0 }

/-! ## Errors and tenants -/

/-- The error ring and the tenant registers (R360, R363). -/
structure Ras where
  /-- ring index and record, oldest record first -/
  ring : List (Nat × Vector Dword 8)
  head : Dword
  tail : Dword
  tgt : Dword
  tnskein : Vector Dword 32
  dkrange : Vector Dword 16
  deriving DecidableEq, Repr

def Ras.reset : Ras :=
  { ring := [], head := 0, tail := 0, tgt := 0, tnskein := Vector.replicate 32 0, dkrange := Vector.replicate 16 0 }

/-! ## Start, security, power -/

/-- The fuses (R370, R375, R377): the manual gives no values for a part; those of reset are the model's. DESIGN CHOICE, log 8. -/
structure Fuses where
  keyHash : Vector (BitVec 384) 4
  revoked : BitVec 4
  /-- rollback fuses blown, 0 to 63 -/
  rollback : Nat
  lcstate : BitVec 2
  /-- physical index of the disabled skein of each die -/
  dis : Vector (BitVec 5) 8
  deriving DecidableEq, Repr

def Fuses.reset : Fuses :=
  { keyHash := Vector.replicate 4 0, revoked := 0, rollback := 0, lcstate := 0, dis := Vector.replicate 8 0 }

/-- Board flash: the image slots, none where a slot is unreadable (R369), and the drain record (R390). DESIGN CHOICE, log 8. -/
structure Flash where
  slotA : Option (List Byte)
  slotB : Option (List Byte)
  drain : List Byte
  deriving DecidableEq, Repr

def Flash.reset : Flash := { slotA := none, slotB := none, drain := [] }

/-- The Darkroom's registers and the unit readiness (R366-R378). -/
structure Boot where
  ready : Dword
  fuses : Fuses
  flash : Flash
  /-- FWSTAT (R370) -/
  src : BitVec 2
  stage : BitVec 2
  err : Byte
  svn : Byte
  /-- header and payload of the running image (R369, R374) -/
  image : List Byte
  /-- where the payload's copy was placed, as an HBM offset (R368) -/
  payloadAt : Option Nat
  /-- ATTREP, 512 bytes (R373) -/
  attrep : List Byte
  /-- the staging window: offset in it and byte, in canonical form (R371) -/
  staging : List Host.Cell
  srvmask : Vector Dword 16
  srvlock : Bool
  deriving DecidableEq, Repr

/-- The default server mask: bit 0 of doubleword 2d for each die d (R40, R378). -/
def defaultMask : Vector Dword 16 := #v[1, 0, 1, 0, 1, 0, 1, 0, 1, 0, 1, 0, 1, 0, 1, 0]

def Boot.reset : Boot :=
  { ready := 0, fuses := Fuses.reset, flash := Flash.reset, src := 3, stage := 0, err := 0, svn := 0, image := []
    payloadAt := none, attrep := List.replicate 512 0, staging := [], srvmask := defaultMask, srvlock := false }

/-- Where a power-fail drain stands (R389). -/
inductive Drain where
  | none
  /-- contexts are stopped; sent atomics may still be answered -/
  | stopping
  /-- 20 us have passed: unanswered atomics are abandoned, and bundles that completed retire -/
  | timedOut
  /-- the record's body is in flash, its header is not; the sequence number it will carry (R391) -/
  | writing (seq : Nat)
  /-- the record is written; the part halts until reset -/
  | halted
  deriving DecidableEq, Repr

/-- Shutter, shedding and power-fail (R379-R392). -/
structure Power where
  pin : BitVec 4
  inb : BitVec 4
  i3c : BitVec 4
  /-- Safelight is reached: what the sources hold is applied (R366) -/
  applied : Bool
  /-- the level of the last pin frame, if that frame was valid -/
  frame : Option (BitVec 4)
  pinfault : Bool
  chg : BitVec 32
  /-- package power of the last microseconds, newest first, at most 1,000 -/
  samples : List Nat
  met : Bool
  /-- shedding steps (R383): 1 CPFL paused; 2 the Gauge's upper limit in sixteenths; 3 two pipes; 4 clock in MHz; 5 HBM
  cap: 0 100%, 1 50%, 2 25% -/
  cpflPaused : Bool
  gaugeLimit : Nat
  twoPipes : Bool
  clock : Nat
  hbmCap : Nat
  /-- the voltage has settled for the clock to rise (R384) -/
  settled : Bool
  /-- energy since reset, in microjoules, of the package and of each tenant's skeins -/
  energy : Nat
  tnEnergy : Vector Nat 16
  drain : Drain
  /-- package time at PFAIL, and contexts with an abandoned atomic -/
  pfailTime : Dword
  abandoned : List CtxId
  /-- PFSTAT without clear (R392) -/
  pfstat : Dword
  deriving DecidableEq, Repr

def Power.reset : Power :=
  { pin := 0, inb := 0, i3c := 0, applied := false, frame := none, pinfault := false, chg := 0, samples := [], met := true
    cpflPaused := false, gaugeLimit := 16, twoPipes := false, clock := 2400, hbmCap := 0, settled := true, energy := 0
    tnEnergy := Vector.replicate 16 0, drain := .none, pfailTime := 0, abandoned := [], pfstat := 0 }

/-! ## Outputs and inputs -/

/-- What the package sends to the outside, oldest first. -/
inductive Output where
  /-- MSI-X vector, on a host link (R328, R329) -/
  | msix (link : BitVec 1) (n : BitVec 6)
  /-- a fabric request, replay, skip or cancel towards its home (R344, R350) -/
  | request (q : Packet)
  | replay (q : Packet)
  | skip (home : PkgId) (core : CoreId)
  | cancel (home : PkgId) (core : CoreId)
  /-- an answer to another package's core, with the route it takes (R342, R350) -/
  | answer (pkg : PkgId) (core : CoreId) (o : FabOwner) (a : FabAnswer) (route : List (PkgId × BitVec 3))
  | notice (pkg : PkgId) (core : CoreId) (t : BitVec 16) (ok : Bool)
  | busy (pkg : PkgId) (core : CoreId)
  /-- a Sync on a port (R354) -/
  | sync (p : BitVec 3) (v : Dword)
  /-- a port-failure notice, with the package time of the failure (R356, R358) -/
  | portFailure (n : PkgId) (p : BitVec 3) (t : Dword)
  /-- a reply of the Darkroom (R372) -/
  | darkroom (code : BitVec 16) (status : Byte)
  /-- the response to a host's read, on a host link: address, data, poison (R328, R329, R362) -/
  | hostRead (link : BitVec 1) (a : PAddr) (d : List Byte) (poison : Bool)
  deriving DecidableEq, Repr

/-- What drives the package besides the threads it runs: an event row of the opcode table, which comes from outside or which the
part itself has brought about, the passing of time, or bytes that an agent of another package of the chassis writes at a physical
address (R253). -/
inductive Input where
  | event (e : Event)
  | own (e : Event)
  | elapse (ns cycles : Nat)
  | peerWrite (a : PAddr) (d : List Byte)
  deriving DecidableEq, Repr

/-! ## The package -/

/-- The state of one package. -/
structure State where
  /-- inputs and internal events still to happen, oldest first: DESIGN CHOICE, log 2 -/
  agenda : List Input
  /-- the event in hand, with its operands -/
  now : Option Event
  /-- contexts chosen to issue, in order; the head runs until its bundle ends: DESIGN CHOICE, log 2 -/
  turns : List CtxId
  /-- free values drawn so far: the model's own field, DESIGN CHOICE, log 3 -/
  free : Nat
  /-- arithmetic cycles since reset: DESIGN CHOICE, log 17 -/
  cyc : Nat
  out : List Output
  ctxs : List (Nat × Ctx)
  cores : List (Nat × CoreSt)
  skeins : List (Nat × SkeinSt)
  /-- bytes by location: HBM by HBM offset, host and other memory by physical address + 2^56; unlisted reads 0:
  DESIGN CHOICE, log 5 -/
  mem : List Host.Cell
  /-- poisoned lines, by location / 128 (R361) -/
  poison : List Nat
  /-- the lines of the memory-side caches of all dies (R263) -/
  msc : List MscLine
  /-- what the home directory tracks of hosts and other packages (R240) -/
  away : List AwayLine
  dev : Dev
  niu : Niu
  ras : Ras
  boot : Boot
  power : Power
  deriving DecidableEq, Repr

/-- Part reset: every context Idle, memory wiped, the release of reset still to come (R10, R366, R376). Values the manual does
not give: DESIGN CHOICE, logs 2 to 6 and 8. -/
def State.reset : State :=
  { agenda := [.event .resetRelease], now := none, turns := [], free := 0, cyc := 0, out := [], ctxs := [], cores := [], skeins := []
    mem := [], poison := [], msc := [], away := [], dev := Dev.reset, niu := Niu.reset, ras := Ras.reset, boot := Boot.reset
    power := Power.reset }

/-- Why the machine stops with a fault. -/
inductive Fault where
  /-- an access to memory that the manual says is not reachable: HBM below firmware mode, or host memory, before HDM
  decoder 0 is committed, or host memory while the host link runs without CXL (R317, R328); safe: the run stops where the
  manual gives the access no outcome (DESIGN CHOICE, log 10) -/
  | unreachable
  deriving DecidableEq, Repr

/-- Why an instruction is refused: none is, so the one name stands unused. -/
inductive Refusal where
  /-- raised by an arm of exec whose instruction has no meaning yet, of which there is none left; safe: the run stops there -/
  | notModelled (mnemonic : String)
  deriving DecidableEq, Repr

end Sys2Proof.Machine
end

