-- ==== Sys2Proof/Machine/Bits.lean ====
section
/-! DEFINITION. Bit fields, byte order and vector elements (R5, R45, R72). -/

namespace Sys2Proof.Machine

/-- Sign-extend to a doubleword (R93). -/
def sext {n : Nat} (v : BitVec n) : Dword := v.signExtend 64
/-- Zero-extend to a doubleword (R93). -/
def zext {n : Nat} (v : BitVec n) : Dword := v.setWidth 64

/-- Bits [lo + len - 1 : lo] of a value. -/
def slice {n : Nat} (lo len : Nat) (v : BitVec n) : BitVec len := v.extractLsb' lo len

/-- v with bits [lo + len - 1 : lo] replaced by f. -/
def splice {n len : Nat} (lo : Nat) (f : BitVec len) (v : BitVec n) : BitVec n :=
  (v &&& ~~~((BitVec.allOnes len).setWidth n <<< lo)) ||| (f.setWidth n <<< lo)

/-- A flag as a doubleword. -/
def ofBool (b : Bool) : Dword := if b then 1 else 0

/-- The low n bytes of v, little-endian (R72, R95). -/
def toBytes : Nat → Nat → List Byte
  | 0, _ => []
  | n + 1, v => .ofNat 8 v :: toBytes n (v / 256)

/-- The little-endian value of a list of bytes. -/
def ofBytes : List Byte → Nat
  | [] => 0
  | b :: r => b.toNat + 256 * ofBytes r

/-- Clear bits [2:0]: a bundle address (R72). -/
def bundleAddr (v : Dword) : Dword := v &&& ~~~(7 : Dword)

/-- Element i of width w of a vector register (R45). -/
def elem (w : Nat) (v : VReg) (i : Nat) : BitVec w := v.extractLsb' (i * w) w

/-- v with element i of width w replaced. -/
def setElem (w : Nat) (v : VReg) (i : Nat) (e : BitVec w) : VReg := splice (i * w) e v

/-- The vector whose n elements of width w are f 0 … f (n - 1): their sum of shifted values. -/
def buildNat (w : Nat) (f : Nat → BitVec w) : Nat → Nat
  | 0 => 0
  | n + 1 => buildNat w f n + (f n).toNat * 2 ^ (n * w)

/-- A vector register made of n elements of width w; the rest is zero. -/
def build (w n : Nat) (f : Nat → BitVec w) : VReg := .ofNat 1024 (buildNat w f n)

/-- Bytes [len - 1 : 0] of a value as a list, lowest first. -/
def bytesOf {n : Nat} (len : Nat) (v : BitVec n) : List Byte := toBytes len v.toNat

/-- Keep the low w bits, and read them as a signed number. -/
def toSigned (w : Nat) (v : Nat) : Int := (BitVec.ofNat w v).toInt

/-- Clamp an integer to a range. -/
def clampInt (lo hi v : Int) : Int := if v < lo then lo else if hi < v then hi else v

end Sys2Proof.Machine
end

