-- ==== Sys2Proof/Machine/Ops.lean ====
section
/-! DEFINITION. The named operations on contexts, cores, registers and error records; taking a trap (R296) and returning
from one (R148); the end of a step and of a bundle (R76, R77). -/

namespace Sys2Proof.Machine

/-- What a step answers. -/
abbrev Out := Host.Outcome State Fault Refusal

/-! ## Contexts, cores, skeins -/

/-- The context whose turn it is. -/
def State.cur (s : State) : CtxId := s.turns.headD 0

/-- A context (R10). -/
def State.ctx (s : State) (c : CtxId) : Ctx := tableGet s.ctxs c.toNat Ctx.reset
def State.setCtx (s : State) (c : CtxId) (x : Ctx) : State := { s with ctxs := tableSet s.ctxs c.toNat x }
def State.modCtx (s : State) (c : CtxId) (f : Ctx → Ctx) : State := s.setCtx c (f (s.ctx c))

/-- The running context. -/
def State.me (s : State) : Ctx := s.ctx s.cur
def State.modMe (s : State) (f : Ctx → Ctx) : State := s.modCtx s.cur f

/-- The package core number of a context, its skein, and its number in the core (R15). -/
def coreOf (c : CtxId) : CoreId := c.extractLsb' 3 10
def skeinOf (c : CtxId) : SkeinId := c.extractLsb' 6 7
def ctxInCore (c : CtxId) : BitVec 3 := c.extractLsb' 0 3
/-- Context n of a core. -/
def ctxOf (core : CoreId) (n : BitVec 3) : CtxId := core ++ n
/-- The skein of a core (R15). -/
def skeinOfCore (core : CoreId) : SkeinId := core.extractLsb' 3 7
/-- Core n of a skein. -/
def coreInSkein (k : SkeinId) (n : BitVec 3) : CoreId := k ++ n

def State.core (s : State) (n : CoreId) : CoreSt := tableGet s.cores n.toNat (CoreSt.reset n.toNat)
def State.setCore (s : State) (n : CoreId) (x : CoreSt) : State := { s with cores := tableSet s.cores n.toNat x }
def State.modCore (s : State) (n : CoreId) (f : CoreSt → CoreSt) : State := s.setCore n (f (s.core n))
/-- The running context's core. -/
def State.myCore (s : State) : CoreSt := s.core (coreOf s.cur)

def State.skein (s : State) (n : SkeinId) : SkeinSt := tableGet s.skeins n.toNat SkeinSt.reset
def State.setSkein (s : State) (n : SkeinId) (x : SkeinSt) : State := { s with skeins := tableSet s.skeins n.toNat x }
def State.modSkein (s : State) (n : SkeinId) (f : SkeinSt → SkeinSt) : State := s.setSkein n (f (s.skein n))

def State.modDev (s : State) (f : Dev → Dev) : State := { s with dev := f s.dev }
def State.modNiu (s : State) (f : Niu → Niu) : State := { s with niu := f s.niu }
def State.modRas (s : State) (f : Ras → Ras) : State := { s with ras := f s.ras }
/-- Send something to the outside. -/
def State.emit (s : State) (o : Output) : State := { s with out := s.out ++ [o] }
/-- Let an event happen next after those already waiting. -/
def State.post (s : State) (e : Event) : State := { s with agenda := s.agenda ++ [.own e] }
/-- Bring an event about before anything else on the agenda. -/
def State.postHead (s : State) (e : Event) : State := { s with agenda := .own e :: s.agenda }

/-- The contexts of a core, and the contexts of the package. -/
def ctxsOfCore (core : CoreId) : List CtxId := (List.range 8).map fun n => ctxOf core (.ofNat 3 n)
/-- The contexts that the table lists, all others being Idle. -/
def State.listedCtxs (s : State) : List CtxId := s.ctxs.map fun e => .ofNat 13 e.1

/-- The cores that the table lists. -/
def State.listedCores (s : State) : List CoreId := s.cores.map fun e => .ofNat 10 e.1

/-- Those, and the cores of the contexts that the table lists; any other core is as at reset and holds no thread. -/
def State.liveCores (s : State) : List CoreId :=
  s.listedCores ++ ((s.listedCtxs.map coreOf).filter fun k => !s.listedCores.contains k).eraseDups

/-- A gang stop is in effect: GSCTL.stopped (R313, R314). -/
def State.gang (s : State) : Bool := s.dev.gsctl.getLsbD 1

/-! ## Registers (R43, R44) -/

/-- x[r]; x0 reads zero. -/
def Ctx.getX (c : Ctx) (r : Reg) : Dword := if r = 0 then 0 else c.x[r.toNat]
/-- Write x[r]; a write to x0 is discarded. -/
def Ctx.setX (c : Ctx) (r : Reg) (v : Dword) : Ctx := if r = 0 then c else { c with x := c.x.set r.toNat v }
/-- p[r]; p0 reads true. -/
def Ctx.getP (c : Ctx) (r : Reg3) : Bool := if r = 0 then true else c.p[r.toNat]
def Ctx.setP (c : Ctx) (r : Reg3) (v : Bool) : Ctx := if r = 0 then c else { c with p := c.p.set r.toNat v }
/-- k[r]; k0 reads all ones. -/
def Ctx.getK (c : Ctx) (r : Reg3) : KReg := if r = 0 then BitVec.allOnes 128 else c.k[r.toNat]
def Ctx.setK (c : Ctx) (r : Reg3) (v : KReg) : Ctx := if r = 0 then c else { c with k := c.k.set r.toNat v }
def Ctx.getV (c : Ctx) (r : Reg) : VReg := c.v[r.toNat]
def Ctx.setV (c : Ctx) (r : Reg) (v : VReg) : Ctx := { c with v := c.v.set r.toNat v }
def Ctx.getB (c : Ctx) (r : Reg3) : BReg := c.b[r.toNat]
def Ctx.setB (c : Ctx) (r : Reg3) (v : BReg) : Ctx := { c with b := c.b.set r.toNat v }
def Ctx.getM (c : Ctx) (r : Reg3) : Tile := c.m[r.toNat]
def Ctx.setM (c : Ctx) (r : Reg3) (v : Tile) : Ctx := { c with m := c.m.set r.toNat v }

/-- The low three bits of a five-bit field that names a register of a file of eight (R82). -/
def low3 (r : Reg) : Reg3 := r.setWidth 3

/-- The 64-bit image of a b register (R46). -/
def BReg.image (b : BReg) : Dword := b.target ++ ofBit b.valid
where ofBit (v : Bool) : BitVec 3 := if v then 1 else 0
/-- The b register an image stands for: bits [2:1] are ignored (R46). -/
def BReg.ofImage (v : Dword) : BReg := { target := v.extractLsb' 3 61, valid := v.getLsbD 0 }
/-- The bundle address a b register names. -/
def BReg.addr (b : BReg) : Dword := b.target ++ (0 : BitVec 3)
/-- A b register naming the bundle at v (R130). -/
def BReg.to (v : Dword) (valid : Bool) : BReg := { target := v.extractLsb' 3 61, valid := valid }

def State.getX (s : State) (r : Reg) : Dword := s.me.getX r
def State.setX (s : State) (r : Reg) (v : Dword) : State := s.modMe (·.setX r v)
def State.setP (s : State) (r : Reg3) (v : Bool) : State := s.modMe (·.setP r v)

/-! ## Modes and interrupts -/

/-- cw.status.mode (R50, R56). -/
def Ctx.mode (c : Ctx) : BitVec 2 := c.cw.status.extractLsb' 0 2
/-- cw.status.ie, sum, nx (R56). -/
def Ctx.ie (c : Ctx) : Bool := c.cw.status.getLsbD 2
def Ctx.sum (c : Ctx) : Bool := c.cw.status.getLsbD 3
def Ctx.nx (c : Ctx) : Bool := c.cw.status.getLsbD 4

/-- cw.ipend as it reads: bit 0 is 1 while package time is at or beyond cw.timecmp (R61). -/
def Ctx.pending (c : Ctx) (time : Dword) : BitVec 5 :=
  (c.cw.ipend &&& 0x1E) ||| (if c.cw.timecmp.ule time then 1 else 0)

/-- The mode condition of R61 for taking an interrupt. -/
def Ctx.interruptible (c : Ctx) : Bool := c.mode = 0 ∨ (c.mode = 1 ∧ c.ie)

/-- The lowest number of a set bit, or none. -/
def lowestBit (v : BitVec 5) : Option Nat := (List.range 5).find? fun i => v.getLsbD i

/-- The interrupt a context would take at a boundary: the lowest cause of those pending and enabled (R61, R298). -/
def State.takeable (s : State) (c : CtxId) : Option Nat :=
  let x := s.ctx c
  if x.interruptible then lowestBit (x.cw.ien &&& x.pending s.dev.time) else none

/-- Set a bit of cw.ipend in a context (R61); bits 1 and 2 also record their source (R62). -/
def State.raise (s : State) (c : CtxId) (bit : Nat) (src : Dword) : State :=
  s.modCtx c fun x =>
    let x := { x with cw := { x.cw with ipend := x.cw.ipend ||| .ofNat 5 (2 ^ bit) } }
    if bit = 1 then { x with mbSrc := src } else if bit = 2 then { x with icSrc := src } else x

/-- An interrupt target register: core [9:0], ctx [12:10] (R307, R343, R360). -/
def targetCtx (v : Dword) : CtxId := (v.extractLsb' 0 10) ++ (v.extractLsb' 10 3)

/-! ## The Shutter level (R379, R380) -/

/-- The effective level: the highest of the three sources, none of which is applied before Safelight (R366). -/
def Power.level (p : Power) : BitVec 4 :=
  let m := fun (a b : BitVec 4) => if a.ult b then b else a
  if p.applied then m (m p.pin p.inb) p.i3c else 0

/-- The limit in force, in quarters of a watt: (16 - n) / 16 of 4,500 W, levels above 12 acting as 12 (R379). -/
def powerLimit (n : BitVec 4) : Nat := (16 - min n.toNat 12) * 1125

/-- The Gauge's upper limit, in 1/2400 of a window's capacity (R287, R383). -/
def Power.gaugeTop (p : Power) : Nat := p.gaugeLimit * 150

/-! ## Error records (R360) -/

/-- Unit codes of an error record (R360). -/
def unitInternal : Nat := 10
def unitCompletion : Nat := 11

/-- Doubleword 1: the context, core, die and skein the error belongs to, valid in bit 14 (R360). -/
def errPlace (c : CtxId) : Dword :=
  let n := c.toNat
  .ofNat 64 (n % 8 + n / 8 % 8 * 2 ^ 3 + n / 1024 * 2 ^ 7 + 2 ^ 14 + n / 64 * 2 ^ 15)

/-- Drop the oldest entry that p picks. -/
def dropFirst {α : Type} (p : α → Bool) : List α → List α
  | [] => []
  | a :: r => if p a then r else a :: dropFirst p r

/-- Kind of a record (R360). -/
def recKind (r : Vector Dword 8) : Nat := (r[0].extractLsb' 0 3).toNat

/-- Write a record that must have its own place: in a full ring it takes the place and index of the oldest record of kind
0, or of the oldest of all, and marks the overflow (R360); ERTAIL does not count it: DESIGN CHOICE, log 100. Answers the index. -/
def Ras.write (r : Ras) (rec : Vector Dword 8) : Ras × Nat :=
  let full := (r.tail - r.head).toNat ≥ 256
  if full then
    let victim := match r.ring.find? (fun e => recKind e.2 = 0) with
      | some e => some e
      | none => r.ring.head?
    match victim with
    | some (i, _) =>
      ({ r with ring := dropFirst (fun e => e.1 = i) r.ring ++ [(i, rec.set 0 (rec[0] ||| 0x8000000000000000))] }, i)
    | none => (r, 0)
  else
    let i := r.tail.toNat % 256
    ({ r with ring := dropFirst (fun e => e.1 = i) r.ring ++ [(i, rec)], tail := r.tail + 1 }, i)

/-- Bit 13 of a target register enables it (R307, R343, R360); ERTGT has LLTGT's layout (R358). -/
def targetOn (v : Dword) : Bool := v.getLsbD 13

/-- After each record the part sets cw.ipend bit 1 in the context ERTGT names, source 65 (R360, R62). -/
def State.errorInterrupt (s : State) : State :=
  if targetOn s.ras.tgt then s.raise (targetCtx s.ras.tgt) 1 65 else s

/-- Write an error record and raise the ring's interrupt. Answers the index. -/
def State.record (s : State) (kind unit : Nat) (place addr d4 d5 d6 d7 : Dword) : State × Nat :=
  let rec8 : Vector Dword 8 := #v[.ofNat 64 (kind + unit * 2 ^ 3 + 2 ^ 16), place, addr, s.dev.time, d4, d5, d6, d7]
  let (r, i) := s.ras.write rec8
  (({ s with ras := r }).errorInterrupt, i)

/-! ## Traps (R93, R296) -/

/-- What a trap reports (R65). -/
structure Exc where
  code : Nat
  detail : Nat
  tval : Dword
  tval2 : Dword
  intr : Bool
  deriving DecidableEq, Repr

/-- A synchronous cause with cw.tval and no more. -/
def exc (code : Nat) (tval : Dword) : Exc := { code := code, detail := 0, tval := tval, tval2 := 0, intr := false }
/-- A synchronous cause with detail. -/
def excD (code detail : Nat) (tval : Dword) : Exc :=
  { code := code, detail := detail, tval := tval, tval2 := 0, intr := false }

/-- cw.cause's value (R58, R296). -/
def Exc.word (e : Exc) : Dword := .ofNat 64 (e.code + e.detail * 2 ^ 8 + (if e.intr then 2 ^ 63 else 0))

/-- Whether a trap goes to firmware (R296). -/
def Ctx.toFirmware (c : Ctx) (e : Exc) : Bool :=
  e.code = 0x30 ∨ c.mode = 3 ∨ (¬e.intr ∧ c.mode = 1 ∧ c.nx)

/-- The address cw.epc takes: the bundle, and 4 for slot A (R57). -/
def resumeAt (pc : Dword) (slot : Bool) : Dword := bundleAddr pc ||| (if slot then 4 else 0)

/-- Continue at slot C of the bundle at v: nothing of a bundle is in progress. -/
def Ctx.goto (c : Ctx) (v : Dword) : Ctx :=
  { c with pc := bundleAddr v, slotA := false, phase := .fetch, xfer := .next }

/-- The supervisor entry of R296; a SPAWN that waited is given up with its chosen core (R19). -/
def Ctx.enterSupervisor (c : Ctx) (e : Exc) (slot : Bool) (vec : Dword) : Ctx :=
  { c with cw := { c.cw with
      estat := c.cw.status, cause := e.word, epc := resumeAt c.pc slot, tval := e.tval, tval2 := e.tval2
      status := 0x11 }, mkRec := if c.mode = 0 then none else c.mkRec, spawnTo := none }.goto vec

/-- The firmware entry of R296: mode 3 and ie 0, sum and nx as they were. -/
def Ctx.enterFirmware (c : Ctx) (e : Exc) (slot : Bool) (vec : Dword) : Ctx :=
  { c with cw := { c.cw with
      estat := c.cw.status, fwcause := e.word, fwepc := resumeAt c.pc slot, tval := e.tval, tval2 := 0
      status := (c.cw.status &&& 0x18) ||| 3 }, spawnTo := none }.goto vec

/-- Add to an event counter of a core (R295). -/
def CoreSt.count (k : CoreSt) (n by_ : Nat) : CoreSt := { k with ctr := tableSet k.ctr n (tableGet k.ctr n 0 + by_) }

/-- How many contexts a set names. -/
def members (g : BitVec 8) : Nat := ((List.range 8).filter fun i => g.getLsbD i).length

/-- A context leaves its fused group (R35); counter 3 counts the split (R295). -/
def CoreSt.leaveFused (k : CoreSt) (n : BitVec 3) : CoreSt :=
  if k.fused.any fun g => g.getLsbD n.toNat then
    { k.count 3 1 with
      fused := (k.fused.map fun g => g &&& ~~~((1 : BitVec 8) <<< n.toNat)).filter fun g => 2 ≤ members g }
  else k
def State.leaveFused (s : State) (c : CtxId) : State := s.modCore (coreOf c) fun k => k.leaveFused (ctxInCore c)

/-- cw.trapvec and cw.fwvec for a trap of a context: as they stood when the bundle in hand was renamed, or, at a boundary, as they
stand (R55). -/
def State.vectors (s : State) (c : CtxId) : Dword × Dword :=
  let x := s.ctx c
  if x.phase = .fetch then ((s.core (coreOf c)).trapvec, (s.core (coreOf c)).fwvec) else (x.trapTo, x.fwTo)

/-- EnterTrap (R296) in a context, recording the slot. A trap leaves any fused group (R297). -/
def State.enterTrap (s : State) (c : CtxId) (e : Exc) (slot : Bool) : State :=
  let s := s.leaveFused c
  let x := s.ctx c
  let (vec, fw) := s.vectors c
  if x.toFirmware e then
    if e.code = 0x30 then s.setCtx c (x.enterFirmware e slot fw)
    else
      let (s, i) := s.record 3 unitInternal (errPlace c) 0 e.word e.tval e.tval2 (resumeAt x.pc slot)
      s.modCtx c fun y => y.enterFirmware (excD 0x30 1 (.ofNat 64 i)) slot fw
  else s.setCtx c (x.enterSupervisor e slot vec)

/-! ## Leaving a bundle unexecuted (R79, R299) -/

/-- What an interrupt leaves of an access that a waiting step 1 has made: an answer still to come is discarded when it
comes, unless it is a ticket; an answer not yet used is discarded; a ticketed access keeps its entry (R29, R299). -/
def TkEntry.squash (e : TkEntry) : Option TkEntry :=
  if e.told then some e
  else if e.state == .sent then some { e with squashed := true }
  else if e.state == .done then none
  else some { e with told := true }

/-- The read-type accesses of a context are squashed. -/
def CoreSt.squashReads (k : CoreSt) (n : BitVec 3) : CoreSt :=
  { k with tk := k.tk.filterMap fun e =>
      if e.2.kind == .read && e.2.ctx == n && !e.2.squashed then e.2.squash.map fun f => (e.1, f) else some e }

/-- The bundle in hand is given up before its step 1 has had any effect: the context fetches it again. -/
def State.giveUp (s : State) (c : CtxId) : State :=
  (s.modCore (coreOf c) fun k => k.squashReads (ctxInCore c)).modCtx c fun x =>
    { x with st := .running, park := none, phase := .fetch, xfer := .next, spawnTo := none, asked := false }

/-! ## Machine checks for what a bundle did not do (R359, R362) -/

/-- A machine check whose record stands at index i is due in a context: a running thread takes it now and leaves the bundle in hand; a
context without a thread takes none; any other state is not left for it (R10, R28), and the check waits until the thread runs.
DESIGN CHOICE, log 86. -/
def State.giveCheck (s : State) (c : CtxId) (detail i : Nat) : State :=
  let x := s.ctx c
  match x.st with
  | .idle => s
  | .running =>
    (s.giveUp c).enterTrap c (excD 0x30 detail (.ofNat 64 i)) (x.phase == .second || (x.slotA && x.phase == .fetch))
  | .starting => s.modCtx c fun x => { x with checks := x.checks ++ [(detail, i)] }
  | .parked => s.modCtx c fun x => { x with checks := x.checks ++ [(detail, i)] }
  | .exiting => s.modCtx c fun x => { x with checks := x.checks ++ [(detail, i)] }

/-- A thread that runs takes the oldest check that waited for it. -/
def State.takeCheck (s : State) (c : CtxId) : State :=
  match (s.ctx c).checks with
  | [] => s
  | (d, i) :: r => (s.modCtx c fun x => { x with checks := r }).giveCheck c d i

/-! ## The end of a step and of a bundle -/

/-- Give the turn to the next chosen context, if another is waiting. -/
def State.yieldTurn (s : State) : State :=
  match s.turns with
  | a :: b :: r => { s with turns := b :: (r ++ [a]) }
  | _ => s

/-- A running context that cannot go on waits where it stands. -/
def State.stall (s : State) : State := s.yieldTurn

/-- Trap in the running context, in slot C (R79). -/
def State.trapC (s : State) (e : Exc) : State := (s.enterTrap s.cur e false).yieldTurn
/-- Trap in the running context, in slot A (R79). -/
def State.trapA (s : State) (e : Exc) : State := (s.enterTrap s.cur e true).yieldTurn

/-- Step 1 is done; step 3 will do x (R76, R77). -/
def State.endC (s : State) (x : Xfer) : State := s.modMe fun c => { c with phase := .second, xfer := x }

/-- ERET's change of status and pc (R148). -/
def Ctx.eret (c : Ctx) : Ctx :=
  let e := if c.mode = 3 then c.cw.fwepc else c.cw.epc
  let m := if c.cw.estat.toNat % 4 < c.mode.toNat then c.cw.estat.toNat % 4 else c.mode.toNat
  let m := if m = 2 then 1 else m
  let c := c.goto e
  { c with slotA := e.getLsbD 2, cw := { c.cw with status := (c.cw.estat &&& 0x1C) ||| .ofNat 64 m } }

/-- URET's return (R149). -/
def Ctx.uret (c : Ctx) : Ctx :=
  let e := c.cw.uepc
  let c := c.goto e
  { c with slotA := e.getLsbD 2, cw := { c.cw with upctl := c.cw.upctl &&& 1 } }

/-- Step 3: the transfer the C instruction named (R77, R132, R148, R149). -/
def Ctx.transfer (c : Ctx) : Ctx :=
  let fall := c.pc + 8
  match c.xfer with
  | .next => c.goto fall
  | .br b p n => if c.getP p != (n == 1) then c.goto (c.getB b).addr else c.goto fall
  | .call b p n =>
    if c.getP p != (n == 1) then (c.setB 0 (.to fall true)).goto (c.getB b).addr else c.goto fall
  | .eret => c.eret
  | .uret => c.uret

/-- A bundle counts as retired (R315). -/
def CoreSt.retire (k : CoreSt) : CoreSt := { k with retired := k.retired + 1 }

/-- The bundle retires: step 3, the retirement count (R315), and the turn passes. -/
def State.endBundle (s : State) : State :=
  ((s.modMe Ctx.transfer).modCore (coreOf s.cur) CoreSt.retire).yieldTurn

/-- A long instruction is the whole bundle, followed by the bundle at its address + 8 (R76). -/
def State.endLong (s : State) : State := (s.modMe fun c => { c with xfer := .next }).endBundle

/-- The A word as an instruction that only changes the context (R163). -/
def State.doneA (s : State) (f : Ctx → Ctx) : Out := .next (s.modMe f).endBundle

end Sys2Proof.Machine
end

