-- ==== Sys2Proof/Machine/Mem.lean ====
section
/-! DEFINITION. Memory: where a physical address lies (R266, R267, R317), the one canonical form of the byte list, and poison
(R187, R361). -/

namespace Sys2Proof.Machine

/-! ## The byte list -/

/-- The byte at a location; an unlisted location reads 0. -/
def readCell : List Host.Cell → Nat → Byte
  | [], _ => 0
  | (i, v) :: r, a => if i = a then v else readCell r a

/-- Write one byte, keeping locations rising and listing no zero. -/
def writeCell : List Host.Cell → Nat → Byte → List Host.Cell
  | [], a, b => if b = 0 then [] else [(a, b)]
  | (i, v) :: r, a, b =>
    if i = a then (if b = 0 then r else (a, b) :: r)
    else if a < i then (if b = 0 then (i, v) :: r else (a, b) :: (i, v) :: r)
    else (i, v) :: writeCell r a b

/-- The canonical form: locations strictly rising, no listed byte zero. -/
def Memory.wf : List Host.Cell → Bool
  | [] => true
  | [(_, v)] => v != 0
  | (i, v) :: (j, w) :: r => v != 0 && decide (i < j) && Memory.wf ((j, w) :: r)

/-- Write several bytes, in order. -/
def writeCells (m : List Host.Cell) : List (Nat × Byte) → List Host.Cell
  | [] => m
  | (a, b) :: r => writeCells (writeCell m a b) r

/-- n bytes from a location upward. -/
def readCells (m : List Host.Cell) (a : Nat) : Nat → List Byte
  | 0 => []
  | n + 1 => readCell m a :: readCells m (a + 1) n

/-! ## Where a physical address lies (R317) -/

/-- What a memory access meets when it cannot be made: a trap, a machine check (detail, unit, address), a wait, or a
stop of the model. -/
inductive Stop where
  | trap (e : Exc)
  /-- the trap of a D update that dref refuses, with the leaf's physical address and the leaf as the walk left it, its A set (R323) -/
  | dirtyRefused (e : Exc) (at_ : Nat) (pte : Dword)
  | machine (detail unit : Nat) (addr : Nat)
  | wait
  | fault (f : Fault)
  deriving DecidableEq, Repr

/-- The ranges of R317. -/
inductive Region where
  | hbm (off : Nat)
  | dev (off : Nat)
  /-- another package of the chassis -/
  | peer (pa : Nat)
  /-- host memory -/
  | host (pa : Nat)
  deriving DecidableEq, Repr

def State.region (s : State) (pa : Nat) : Region :=
  if s.dev.bar0 ≤ pa ∧ pa < s.dev.bar0 + Config.barSize then .dev (pa - s.dev.bar0)
  else if s.dev.hbmBase ≤ pa ∧ pa < s.dev.hbmBase + Config.hbmSize then .hbm (pa - s.dev.hbmBase)
  else if s.dev.peers.any fun r => r.1 ≤ pa && pa < r.1 + r.2 then .peer pa
  else .host pa

/-- The location of a byte in the byte list: its HBM offset, or 2^56 plus its physical address. -/
def Region.loc : Region → Nat
  | .hbm off => off
  | .dev off => 2 ^ 57 + off
  | .peer pa => 2 ^ 56 + pa
  | .host pa => 2 ^ 56 + pa

/-- The home die of an HBM offset (R266). -/
def homeDie (off : Nat) : Nat := off / 0x1800000000

/-- The stack of its home die that holds an HBM offset (R266): the parity of seven bits of the line's number in the die. -/
def homeStack (off : Nat) : Nat :=
  let n := off % 0x1800000000 / 128
  ([0, 5, 10, 15, 20, 25, 30].map fun i => n / 2 ^ i % 2).sum % 2

/-- CXL carries host memory traffic while a link runs as CXL (R329); where link 0 trained without it, the host link works as
PCIe alone (R328). -/
def State.cxlUp (s : State) : Bool :=
  match s.dev.links[0] with
  | .cxl => true
  | .pcie => false
  | .down => s.dev.links[1] == .cxl

/-- Whether an access to a byte can be made now (R317, R328, R368). -/
def State.reach (s : State) (firmware : Bool) (r : Region) : Except Stop Unit :=
  match r with
  | .dev _ => .ok ()
  | .hbm off =>
    if ¬s.dev.committed ∧ ¬firmware then .error (.fault .unreachable)
    else if s.boot.ready.getLsbD (33 + homeDie off) then .error (.machine 3 0 off)
    else if s.boot.ready.getLsbD (9 + homeDie off) then .ok ()
    else .error .wait
  | .peer _ => .ok ()
  | .host _ => if s.dev.committed ∧ s.cxlUp then .ok () else .error (.fault .unreachable)

/-- The host link that carries the CXL.cache or CXL.mem traffic of an address: bit 12 names it, and the other serves while that
one is down (R329). -/
def State.linkFor (s : State) (pa : Nat) : BitVec 1 :=
  let n := pa / 2 ^ 12 % 2
  if s.dev.links.toList.getD n .down == .down then .ofNat 1 (1 - n) else .ofNat 1 n

/-- The host link that carries CXL.io traffic: link 0, or link 1 while that is down (R329). -/
def State.linkIo (s : State) : BitVec 1 := if s.dev.links[0] == .down then 1 else 0

/-- The location of a physical byte an agent may access now. -/
def State.locOf (s : State) (firmware : Bool) (pa : Nat) : Except Stop Nat := do
  let r := s.region pa
  s.reach firmware r
  return r.loc

/-! ## Poison (R187, R361) -/

/-- A line's number in the poison list: location / 128. -/
def State.poisoned (s : State) (loc : Nat) : Bool := s.poison.contains (loc / 128)

/-- A line becomes poisoned (R361). -/
def State.setPoison (s : State) (loc : Nat) : State :=
  if s.poisoned loc then s else { s with poison := (loc / 128) :: s.poison }

/-- A whole-line write clears the line's poison (R187). -/
def State.clearPoison (s : State) (loc : Nat) : State := { s with poison := s.poison.filter (· != loc / 128) }

/-- Write bytes to memory at home. -/
def State.writeMem (s : State) (l : List (Nat × Byte)) : State := { s with mem := writeCells s.mem l }

/-- The doubleword at a location. -/
def State.memDword (s : State) (loc : Nat) : Dword := .ofNat 64 (ofBytes (readCells s.mem loc 8))
/-- The word at a location. -/
def State.memWord (s : State) (loc : Nat) : BitVec 32 := .ofNat 32 (ofBytes (readCells s.mem loc 4))

/-- n bytes of a value at a location, as cells. -/
def cellsAt (loc : Nat) : List Byte → List (Nat × Byte)
  | [] => []
  | b :: r => (loc, b) :: cellsAt (loc + 1) r

/-- The physical address of the line at a location (R317). -/
def State.lineAddress (s : State) (loc : Nat) : Dword :=
  .ofNat 64 ((if loc < 2 ^ 56 then s.dev.hbmBase + loc else loc - 2 ^ 56) / 128 * 128)

end Sys2Proof.Machine
end

