-- ==== Sys2Proof/Machine/Cache.lean ====
section
/-! DEFINITION. The caches (R240, R241, R263, R264, R273-R276): sets and victims, what the directories answer, S lines, the copy
engine's pinned lines, and performing a store. D lines are coherent, so the byte list holds their bytes and a cache their states. -/

namespace Sys2Proof.Machine

/-! ## Sets and ways (R263, R270) -/

/-- The set of a physical address in an L1, in an instruction cache, in a skein cache. -/
def l1Set (pa : Nat) : Nat := pa / 2 ^ 7 % 2 ^ 10
def icSet (pa : Nat) : Nat := pa / 2 ^ 7 % 2 ^ 7
def scSet (pa : Nat) : Nat := (pa / 2 ^ 7 % 2 ^ 12) ^^^ (pa / 2 ^ 19 % 2 ^ 12)
/-- The memory-side cache, by its die, and the set in it of an HBM offset. -/
def mscSet (off : Nat) : Nat × Nat := (homeDie off, (off / 2 ^ 7 % 2 ^ 15) ^^^ (off / 2 ^ 22 % 2 ^ 15))

/-- The physical address of a line, by its number. -/
def State.lineAt (s : State) (line : Nat) : Nat := (s.lineAddress (line * 128)).toNat

/-- What leaves a set so that one more line fits (R273): nothing while a way is free, else one of those that may. -/
def State.victim (s : State) (ways : Nat) (held may : List Nat) : State × Option Nat :=
  if held.length < ways then (s, none) else ({ s with free := s.free + 1 }, may[Config.victim s.free % may.length]?)

/-! ## The memory-side caches and the skein caches (R264, R273) -/

/-- The memory-side lines of the set that a line falls in. -/
def State.mscMates (s : State) (line : Nat) : List MscLine :=
  s.msc.filter fun e => mscSet (e.line * 128) == mscSet (line * 128)

/-- A line is read from HBM, or written back to it: the memory-side cache of its home die takes it (R264). -/
def State.mscPut (s : State) (line : Nat) (modified : Bool) : State :=
  if 2 ^ 56 ≤ line * 128 then s
  else if s.msc.any (·.line == line) then
    { s with msc := s.msc.map fun e => if e.line == line then { e with modified := e.modified || modified } else e }
  else
    let set := s.mscMates line
    let (s, v) := s.victim 16 (set.map (·.line)) ((set.filter (·.pins == 0)).map (·.line))
    { s with msc := { line := line, modified := modified, pins := 0 } :: s.msc.filter fun e => some e.line != v }

/-- An unpinned line leaves a skein cache; a modified one is written back (R273). -/
def State.evictSkein (s : State) (k : SkeinId) (line : Nat) : State :=
  match (s.skein k).sc.find? fun l => l.line == line && l.pins == 0 with
  | some l =>
    let s := if l.state = .modified then s.mscPut line true else s
    s.modSkein k fun x => { x with sc := x.sc.filter fun l => l.line != line || l.pins != 0 }
  | none => s

/-- The skein-cache lines of the set that a line falls in. -/
def State.scMates (s : State) (k : SkeinId) (line : Nat) : List ScLine :=
  (s.skein k).sc.filter fun l => scSet (s.lineAt l.line) == scSet (s.lineAt line)

/-- A line comes into a skein cache, pinned or not; one already there is only marked (R264, R274). -/
def State.scPut (s : State) (k : SkeinId) (line : Nat) (modified pin : Bool) : State :=
  let mark := fun (l : ScLine) =>
    { l with state := if modified then .modified else l.state, pins := if pin then l.pins + 1 else l.pins }
  if (s.skein k).sc.any (·.line == line) then
    s.modSkein k fun x => { x with sc := x.sc.map fun l => if l.line == line then mark l else l }
  else
    let set := s.scMates k line
    let (s, v) := s.victim 16 (set.map (·.line)) ((set.filter (·.pins == 0)).map (·.line))
    let s := match v with | some n => s.evictSkein k n | none => s
    s.modSkein k fun x =>
      { x with sc := mark { line := line, state := .shared, pins := 0, permission := false } :: x.sc }

/-! ## The directories (R240) -/

/-- A line is asked for exclusively, by a core or from outside the cores: every other L1, skein cache and outside holder gives it
up; a pinned copy without write permission stays (R276). -/
def State.claim (s : State) (own : Option CoreId) (line : Nat) : State :=
  { s with
    cores := s.cores.map fun (n, k) =>
      (n, if own.any (·.toNat == n) then k else { k with l1 := k.l1.filter fun l => l.s || l.line != line })
    skeins := s.skeins.map fun (n, k) =>
      (n, if own.any fun c => (skeinOfCore c).toNat == n then k
          else { k with sc := k.sc.filter fun l => l.line != line || l.pins != 0 })
    away := s.away.filter (·.line != line) }

/-- A line is asked for to read, by a core or from outside the cores: what another holds modified is written back, and every other
copy becomes shared. -/
def State.share (s : State) (own : Option CoreId) (line : Nat) : State :=
  let mine := fun (n : Nat) => own.any fun c => (skeinOfCore c).toNat == n
  let owners := s.cores.filter fun e => e.2.l1.any fun l => l.line == line && !l.s && l.state == .modified
  let s := owners.foldl (fun s e => s.scPut (skeinOfCore (.ofNat 10 e.1)) line true false) s
  let s := if s.skeins.any fun e => !mine e.1 && e.2.sc.any fun l => l.line == line && l.state == .modified then
      s.mscPut line true else s
  { s with
    cores := s.cores.map fun (n, k) =>
      (n, { k with l1 := k.l1.map fun l => if l.line == line && !l.s then { l with state := .shared } else l })
    skeins := s.skeins.map fun (n, k) =>
      (n, if mine n then k
          else { k with sc := k.sc.map fun l => if l.line == line then { l with state := .shared } else l })
    away := s.away.map fun a => if a.line == line then { a with excl := false } else a }

/-- The harts whose reservation of a line stands (R244). -/
def State.reserved (s : State) (line : Nat) : List Nat := ((s.away.find? (·.line == line)).map (·.reserved)).getD []

/-- The line's home notes that a host or another package holds it, and who has it reserved: the package's directory for the HBM, the
host's own for its memory (R240, R261). -/
def State.track (s : State) (line : Nat) (excl : Bool) (reserved : List Nat) : State :=
  { s with away := { line := line, excl := excl, reserved := reserved } :: s.away.filter (·.line != line) }

/-- A skein cache answers for a line it has: not while the way is only pinned, and write permission still to come (R276). -/
def ScLine.holds (l : ScLine) (line : Nat) : Bool := l.line == line && (l.pins == 0 || l.permission)

/-- A skein's cache holds a line. -/
def SkeinSt.holdsLine (k : SkeinSt) (line : Nat) : Bool := k.sc.any (·.holds line)

/-- Some other L1, another skein's cache or an outside agent holds a line. -/
def State.heldElsewhere (s : State) (core : CoreId) (line : Nat) : Bool :=
  (s.cores.any fun e => e.1 != core.toNat && e.2.l1.any fun l => l.line == line && !l.s) ||
  (s.skeins.any fun e => e.1 != (skeinOfCore core).toNat && e.2.holdsLine line) || s.away.any (·.line == line)

/-! ## S lines of an L1 (R241) -/

/-- The L1 line holding a location, if the core holds it. -/
def CoreSt.findLine (k : CoreSt) (line : Nat) : Option L1Line := k.l1.find? fun e => e.line == line

/-- The core's L1 holds a whole-line write of the line, not yet written back, which is to clear its poison (R187). -/
def CoreSt.wroteWhole (k : CoreSt) (line : Nat) : Bool := (k.findLine line).any fun e => e.s && e.whole

/-- The core's L1 holds a D line modified. -/
def CoreSt.dirtyD (k : CoreSt) (line : Nat) : Bool := k.l1.any fun l => l.line == line && !l.s && l.state == .modified

/-- The bytes of a line at home, as one value. -/
def State.lineValue (s : State) (line : Nat) : BitVec 1024 := .ofNat 1024 (ofBytes (readCells s.mem (line * 128) 128))

/-- The dirty bytes of an S line, as cells. -/
def L1Line.dirtyCells (e : L1Line) : List (Nat × Byte) :=
  (List.range 128).filterMap fun i => if e.dirty.getLsbD i then some (e.line * 128 + i, elem 8 e.bytes i) else none

/-- The dirty bytes of an S line of a core are written to its home, where no other cache keeps the line (R240, R241); those of a
whole-line write clear its poison (R187). -/
def State.storeLine (s : State) (core : CoreId) (e : L1Line) : State :=
  if e.dirty = 0 then s
  else
    let s := if e.whole then s.clearPoison (e.line * 128) else s
    ((s.claim (some core) e.line).writeMem e.dirtyCells).mscPut e.line true

/-- The dirty bytes of one core's S lines that p picks go home; the lines stay, clean. -/
def State.storeDirty (s : State) (core : CoreId) (p : L1Line → Bool) : State :=
  let s := (s.core core).l1.foldl (fun s e => if e.s ∧ p e then s.storeLine core e else s) s
  s.modCore core fun k =>
    { k with l1 := k.l1.map fun e => if e.s ∧ p e then { e with dirty := 0, whole := false } else e }

/-- Invalidate one core's S lines that p picks (R241). -/
def State.dropS (s : State) (core : CoreId) (p : L1Line → Bool) : State :=
  s.modCore core fun k => { k with l1 := k.l1.filter fun e => !(e.s && p e) }

/-! ## Copy queues -/

/-- A copy queue of a core. -/
def CoreSt.queue (k : CoreSt) (q : BitVec 2) : List CqEntry := k.cq[q.toNat]
def CoreSt.setQueue (k : CoreSt) (q : BitVec 2) (l : List CqEntry) : CoreSt := { k with cq := k.cq.set q.toNat l }

/-- The core and queue of one of a skein's 32 queues. -/
def queueAt (k : SkeinId) (n : Nat) : CoreId × BitVec 2 := (coreInSkein k (.ofNat 3 (n / 4)), .ofNat 2 n)

/-- The command at the head of a queue. -/
def State.headCmd (s : State) (core : CoreId) (q : BitVec 2) : Option CopyCmd :=
  match (s.core core).queue q with
  | .cmd c :: _ => some c
  | _ => none
def State.setHead (s : State) (core : CoreId) (q : BitVec 2) (c : CopyCmd) : State :=
  s.modCore core fun k => k.setQueue q (.cmd c :: (k.queue q).tail)

/-- The engine's event for what stands at the head of a queue. -/
def headUnit (k : SkeinId) : List CqEntry → Option Event
  | .cmd c :: _ => some (if c.level.isSome then .cpflFill k else .copyUnit k)
  | _ => none

/-- The head of a queue waits for nothing more. -/
def clearWait : List CqEntry → List CqEntry
  | .cmd c :: r => .cmd { c with wait := .none } :: r
  | l => l

/-- Let an event happen, unless it already stands on the agenda. -/
def State.postOnce (s : State) (e : Event) : State := if s.agenda.contains (.own e) then s else s.post e

/-- Let the engine go on with a queue. -/
def State.wakeEngine (s : State) (core : CoreId) (q : BitVec 2) : State :=
  match headUnit (skeinOfCore core) ((s.core core).queue q) with
  | some e => (s.modCore core fun k => k.setQueue q (clearWait (k.queue q))).postOnce e
  | none => s

/-- The queues of a skein whose head waits for a pin. -/
def State.pinWaiters (s : State) (k : SkeinId) : List Nat :=
  (List.range 32).filter fun n =>
    match s.headCmd (queueAt k n).1 (queueAt k n).2 with
    | some c => c.wait == .pin
    | none => false

/-- A pin has freed: the heads that wait for one are served again (R275). -/
def State.wakePins (s : State) (k : SkeinId) : State :=
  (s.pinWaiters k).foldl (fun s n => s.wakeEngine (queueAt k n).1 (queueAt k n).2) s

/-! ## Units of the copy engine (R205, R274-R276) -/

/-- The unit in progress: its destination, source and length. -/
def CopyCmd.dstAt (c : CopyCmd) : Dword := c.dst + .ofNat 64 (c.row * c.dstPitch + c.col)
def CopyCmd.srcAt (c : CopyCmd) : Dword := c.src + .ofNat 64 (c.row * c.srcPitch + c.col)
def CopyCmd.unitLen (c : CopyCmd) : Nat := min (c.rowLen - c.col) (128 - c.dstAt.toNat % 128)

/-- On to the next unit. -/
def CopyCmd.advance (c : CopyCmd) (n : Nat) : CopyCmd :=
  let c := { c with unit := none, buf := [], bufPoison := false, pin := none }
  if c.rowLen ≤ c.col + n then { c with row := c.row + 1, col := 0 } else { c with col := c.col + n }

/-- Other lines of a line's set in the skein cache that are pinned (R275). -/
def State.setPinned (s : State) (k : SkeinId) (line : Nat) : Nat :=
  ((s.scMates k line).filter fun l => l.pins != 0 && l.line != line).length

/-- The line of a unit that writes a part of it comes into the skein cache as a miss brings it: what another cache holds modified is
written back, and HBM is read unless the cache has the line (R264). -/
def State.unitLine (s : State) (core : CoreId) (line : Nat) : State :=
  let s := s.share (some core) line
  if (s.skein (skeinOfCore core)).sc.any (·.line == line) then s else s.mscPut line false

/-- The pinned line has write permission: every other copy is gone, a modified one written back first (R264, R276). -/
def State.permit (s : State) (k : SkeinId) (line : Nat) : State :=
  ((s.share (some (coreInSkein k 0)) line).claim none line).modSkein k fun x =>
    { x with sc := x.sc.map fun l =>
        if l.line == line then { l with permission := true, state := if l.state = .modified then .modified else .exclusive } else l }

/-- The write is done: the pin ends, the line is modified. -/
def SkeinSt.unpinLine (k : SkeinSt) (line : Nat) : SkeinSt :=
  { k with sc := k.sc.map fun l =>
      if l.line == line then { l with pins := l.pins - 1, permission := decide (1 < l.pins), state := .modified } else l }

/-- Write a unit's bytes (R205, R206, R259, R362): a poisoned source poisons the line; a part of a poisoned line is not written;
a whole line clears it. Answers whether the unit failed. -/
def State.writeUnit (s : State) (core : CoreId) (loc : Nat) (t : Treat) (d : List Byte) (poison : Bool) : State × Bool :=
  let s := if t = .S then (s.storeDirty core fun e => e.line == loc / 128).dropS core fun e => e.line == loc / 128 else s
  if poison then ((s.claim none (loc / 128)).setPoison loc, true)
  else if s.poisoned loc ∧ d.length ≠ 128 then (s, true)
  else (((s.clearPoison loc).claim none (loc / 128)).writeMem (cellsAt loc d), false)

/-- Some core of a skein holds a D line modified in its L1. -/
def State.dirtyIn (s : State) (k : SkeinId) (line : Nat) : Bool :=
  (List.range 8).any fun n => (s.core (coreInSkein k (.ofNat 3 n))).dirtyD line

/-- A coherence request is answered (R276): what the skein holds modified, in its cache or in an L1, is written back (R264); an exclusive
request takes the line away, a shared one leaves it shared, and the L1 copies follow; a way pinned without permission stays. -/
def State.answerLine (s : State) (k : SkeinId) (line : Nat) (excl : Bool) : State :=
  let s := if ((s.skein k).sc.any fun l => l.line == line && l.state == .modified) || s.dirtyIn k line then s.mscPut line true else s
  let s := s.modSkein k fun x =>
    { x with sc := (if excl then x.sc.filter fun l => !l.holds line else x.sc).map fun l =>
        if l.line == line then { l with state := .shared } else l }
  (List.range 8).foldl (fun s n => s.modCore (coreInSkein k (.ofNat 3 n)) fun c =>
    { c with l1 := if excl then c.l1.filter fun l => l.s || l.line != line
                   else c.l1.map fun l => if l.line == line && !l.s then { l with state := .shared } else l }) s

/-- An agent outside the package takes a line exclusive: what a cache holds modified is written back, HBM is read, and every copy of this
package is given up (R240, R264). -/
def State.giveOutside (s : State) (line : Nat) : State := ((s.share none line).claim none line).mscPut line false

/-- Another package asks for a line: the home's directory has every copy of this one given up or shared, and notes the holder; the bytes
are read from HBM (R240, R264). A reservation ends where the line is taken exclusive (R244). -/
def State.noteOutside (s : State) (line : Nat) (excl outside : Bool) : State :=
  if outside then
    if excl then (s.giveOutside line).track line true []
    else ((s.share none line).mscPut line false).track line false (s.reserved line)
  else s

/-- A request is answered by a skein's cache, and by the directory where another package asks. -/
def State.answerFor (s : State) (k : SkeinId) (line : Nat) (excl outside : Bool) : State :=
  (s.answerLine k line excl).noteOutside line excl outside

/-- The pin of a unit's line ends; requests held at the line are answered once no pin is left (R274, R276). -/
def State.unpin (s : State) (k : SkeinId) (line : Nat) : State :=
  let s := s.modSkein k fun x => x.unpinLine line
  let s := if (s.skein k).sc.any fun l => l.line == line && l.pins != 0 then s
    else
      let due := (s.skein k).held.filter fun h => h.1 == line
      let s := s.modSkein k fun x => { x with held := x.held.filter fun h => h.1 != line }
      due.foldl (fun s h => s.answerFor k h.1 h.2.1 h.2.2) s
  s.wakePins k

/-- The unit's bytes are written, its pin ends, and the command goes on. -/
def State.landUnit (s : State) (core : CoreId) (q : BitVec 2) (c : CopyCmd) (loc : Nat) (t : Treat) : State :=
  let (s, bad) := s.writeUnit core loc t c.buf c.bufPoison
  let s := if t = .U then s else s.unpin (skeinOfCore core) (loc / 128)
  (s.setHead core q ({ c with failed := c.failed || bad }.advance c.unitLen)).wakeEngine core q

/-- The skein whose pin with write permission holds a line (R276). -/
def State.pinHolder (s : State) (line : Nat) : Option SkeinId :=
  (s.skeins.find? fun e => e.2.sc.any fun l => l.line == line && l.pins != 0 && l.permission).map fun e => .ofNat 7 e.1

/-- A line is pinned with write permission somewhere: a request for it is held (R276). -/
def State.pinHeld (s : State) (line : Nat) : Bool :=
  s.skeins.any fun e => e.2.sc.any fun l => l.line == line && l.pins != 0 && l.permission

/-- Another agent reaches a line: one pinned with write permission makes it wait until the unit has written it (R276). -/
def State.settlePin (s : State) (line : Nat) : State :=
  let units := s.skeins.flatMap fun e =>
    if e.2.sc.any fun l => l.line == line && l.pins != 0 && l.permission then (List.range 32).map (queueAt (.ofNat 7 e.1)) else []
  units.foldl (fun s u =>
    match s.headCmd u.1 u.2 with
    | some c => match c.pin with
      | some (loc, t, true) => if loc / 128 = line ∧ t ≠ .U then s.landUnit u.1 u.2 c loc t else s
      | _ => s
    | none => s) s

/-! ## Writing S lines back (R241) -/

/-- Write back one core's dirty S bytes of the lines p picks; the lines stay, clean (R241). A line that a pin holds is written by its
unit first (R276). -/
def State.writeBackS (s : State) (core : CoreId) (p : L1Line → Bool) : State :=
  let lines := ((s.core core).l1.filter fun e => e.s && p e && e.dirty != 0).map (·.line)
  (lines.foldl State.settlePin s).storeDirty core p

/-- One line of a core's S lines goes home and leaves the L1. -/
def State.returnLine (s : State) (core : CoreId) (line : Nat) : State :=
  (s.writeBackS core fun e => e.line == line).dropS core fun e => e.line == line

/-- The S action of an operation with a release part at SKEIN scope or wider (R241). -/
def State.releaseS (s : State) (core : CoreId) (scope : BitVec 4) : State :=
  if scope < 2 then s else s.writeBackS core fun _ => true

/-- The S action of an operation with an acquire part at SKEIN scope or wider (R241). -/
def State.acquireS (s : State) (core : CoreId) (scope : BitVec 4) : State :=
  if scope < 2 then s else (s.writeBackS core fun _ => true).dropS core fun _ => true

/-- A byte as a reader of home sees it from a core: what the core's L1 holds dirty on an S page, else home's (R193, R241). -/
def State.homeSeen (s : State) (core : CoreId) (t : Treat) (loc : Nat) : Byte :=
  match t, (s.core core).findLine (loc / 128) with
  | .S, some e => if e.s && e.dirty.getLsbD (loc % 128) then elem 8 e.bytes (loc % 128) else readCell s.mem loc
  | _, _ => readCell s.mem loc

/-! ## The L1 (R264, R273) -/

/-- A line leaves a core's L1: an S line's dirty bytes are written back, a modified D line goes to the skein cache. -/
def State.evictL1 (s : State) (core : CoreId) (line : Nat) : State :=
  let dirty : Bool := (s.core core).dirtyD line
  let s := s.writeBackS core fun e => e.line == line
  let s := if dirty then s.scPut (skeinOfCore core) line true false else s
  s.modCore core fun k => { k with l1 := k.l1.filter fun l => l.line != line }

/-- A line comes into a core's L1. -/
def State.l1Put (s : State) (core : CoreId) (e : L1Line) : State :=
  let set := ((s.core core).l1.filter fun l => l1Set (s.lineAt l.line) == l1Set (s.lineAt e.line)).map (·.line)
  let (s, v) := s.victim 16 set set
  let s := match v with | some n => s.evictL1 core n | none => s
  s.modCore core fun k => { k with l1 := e :: k.l1 }

/-- An L1 miss is served: from the skein cache, or from below it, which fills it and, for HBM, the memory-side cache. -/
def State.fromBelow (s : State) (core : CoreId) (line : Nat) : State :=
  if (s.skein (skeinOfCore core)).holdsLine line then s
  else (s.mscPut line false).scPut (skeinOfCore core) line false false

/-! ## Accesses of the part's own agents and of hosts, by physical address (R262, R322, R332) -/

/-- Write at home as an agent outside the cores: no cache above the memory side keeps a copy (R240). -/
def State.homeWrite (s : State) (loc : Nat) (d : List Byte) : State :=
  let lines := (List.range ((loc + d.length - 1) / 128 + 1 - loc / 128)).map (loc / 128 + ·)
  let s := lines.foldl (fun s n => ((s.settlePin n).claim none n).mscPut n true) s
  s.writeMem (cellsAt loc d)

/-- The line of a physical address is read by an agent outside the cores, as a D line: what another holds modified is written back,
and the memory-side cache takes it (R240, R264, R322). -/
def State.agentRead (s : State) (pa : Nat) : State :=
  match s.region pa with
  | .dev _ => s
  | r => ((s.settlePin (r.loc / 128)).share none (r.loc / 128)).mscPut (r.loc / 128) false

/-- Whether an agent of the part other than a core reaches a physical address: HBM is for firmware mode alone until HDM decoder 0
is committed, and host memory is reached over CXL from then on (R317, R328); a mailbox works over PCIe, so for it host memory is always
there. DEDUCED, log 36. -/
def State.agentReaches (s : State) (mailbox : Bool) (pa : Nat) : Bool :=
  match s.region pa with
  | .dev _ => true
  | .hbm _ => s.dev.committed
  | .peer _ => true
  | .host _ => mailbox || (s.dev.committed && s.cxlUp)

/-- The bytes an agent reads at a physical address, coherently; device register space reads zero (R318). -/
def State.physRead (s : State) (pa n : Nat) : List Byte :=
  match s.region pa with
  | .dev _ => List.replicate n 0
  | r => readCells (s.settlePin (r.loc / 128)).mem r.loc n

/-- An agent's read meets poison (R362). -/
def State.physPoisoned (s : State) (pa : Nat) : Bool :=
  match s.region pa with
  | .dev _ => false
  | r => (s.settlePin (r.loc / 128)).poisoned r.loc

/-- Write at a physical address; device register space ignores it (R318), and what is not reachable takes nothing. -/
def State.physWrite (s : State) (mailbox : Bool) (pa : Nat) (d : List Byte) : State :=
  match s.region pa with
  | .dev _ => s
  | r => if s.agentReaches mailbox pa then s.homeWrite r.loc d else s

/-! ## Lines of a core's own accesses (R240, R241, R264) -/

/-- How much a state lets its holder do. -/
def LineState.rank : LineState → Nat
  | .shared => 0
  | .exclusive => 1
  | .modified => 2

/-- A D line in a core's L1, with at least the state an access wants; new: the access writes the whole line, which is not
read (R240, R264). One that comes in clean has been written back by whoever held it modified; one asked for to be written comes as it is. -/
def State.holdD (s : State) (core : CoreId) (line : Nat) (want : LineState) (new : Bool) : State :=
  match (s.core core).findLine line with
  | some l =>
    if l.s ∨ want.rank ≤ l.state.rank then s
    else
      let s := if l.state = .shared then (s.settlePin line).claim (some core) line else s
      s.modCore core fun k => { k with l1 := k.l1.map fun l => if l.line == line && !l.s then { l with state := want } else l }
  | none =>
    let s := s.settlePin line
    let s := match want with
      | .shared => s.share (some core) line
      | .exclusive => (s.share (some core) line).claim (some core) line
      | .modified => s.claim (some core) line
    let s := if new then s else s.fromBelow core line
    let state := if want = .shared ∧ ¬s.heldElsewhere core line then .exclusive else want
    s.l1Put core { line := line, s := false, bytes := 0, dirty := 0, whole := false, state := state }

/-- An S line in a core's L1; a poisoned one is not brought in, and one written whole is not read (R187, R264). A copy of the line
held under another treatment leaves first. -/
def State.fillS (s : State) (core : CoreId) (line : Nat) (new : Bool) : State :=
  match (s.core core).findLine line with
  | some e => if e.s then s else fill (s.evictL1 core line)
  | none => fill s
where
  fill (s : State) : State :=
    let s := s.settlePin line
    if new then s.l1Put core { line := line, s := true, bytes := 0, dirty := 0, whole := false, state := .shared }
    else if s.poisoned (line * 128) then s
    else
      let s := (s.share (some core) line).fromBelow core line
      s.l1Put core { line := line, s := true, bytes := s.lineValue line, dirty := 0, whole := false, state := .shared }

/-- The byte a core reads at a location: from its own S line, or from home. -/
def State.byteFor (s : State) (core : CoreId) (t : Treat) (loc : Nat) : Byte :=
  match t, (s.core core).findLine (loc / 128) with
  | .S, some e => if e.s then elem 8 e.bytes (loc % 128) else readCell s.mem loc
  | _, _ => readCell s.mem loc

/-- Put bytes into an S line, marking them dirty. -/
def L1Line.put (e : L1Line) : List (Nat × Byte) → L1Line
  | [] => e
  | (loc, b) :: r =>
    L1Line.put { e with bytes := setElem 8 e.bytes (loc % 128) b, dirty := e.dirty ||| (1 <<< (loc % 128)) } r

/-! ## Performing a store -/

/-- Perform the bytes of one line, all of one treatment, for a core (R240-R242); a whole-line write clears poison, on an S page
when it is written back. -/
def State.performBytes (s : State) (core : CoreId) (t : Treat) (l : List (Nat × Byte)) (whole : Bool) : State :=
  match l with
  | [] => s
  | (loc, _) :: _ =>
    let line := loc / 128
    match t with
    | .S =>
      (s.fillS core line whole).modCore core fun k => { k with l1 := k.l1.map fun e =>
        if e.line == line && e.s then { e.put l with whole := e.whole || whole } else e }
    | .D =>
      let s := s.holdD core line .modified whole
      (if whole then s.clearPoison loc else s).writeMem l
    | .U =>
      let s := (s.settlePin line).claim none line
      (if whole then s.clearPoison loc else s).writeMem l

/-- Read-modify-write of one word or doubleword at its place (R241, R242, R244): a D line is held exclusive in the L1; an S line
is written back and dropped from it, and the home performs the access; a U line is held by no cache (R242), nor by a host (R261, R328).
Answers the old value. -/
def State.rmwAt (s : State) (core : CoreId) (t : Treat) (loc size : Nat) (f : Nat → Nat) : State × Nat :=
  let line := loc / 128
  let s := match t with
    | .S => (((s.settlePin line).returnLine core line).claim none line).mscPut line true
    | .D => s.holdD core line .modified false
    | .U => (s.settlePin line).claim none line
  let old := ofBytes (readCells s.mem loc size)
  (s.writeMem (cellsAt loc (toBytes size (f old))), old)

/-- Perform one retired store (R185, R226). -/
def State.performRetired (s : State) (core : CoreId) (r : Retired) : State :=
  match r with
  | .bytes t l whole => s.performBytes core t l whole
  | .amax t loc m => (s.rmwAt core t loc 4 fun old => if old < m.toNat then m.toNat else old).1
  | .release scope t l whole =>
    let s := (s.releaseS core scope).performBytes core t l whole
    match t, l with
    | .S, (loc, _) :: _ => if scope < 2 then s else s.writeBackS core fun e => e.line == loc / 128
    | _, _ => s
  | .barrier scope => s.releaseS core scope
  | .seen => s.releaseS core 7

/-- Perform every retired store of a context, oldest first. -/
def State.drain (s : State) (c : CtxId) : State :=
  let l := (s.ctx c).stores
  let s := l.foldl (fun s r => s.performRetired (coreOf c) r) s
  s.modCtx c fun x => { x with stores := [] }

/-- The locations a retired store writes. -/
def Retired.touches (r : Retired) (loc : Nat) : Bool :=
  match r with
  | .bytes _ l _ => l.any fun e => e.1 == loc
  | .amax _ a _ => a ≤ loc && loc < a + 4
  | .release _ _ l _ => l.any fun e => e.1 == loc
  | .barrier _ => false
  | .seen => false

/-- How many of the oldest retired stores must go before the given locations can be accessed: all up to the last that
touches one. -/
def depth (l : List Retired) (locs : List Nat) : Nat :=
  match l with
  | [] => 0
  | r :: t =>
    let d := depth t locs
    if d > 0 then d + 1 else if locs.any r.touches then 1 else 0

/-- Perform the oldest retired stores up to the last that touches one of these locations. -/
def State.drainFor (s : State) (c : CtxId) (locs : List Nat) : State :=
  let l := (s.ctx c).stores
  let n := depth l locs
  let s := (l.take n).foldl (fun s r => s.performRetired (coreOf c) r) s
  s.modCtx c fun x => { x with stores := l.drop n }

/-- The byte the thread's own retired stores give a location, youngest first (R245). -/
def forwarded (l : List Retired) (loc : Nat) : Option Byte :=
  match l with
  | [] => none
  | r :: t =>
    match forwarded t loc with
    | some b => some b
    | none =>
      match r with
      | .bytes _ bs _ => ((bs.reverse.find? fun e => e.1 == loc).map (·.2))
      | .release _ _ bs _ => ((bs.reverse.find? fun e => e.1 == loc).map (·.2))
      | .amax _ _ _ => none
      | .barrier _ => none
      | .seen => none

/-- Cut the cells of a store into lines, each with its own list. -/
def byLine : List (Nat × Byte) → List (List (Nat × Byte))
  | [] => []
  | (a, b) :: r =>
    match byLine r with
    | ((c, d) :: g) :: rest => if a / 128 = c / 128 then ((a, b) :: (c, d) :: g) :: rest else [(a, b)] :: ((c, d) :: g) :: rest
    | rest => [(a, b)] :: rest

end Sys2Proof.Machine
end

