-- ==== Sys2Proof/Machine/Translate.lean ====
section
/-! DEFINITION. Translation: address-space entries (R320), the Sv57 walk, A and D (R322, R323), cached translations
(R157, R324), and Translate (R94). -/

namespace Sys2Proof.Machine

/-- The kinds of access of R94; a tile access says what it does to the page (R216, R322). -/
inductive Kind where
  | fetch
  | load
  | store
  | rmw
  | tileRead
  | tileWrite
  | tileBoth
  deriving DecidableEq, Repr

def Kind.reads : Kind → Bool
  | .fetch => false | .load => true | .store => false | .rmw => true | .tileRead => true | .tileWrite => false
  | .tileBoth => true
/-- W is needed, and so is D (R322, R323). -/
def Kind.writes : Kind → Bool
  | .fetch => false | .load => false | .store => true | .rmw => true | .tileRead => false | .tileWrite => true
  | .tileBoth => true
def Kind.tile : Kind → Bool
  | .fetch => false | .load => false | .store => false | .rmw => false | .tileRead => true | .tileWrite => true
  | .tileBoth => true

/-- Who translates: a thread or an engine acting with a thread's privilege (R52, R206), and what its faults carry for a
tile operand (R59). -/
structure Who where
  core : CoreId
  asn : BitVec 16
  mode : BitVec 2
  sum : Bool
  /-- cw.tval2 of a tile fault (R59) -/
  tval2 : Dword
  deriving DecidableEq, Repr

/-- The running thread of a context. -/
def State.who (s : State) (c : CtxId) : Who :=
  let x := s.ctx c
  { core := coreOf c, asn := x.cw.asn, mode := x.mode, sum := x.sum, tval2 := 0 }

/-- cause 0x05, 0x06, 0x07 or 0x08 with a detail (R94: PageFault). -/
def pageFault (k : Kind) (tval2 : Dword) (va : Dword) (detail : Nat) : Stop :=
  .trap { code := match k with | .fetch => 5 | .load => 6 | .store => 7 | .rmw => 7 | _ => 8
          detail := detail, tval := va, tval2 := if k.tile then tval2 else 0, intr := false }

/-- The page fault of a D update that dref refuses; A is set, where it is not yet (R94, R323): DEDUCED, log 85. -/
def dirtyFault (k : Kind) (va : Dword) (pte : Dword) (at_ : Nat) : Stop :=
  match pageFault k 0 va 2 with
  | .trap e => if pte.getLsbD 6 then .trap e else .dirtyRefused e at_ (pte ||| 0x40)
  | x => x

/-- The access fault (R65, R94); a tile operand's carries kind 1 only in the page fault (R65). -/
def accessFault (va : Dword) (detail : Nat) : Stop := .trap (excD 9 detail va)

/-! ## Address spaces (R320, R321) -/

/-- ASTBASE's count (R320). -/
def State.astCount (s : State) : Nat := s.dev.astBase.toNat % 2 ^ 17
/-- ASTBASE's base. -/
def State.astBaseAddr (s : State) : Nat := s.dev.astBase.toNat / 2 ^ 21 % 2 ^ 35 * 2 ^ 21

/-- The doubleword a walker or a table reader reads at a physical address (R322: coherently, as D). Device register
space gives zero to any reader that is not a register access (R318). -/
def State.physDword (s : State) (firmware : Bool) (pa : Nat) : Except Stop Dword := do
  match s.region pa with
  | .dev _ => return 0
  | r =>
    s.reach firmware r
    let s := s.settlePin (r.loc / 128)
    if s.poisoned r.loc then throw (.machine 2 9 r.loc)
    return s.memDword r.loc

/-- The address of an ASN's entry, which lies in one line. -/
def State.asAddr (s : State) (asn : BitVec 16) : Nat := s.astBaseAddr + 32 * asn.toNat

/-- Read an address-space table entry from memory (R320), before the commit of HDM decoder 0 too: a launch that waited for its die is
served as the die becomes ready, which is before any commit (R368). DEDUCED, log 103. -/
def State.readAs (s : State) (asn : BitVec 16) : Except Stop AsEntry := do
  let a := s.asAddr asn
  let w0 ← s.physDword true a
  let w1 ← s.physDword true (a + 8)
  let w2 ← s.physDword true (a + 16)
  let w3 ← s.physDword true (a + 24)
  return { asn := asn, word0 := w0, lmask := w1, dmask := w2, last := w3 }

/-- An entry is valid when its valid bit is set and its zero fields are zero (R320). -/
def AsEntry.valid (e : AsEntry) : Bool :=
  e.word0.getLsbD 0 && (e.word0.toNat / 2 ^ 4 % 2 ^ 8 == 0) && (e.word0.toNat / 2 ^ 56 == 0) && (e.last == 0)
def AsEntry.dref (e : AsEntry) : Bool := e.word0.getLsbD 2
def AsEntry.spawn (e : AsEntry) : Bool := e.word0.getLsbD 3
def AsEntry.root (e : AsEntry) : Nat := e.word0.toNat / 2 ^ 12 % 2 ^ 44 * 2 ^ 12

/-- The address-space entry a core uses: its cached one, or the table's, which it then caches (R320). An ASN at or above
count has none. A write of ASTBASE leaves the cached ones in use: DESIGN CHOICE, log 95. -/
def State.asEntry (s : State) (core : CoreId) (asn : BitVec 16) : Except Stop (State × Option AsEntry) := do
  if s.astCount ≤ asn.toNat then return (s, none)
  else match (s.core core).ast.find? fun e => e.asn == asn with
  | some e => return (s, if e.valid then some e else none)
  | none =>
    let e ← s.readAs asn
    return ((s.agentRead (s.asAddr asn)).modCore core fun k => { k with ast := e :: k.ast }, if e.valid then some e else none)

/-- The address-space entry that the launch router, the mailboxes and the NIU use: their cached one, or the table's, which they
then cache (R320); as asEntry, DESIGN CHOICE, log 95. -/
def State.asLookup (s : State) (asn : BitVec 16) : Except Stop (State × Option AsEntry) := do
  if s.astCount ≤ asn.toNat then return (s, none)
  else match s.dev.ast.find? fun e => e.asn == asn with
  | some e => return (s, if e.valid then some e else none)
  | none =>
    let e ← s.readAs asn
    return ((s.agentRead (s.asAddr asn)).modDev fun d => { d with ast := e :: d.ast }, if e.valid then some e else none)

/-! ## PTEs (R322) -/

def pteV (p : Dword) : Bool := p.getLsbD 0
def pteR (p : Dword) : Bool := p.getLsbD 1
def pteW (p : Dword) : Bool := p.getLsbD 2
def pteX (p : Dword) : Bool := p.getLsbD 3
def pteU (p : Dword) : Bool := p.getLsbD 4
def pteG (p : Dword) : Bool := p.getLsbD 5
def pteA (p : Dword) : Bool := p.getLsbD 6
def pteD (p : Dword) : Bool := p.getLsbD 7
def pteN (p : Dword) : Bool := p.getLsbD 63
/-- The physical page number, bits [53:10]. -/
def ptePpn (p : Dword) : Nat := p.toNat / 2 ^ 10 % 2 ^ 44
/-- Malformed at a level (R322). -/
def malformed (level : Nat) (p : Dword) : Bool :=
  let leaf := pteR p || pteX p
  (pteW p && !pteR p) ||
  (p.toNat / 2 ^ 54 % 2 ^ 7 != 0) ||
  (p.toNat / 2 ^ 61 % 2 ^ 2 != 0) ||
  (pteN p && !(level == 0 && leaf && ptePpn p % 16 == 8)) ||
  (!leaf && (pteA p || pteD p || pteU p)) ||
  (leaf && level > 0 && ptePpn p % 2 ^ (9 * level) != 0) ||
  (level == 0 && !leaf)

/-- The treatment a leaf selects (R239). -/
def pteTreat (p : Dword) : Treat :=
  match p.toNat / 2 ^ 8 % 4 with
  | 0 => .D
  | 1 => .S
  | _ => .U

/-- What a walk finds. -/
inductive WalkEnd where
  | absent
  | malformed
  /-- level, the leaf, its physical address -/
  | leaf (level : Nat) (pte : Dword) (at_ : Nat)
  deriving DecidableEq, Repr

/-- Walk(va) from a table at a level (R322). -/
def State.walkFrom (s : State) (va : Nat) : Nat → Nat → Except Stop WalkEnd
  | level, table => do
    let a := table + 8 * (va / 2 ^ (12 + 9 * level) % 512)
    let p ← s.physDword false a
    if ¬pteV p then return .absent
    else if malformed level p then return .malformed
    else if pteR p || pteX p then return .leaf level p a
    else match level with
      | 0 => return .malformed
      | n + 1 => s.walkFrom va n (ptePpn p * 4096)

/-- The lines that the walk reads come into the memory-side caches, and are shared (R264, R322). -/
def State.walkLines (s : State) (va : Nat) : Nat → Nat → State
  | 0, table => s.agentRead (table + 8 * (va / 2 ^ 12 % 512))
  | n + 1, table =>
    let a := table + 8 * (va / 2 ^ (12 + 9 * (n + 1)) % 512)
    let t := s.agentRead a
    match s.physDword false a with
    | .error _ => t
    | .ok p =>
      if ¬pteV p ∨ malformed (n + 1) p ∨ pteR p ∨ pteX p then t else t.walkLines va n (ptePpn p * 4096)

/-- How many bits of the address a leaf leaves to the page: its level, or 16 for a 64 KiB page (R322). -/
def leafShift (level : Nat) (p : Dword) : Nat := if pteN p then 16 else 12 + 9 * level

/-- The physical address a leaf gives a virtual one. -/
def leafAddr (shift : Nat) (p : Dword) (va : Nat) : Nat :=
  ptePpn p * 4096 / 2 ^ shift * 2 ^ shift + va % 2 ^ shift

/-- The mode rule of R52: user mode reaches U = 1 only; supervisor mode never fetches from U = 1, and reaches it with sum. -/
def modeRuleBroken (w : Who) (k : Kind) (p : Dword) : Bool :=
  if w.mode = 0 then !pteU p else pteU p && (k == .fetch || !w.sum)

/-- Permits(pte, kind) (R322). -/
def permits (k : Kind) (p : Dword) : Bool :=
  if k = .fetch then pteX p else (!k.reads || pteR p) && (!k.writes || pteW p)

/-- A and D an access needs (R323). -/
def needed (k : Kind) (p : Dword) : Dword := p ||| 0x40 ||| (if k.writes then 0x80 else 0)

/-- A cached leaf that covers an address of an address space (R157, R324). -/
def TlbEntry.hit (e : TlbEntry) (asn : BitVec 16) (va : Nat) : Bool :=
  (e.global || e.asn == asn) && e.vpn * 4096 / 2 ^ e.shift == va / 2 ^ e.shift

/-- An update of A and D: one compare-and-swap at the PTE's home, after which no cache above the memory side holds the line (R240, R244,
R323). -/
def State.putPte (s : State) (at_ : Nat) (p : Dword) : State := s.homeWrite (s.region at_).loc (bytesOf 8 p)

/-- Translate one page of a local, canonical address in a lower mode (R94), in an address space that is valid (R321): a cached leaf
serves where it permits the access and needs no update, otherwise the tables are walked. Where dref refuses the D update, A is set all the
same, since A updates are never refused (R323). -/
def State.translatePage (s : State) (w : Who) (k : Kind) (va : Nat) : Except Stop (State × Nat × Treat) := do
  let v : Dword := .ofNat 64 va
  let (s, as) ← s.asEntry w.core w.asn
  match as with
  | none => throw (pageFault k w.tval2 v 0)
  | some as =>
    let cached := (s.core w.core).tlb.find? fun e =>
      e.hit w.asn va && !modeRuleBroken w k e.pte && permits k e.pte && needed k e.pte == e.pte
    match cached with
    | some e => return (s, leafAddr e.shift e.pte va, pteTreat e.pte)
    | none =>
      match ← s.walkFrom va 4 as.root with
      | .absent => throw (pageFault k w.tval2 v 0)
      | .malformed => throw (pageFault k w.tval2 v 1)
      | .leaf level p at_ =>
        if modeRuleBroken w k p then throw (accessFault v 3)
        if ¬permits k p then throw (pageFault k w.tval2 v 1)
        let p' := needed k p
        if k.writes ∧ ¬pteD p ∧ as.dref ∧ ¬k.tile then throw (dirtyFault k v p at_)
        let s := s.walkLines va 4 as.root
        let s := if p' = p then s else s.putPte at_ p'
        let shift := leafShift level p
        let e : TlbEntry := { asn := w.asn, global := pteG p, vpn := va / 2 ^ shift * 2 ^ shift / 4096, shift := shift
                              pte := p', loc := (s.region at_).loc, dref := as.dref }
        let s := s.modCore w.core fun c => { c with tlb := e :: c.tlb.filter fun o => !o.hit w.asn va }
        return (s, leafAddr shift p va, pteTreat p)

/-- The treatment of a firmware-mode access: memory as D, device register space as U (R239). -/
def State.physTreat (s : State) (pa : Nat) : Treat :=
  match s.region pa with
  | .dev _ => .U
  | _ => .D

/-- One byte of an access: its address, its location (device register space from 2^57 up), its treatment. -/
structure ByteAt where
  va : Nat
  loc : Nat
  t : Treat
  deriving DecidableEq, Repr

/-- A byte of device register space. -/
def ByteAt.isDev (b : ByteAt) : Bool := 2 ^ 57 ≤ b.loc

/-- The bytes of one page, once its first byte is translated to pa: every byte must be reachable now. -/
def State.pageBytes (s : State) (firmware : Bool) (first pa : Nat) (t : Treat) :
    List Nat → Except Stop (List ByteAt)
  | [] => return []
  | a :: r => do
    let loc ← s.locOf firmware (pa + (a - first))
    let rest ← s.pageBytes firmware first pa t r
    return { va := a, loc := loc, t := t } :: rest

/-- Cut rising addresses into pages. -/
def byPage : List Nat → List (List Nat)
  | [] => []
  | a :: r =>
    match byPage r with
    | (b :: g) :: rest => if a / 4096 = b / 4096 then (a :: b :: g) :: rest else [a] :: (b :: g) :: rest
    | rest => [a] :: rest

/-- Addresses of one page, with the physical address of the first and the treatment. -/
structure PageAt where
  addrs : List Nat
  pa : Nat
  t : Treat
  deriving DecidableEq, Repr

/-- Translate an access page by page, lowest first (R94). -/
def State.mapPages (s : State) (w : Who) (k : Kind) : List (List Nat) → Except Stop (State × List PageAt)
  | [] => return (s, [])
  | [] :: r => s.mapPages w k r
  | (a :: l) :: r => do
    let (s, pa, t) ← if w.mode = 3 then .ok (s, a, s.physTreat a) else s.translatePage w k a
    let (s, rest) ← s.mapPages w k r
    return (s, { addrs := a :: l, pa := pa, t := t } :: rest)

/-- The bytes of the pages of an access, all translated. -/
def State.bytesOfPages (s : State) (firmware : Bool) : List PageAt → Except Stop (List ByteAt)
  | [] => return []
  | p :: r => do
    let here ← s.pageBytes firmware (p.addrs.headD 0) p.pa p.t p.addrs
    return here ++ (← s.bytesOfPages firmware r)

/-- Translate (R94) for the pages of an access at the given rising addresses; va is the address of byte 0. A fault names the
lowest address accessed. A fabric address is accepted only by the entries that send it themselves. DEDUCED, log 61. A firmware access
that starts below 2^56 and runs past it lies past 2^56 in no range of R317, and what is there is the device register space's place in the
byte list, beyond its registers: DESIGN CHOICE, log 74. -/
def State.translate (s : State) (w : Who) (k : Kind) (va : Dword) (addrs : List Nat) :
    Except Stop (State × List PageAt) := do
  let at_ : Dword := .ofNat 64 (addrs.headD va.toNat)
  if w.mode = 3 then
    if va.toNat / 2 ^ 56 ≠ 0 then throw (accessFault at_ 1)
  else
    if va.getLsbD 63 then throw (accessFault at_ 2)
    if va.toNat / 2 ^ 56 ≠ 0 ∨ addrs.any fun a => a / 2 ^ 56 != 0 then throw (accessFault at_ 1)
  s.mapPages w k (byPage addrs)

/-- The bytes of an access, all its pages translated (R94). -/
def State.mapBytes (s : State) (w : Who) (k : Kind) (va : Dword) (addrs : List Nat) :
    Except Stop (State × List ByteAt) := do
  let (s, pages) ← s.translate w k va addrs
  return (s, ← s.bytesOfPages (w.mode == 3) pages)

/-- n addresses from va upward. -/
def upFrom (va : Nat) : Nat → List Nat
  | 0 => []
  | n + 1 => va :: upFrom (va + 1) n

/-- Translate for size bytes from va (R94). -/
def State.mapRange (s : State) (w : Who) (k : Kind) (va : Dword) (size : Nat) : Except Stop (State × List ByteAt) :=
  s.mapBytes w k va (upFrom va.toNat size)

/-- A server core (R40, R378). -/
def State.isServer (s : State) (core : CoreId) : Bool :=
  (s.boot.srvmask.toList.getD (core.toNat / 64) 0).getLsbD (core.toNat % 64)

/-- Bit k of TNSKEIN t. -/
def Ras.marks (r : Ras) (t : Nat) (k : Nat) : Bool := (r.tnskein.toList.getD (2 * t + k / 64) 0).getLsbD (k % 64)

/-- The tenant of a skein: the lowest-numbered that marks it (R363). -/
def Ras.tenantOf (r : Ras) (k : SkeinId) : Option Nat := (List.range 16).find? fun t => r.marks t k.toNat

/-- A line lies in the device kernel's memory (R363). -/
def Ras.inDk (r : Ras) (a : Nat) : Bool :=
  (List.range 8).any fun i =>
    let b := r.dkrange.toList.getD (2 * i) 0
    let n := (r.dkrange.toList.getD (2 * i + 1) 0).toNat
    let lo := b.toNat / 2 * 2
    b.getLsbD 0 && lo ≤ a + 127 && a < lo + n

/-- The tenants that an uncorrectable error met by a context terminates: that of its skein; every tenant on a server core, and where the
error lies in the device kernel's memory (R365). -/
def State.doomed (s : State) (c : CtxId) (dk : Bool) : BitVec 16 :=
  if dk ∨ s.isServer (coreOf c) then BitVec.allOnes 16
  else match s.ras.tenantOf (skeinOf c) with
    | some t => .ofNat 16 (2 ^ t)
    | none => 0

/-- They are terminated before anything else happens, the record being written (R365). A failed HBM pair and a double trap are no
uncorrectable errors. DEDUCED, log 42. -/
def State.doom (s : State) (c : CtxId) (detail loc : Nat) : State :=
  let t := s.doomed c (s.ras.inDk (s.lineAddress loc).toNat)
  if detail = 2 ∧ t ≠ 0 then s.postHead (.tnkill (t.setWidth 64)) else s

/-- The record of a machine check at a location (R360, R362), with its index. -/
def State.checkRecord (s : State) (c : CtxId) (unit loc : Nat) : State × Nat :=
  s.record 2 unit (errPlace c) (s.lineAddress loc) 0 0 0 0

/-- A trap with what R65 says of a machine check: its own record, whose index cw.tval reports (R360, R362). -/
def State.machineCheck (s : State) (c : CtxId) (detail unit loc : Nat) (slot : Bool) : State :=
  let (s, i) := s.checkRecord c unit loc
  (s.enterTrap c (excD 0x30 detail (.ofNat 64 i)) slot).doom c detail loc

/-- A machine check in a context for something its bundle did not do (R359, R362). -/
def State.checkIn (s : State) (c : CtxId) (detail unit loc : Nat) : State :=
  let (s, i) := s.checkRecord c unit loc
  (s.giveCheck c detail i).doom c detail loc

/-- What a memory instruction does when its access cannot be made: trap at slot 0, or wait in step 1. -/
def State.stop (s : State) (e : Stop) : Out :=
  match e with
  | .trap x => .next (s.trapC x)
  | .dirtyRefused x a p => .next ((s.putPte a p).trapC x)
  | .machine d u a => .next (s.machineCheck s.cur d u a false).yieldTurn
  | .wait => .next s.stall
  | .fault f => .fault f

end Sys2Proof.Machine
end

