-- ==== Sys2Proof/Machine/DevRead.lean ====
section
/-! DEFINITION. Reads of the device register space (R318, R319): every register's value at its offset. Reading changes
nothing. -/

namespace Sys2Proof.Machine

/-! ## Versions (R346) -/

/-- The agreed version of an interface: 0 VMBX, 1 VSHT, 2 + p VLNK p. The part supports version 1 alone. -/
def State.agreed (s : State) (n : Nat) : Nat :=
  let (lo, hi) := tableGet s.dev.ver n (0, 0)
  let v := min 1 hi.toNat
  if 1 ≤ v ∧ lo.toNat ≤ v then v else 0

/-! ## The registers of a mailbox (R331) -/

def State.h2d (s : State) (m : BitVec 6) : H2d := tableGet s.dev.h2d m.toNat H2d.reset
def State.setH2d (s : State) (m : BitVec 6) (v : H2d) : State := s.modDev fun d => { d with h2d := tableSet d.h2d m.toNat v }
def State.d2h (s : State) (m : BitVec 6) : D2h := tableGet s.dev.d2h m.toNat D2h.reset
def State.setD2h (s : State) (m : BitVec 6) (v : D2h) : State := s.modDev fun d => { d with d2h := tableSet d.d2h m.toNat v }

def H2d.isOpen (b : H2d) : Bool := b.cfg.getLsbD 0
def D2h.isOpen (b : D2h) : Bool := b.cfg.getLsbD 0

/-- Free slots of a device-to-host mailbox (R334). -/
def D2h.free (b : D2h) : Nat := 256 - (b.posted - b.head.setWidth 32).toNat
/-- Free slots of a host-to-device mailbox (R332). -/
def H2d.free (b : H2d) : Nat := 256 - (b.db - b.consumed).toNat
/-- The state of a port of this package. -/
def Niu.port (u : Niu) (p : Nat) : Port := tableGet u.ports p Port.reset

/-- A shootdown slot (R326). -/
def State.sdq (s : State) (n : BitVec 5) : Sdq := tableGet s.dev.sdq n.toNat Sdq.reset

/-- HARV (R377). -/
def Fuses.harv (f : Fuses) : Dword :=
  .ofNat 64 (((List.range 8).map fun d => (f.dis.toList.getD d 0).toNat * 2 ^ (5 * d)).sum)

/-! ## Packing -/

/-- A field of a register: n at bit i. -/
def put (i n : Nat) : Nat := n * 2 ^ i
/-- A one-bit field. -/
def putBit (i : Nat) (b : Bool) : Nat := if b then 2 ^ i else 0
/-- A register from its fields. -/
def reg (l : List Nat) : Dword := .ofNat 64 l.sum

/-- Element n of a vector of doublewords, zero beyond its end. -/
def dwordAt {n : Nat} (v : Vector Dword n) (i : Nat) : Dword := v.toList.getD i 0

/-! ## The registers of each chapter -/

/-- A version word (R346): stepping A2 supports version 1 alone. -/
def State.versionWord (s : State) (n : Nat) : Dword :=
  let v := tableGet s.dev.ver n (0, 0)
  reg [1, put 8 1, put 16 v.1.toNat, put 24 v.2.toNat, put 32 (s.agreed n)]

/-- A host-to-device mailbox's registers (R331). -/
def H2d.read (b : H2d) (off : Nat) : Dword :=
  match off with
  | 0 => b.base
  | 8 => b.ack
  | 16 => b.cfg
  | 32 => reg [b.next.toNat, put 32 b.free, putBit 41 b.ovr, putBit 42 b.svc, put 48 b.lost.toNat]
  | _ => 0

/-- A device-to-host mailbox's registers (R331). -/
def D2h.read (b : D2h) (off : Nat) : Dword :=
  match off with
  | 0 => b.base
  | 16 => b.cfg
  | 24 => b.head
  | 32 => reg [b.posted.toNat, put 32 b.free, put 48 b.lost.toNat]
  | _ => 0

/-- PORTST (R349). -/
def PortState.code : PortState → Nat
  | .absent => 0
  | .training => 1
  | .up => 2
  | .retraining => 3
  | .failed => 4
/-- PORTST (R349). -/
def Port.read (p : Port) : Dword := reg [p.state.code, put 16 (p.crc.toNat % 65536), put 32 p.peer.toNat]

/-- TIMESTAT (R354). -/
def Niu.timestat (u : Niu) : Dword :=
  reg [putBit 0 u.locked, putBit 1 u.timeLost, put 32 (BitVec.ofInt 32 u.offset).toNat]

/-- FWSTAT (R370). -/
def Boot.fwstat (b : Boot) : Dword :=
  reg [b.src.toNat, put 2 b.stage.toNat, put 4 b.err.toNat, put 12 b.svn.toNat, put 20 b.fuses.rollback,
    put 26 b.fuses.revoked.toNat]

/-- The doubleword at an offset of a byte string. -/
def dwordOf (d : List Byte) (off : Nat) : Dword := .ofNat 64 (ofBytes ((d.drop off).take 8))

/-- The deepest shedding step in use (R383, R387). -/
def Power.step (p : Power) : Nat :=
  if p.hbmCap ≠ 0 then 5 else if p.clock < 2400 then 4 else if p.twoPipes then 3 else if p.gaugeLimit < 16 then 2
  else if p.cpflPaused then 1 else 0

/-- SHTSTAT (R387). -/
def Power.shtstat (p : Power) : Dword :=
  reg [p.pin.toNat, put 4 p.inb.toNat, put 8 p.i3c.toNat, put 12 p.level.toNat, putBit 16 p.met, put 17 p.step,
    putBit 20 p.pinfault, put 32 p.chg.toNat]

/-- PWRTEL (R387): the average of the last millisecond's measurements. -/
def Power.pwrtel (p : Power) : Dword :=
  reg [min (p.samples.sum / 1000) 65535, put 16 (powerLimit p.level / 4), put 32 p.clock]

/-- State codes of TKENT (R311); an answer in hand leaves the entry as its notice or its sending left it: the registers
change only as the entry does. -/
def TkEntry.code (e : TkEntry) : Nat :=
  match e.state with
  | .sent => 0
  | .ticket => 1
  | .blocked => 2
  | .noticeOk => 3
  | .noticeFail => 4
  | .done => match e.noted with
    | none => 0
    | some true => 3
    | some false => 4
def TkKind.code : TkKind → Nat
  | .read => 0
  | .posted => 1
  | .detached => 2
  | .cancel => 3

/-- TKENT (R311). The context field of a detached store and of a cancel obligation, for which the table gives no value, keeps the number of
the context the access was made in: DESIGN CHOICE, log 91. -/
def TkEntry.read (e : TkEntry) : Dword :=
  reg [1, put 1 e.kind.code, put 3 e.ctx.toNat, put 6 e.code, put 9 (e.fwd.getD 0),
    if e.code = 0 then 0 else put 16 e.ticket.toNat]

/-- A core's block (R319). -/
def CoreSt.read (k : CoreSt) (off : Nat) : Dword :=
  if off < 96 then .ofNat 64 (tableGet k.ctr (off / 8) 0)
  else if off = 0x100 then k.nfwd
  else if off = 0x180 then k.gsret
  else if off = 0x188 then k.gssent
  else if off = 0x190 then k.gsrecv
  else if 0x200 ≤ off ∧ off < 0x400 then
    match k.tk.find? fun e => e.1 == (off - 0x200) / 16 with
    | some (_, e) => if off % 16 = 0 then e.read else e.addr
    | none => 0
  else 0

/-- CQSTAT (R292). -/
def State.cqstat (s : State) (k : SkeinId) (n : Nat) : Dword :=
  let q := (s.core (coreInSkein k (.ofNat 3 (n / 4)))).cq.toList.getD (n % 4) []
  let (pin, cpfl) : Bool × Bool := match q with
    | .cmd c :: _ => (c.wait == .pin, c.level.isSome)
    | _ => (false, false)
  reg [q.length, putBit 5 ((s.skein k).cqfail.getLsbD n), putBit 6 pin, putBit 7 (cpfl && s.power.cpflPaused)]

/-- The block of a skein (R319). -/
def State.skeinRead (s : State) (k : SkeinId) (off : Nat) : Dword :=
  let x := s.skein k
  if off = 0 then x.sktw.setWidth 64
  else if 0x100 ≤ off ∧ off < 0x200 then s.cqstat k ((off - 0x100) / 8)
  else if off = 0x200 then x.pfpers
  else if 0x2000 ≤ off ∧ off < 0xA000 then
    (s.core (coreInSkein k (.ofNat 3 ((off - 0x2000) / 0x1000)))).read (off % 0x1000)
  else 0

/-- The registers below 0x1000: versions, windows, page service, time, shootdown, ports, the loss log and the error ring. -/
def State.lowRead (s : State) (off : Nat) : Dword :=
  let d := s.dev
  let u := s.niu
  if 0x400 ≤ off ∧ off < 0x480 then dwordAt d.ttwin ((off - 0x400) / 8)
  else if 0x800 ≤ off ∧ off < 0xA20 then dwordAt (s.sdq (.ofNat 5 ((off - 0x800) / 32))).w (off % 32 / 8)
  else if 0xC00 ≤ off ∧ off < 0xC40 then (u.port ((off - 0xC00) / 8)).read
  else if 0x40 ≤ off ∧ off < 0x80 then s.versionWord (2 + (off - 0x40) / 8)
  else match off with
    | 0x000 => s.versionWord 0
    | 0x008 => s.versionWord 1
    | 0x100 => d.partId.setWidth 64
    | 0x108 => .ofNat 64 d.hbmBase
    | 0x200 => d.astBase
    | 0x300 => d.gsctl
    | 0x308 => d.gstime
    | 0x500 => d.winBase
    | 0x508 => .ofNat 64 d.winCnt
    | 0x600 => d.svBase
    | 0x608 => d.svHead.setWidth 64
    | 0x610 => d.svTail.setWidth 64
    | 0x618 => d.svTgt
    | 0x700 => u.timectl
    | 0x708 => u.timestat
    | 0xE00 => u.llBase
    | 0xE08 => u.llHead.setWidth 64
    | 0xE10 => u.llTail.setWidth 64
    | 0xE18 => u.llTgt
    | 0xF00 => s.ras.head
    | 0xF08 => s.ras.tail
    | 0xF10 => s.ras.tgt
    | _ => 0

/-- The registers from 0x1000 to 0x1FFF: tenants, start, security, power. -/
def State.midRead (s : State) (off : Nat) : Dword :=
  let b := s.boot
  let p := s.power
  if off < 0x1100 then dwordAt s.ras.tnskein ((off - 0x1000) / 8)
  else if 0x1200 ≤ off ∧ off < 0x1280 then dwordAt s.ras.dkrange ((off - 0x1200) / 8)
  else if 0x1480 ≤ off ∧ off < 0x1500 then dwordAt b.srvmask ((off - 0x1480) / 8)
  else if 0x1840 ≤ off ∧ off < 0x18C0 then .ofNat 64 (p.tnEnergy.toList.getD ((off - 0x1840) / 8) 0 / 1000)
  else match off with
    | 0x1400 => b.ready
    | 0x1408 => b.fuses.lcstate.setWidth 64
    | 0x1410 => b.fwstat
    | 0x1418 => b.fuses.harv
    | 0x1478 => if b.srvlock then 1 else 0
    | 0x1800 => p.inb.setWidth 64
    | 0x1808 => p.shtstat
    | 0x1810 => p.pwrtel
    | 0x1818 => .ofNat 64 (p.energy / 1000)
    | 0x1820 => p.pfstat
    | _ => 0

/-- The error ring (R360): record i, doubleword j. -/
def Ras.read (r : Ras) (off : Nat) : Dword :=
  match r.ring.find? fun e => e.1 == off / 64 with
  | some (_, v) => dwordAt v (off % 64 / 8)
  | none => 0

/-- The doubleword at an offset of BAR0 (R319), as the part's own agents read it; an offset that names no register reads
zero, as do write-only registers and the interrupt files (R325). The staging window reads only in stage 2 (R371). -/
def State.devRead (s : State) (off : Nat) : Dword :=
  if off < 0x1000 then s.lowRead off
  else if off < 0x2000 then s.midRead off
  else if 0x3000 ≤ off ∧ off < 0x3200 then dwordOf s.boot.attrep (off - 0x3000)
  else if 0x4000 ≤ off ∧ off < 0x8000 then s.ras.read (off - 0x4000)
  else if 0x10000 ≤ off ∧ off < 0x11000 then (s.h2d (.ofNat 6 ((off - 0x10000) / 64))).read (off % 64)
  else if 0x11000 ≤ off ∧ off < 0x12000 then (s.d2h (.ofNat 6 ((off - 0x11000) / 64))).read (off % 64)
  else if 0x800000 ≤ off ∧ off < 0x1000000 then
    if s.boot.stage = 2 then .ofNat 64 (ofBytes (readCells s.boot.staging (off - 0x800000) 8)) else 0
  else if 0x1000000 ≤ off ∧ off < 0x1800000 then
    s.skeinRead (.ofNat 7 ((off - 0x1000000) / 0x10000)) (off % 0x10000)
  else 0

/-- The interrupt files of the proxy harts, which take 32-bit writes alone (R318, R325). -/
def inFiles (off : Nat) : Bool := 0x20000 ≤ off && off < 0x30000

end Sys2Proof.Machine
end

