-- ==== Sys2Proof/Machine/Access.lean ====
section
/-! DEFINITION. Reading and writing the bytes of a translated access: own retired stores are seen (R245), S lines are
filled into the L1 (R241), poison traps (R187), device registers are read and written as doublewords (R318). -/

namespace Sys2Proof.Machine

/-- Data poison (R187): cw.tval holds the line's virtual address. -/
def poisonAt (va : Nat) : Stop := .trap (exc 0x0C (.ofNat 64 (va / 128 * 128)))

/-- A byte whose line is poisoned for this core: an S line the L1 already holds is read there. -/
def State.poisonFor (s : State) (core : CoreId) (b : ByteAt) : Bool :=
  s.poisoned b.loc &&
    !(b.t == .S && (match (s.core core).findLine (b.loc / 128) with | some e => e.s | none => false))

/-- Whether any retired store of the context must be performed before these bytes can be read: an amax merge, or any store
to a line that is poisoned. -/
def State.mustDrain (s : State) (c : CtxId) (l : List ByteAt) : Bool :=
  l.any fun b => s.poisoned b.loc || (s.ctx c).stores.any fun r =>
    match r with
    | .amax _ a _ => a ≤ b.loc && b.loc < a + 4
    | _ => false

/-- The lines an access touches, each once in its order, with its treatment. -/
def linesOf : List ByteAt → List (Nat × Treat)
  | [] => []
  | b :: r =>
    match linesOf r with
    | (l, t) :: rest => if b.loc / 128 = l then (l, t) :: rest else (b.loc / 128, b.t) :: (l, t) :: rest
    | [] => [(b.loc / 128, b.t)]

/-- Bring the lines of a read into the core's caches (R264). -/
def State.touchLines (s : State) (core : CoreId) : List (Nat × Treat) → State
  | [] => s
  | (l, .S) :: r => (s.fillS core l false).touchLines core r
  | (l, .D) :: r => (s.holdD core l .shared false).touchLines core r
  | (_, .U) :: r => s.touchLines core r

/-- The line of an access that misses in the core's L1 is asked for: a pinned line is written first (R276). -/
def State.askLines (s : State) (core : CoreId) (l : List (Nat × Treat)) : State :=
  l.foldl (fun s e => if ((s.core core).findLine e.1).isSome then s else s.settlePin e.1) s

/-- The bytes of memory of an access, those of device registers left out. -/
def inMemory (l : List ByteAt) : List ByteAt := l.filter fun b => !b.isDev

/-- An aligned doubleword access to a device register (R318): its offset. DEDUCED, log 35. -/
def devReg (l : List ByteAt) : Option Nat :=
  match l with
  | b :: _ => if b.isDev ∧ l.length = 8 ∧ b.loc % 8 = 0 ∧ ¬inFiles (b.loc - 2 ^ 57) then some (b.loc - 2 ^ 57) else none
  | [] => none

/-- The byte a thread reads. DEDUCED, log 35. -/
def State.byteSeen (s : State) (c : CtxId) (b : ByteAt) : Byte :=
  if b.isDev then 0
  else match forwarded (s.ctx c).stores b.loc with
    | some v => v
    | none => s.byteFor (coreOf c) b.t b.loc

/-- A read is about to be made: older stores it must follow are performed, its lines are asked for, and poison traps (R187). -/
def State.askRead (s : State) (c : CtxId) (l : List ByteAt) : Except Stop State :=
  let s := if s.mustDrain c l then s.drainFor c (l.map (·.loc)) else s
  let s := s.askLines (coreOf c) (linesOf (inMemory l))
  match l.find? (s.poisonFor (coreOf c)) with
  | some b => .error (poisonAt b.va)
  | none => .ok s

/-- The bytes a read gives, no line coming into the L1. -/
def State.peekMem (s : State) (c : CtxId) (l : List ByteAt) : Except Stop (State × List Byte) := do
  let s ← s.askRead c l
  return (s, l.map (s.byteSeen c))

/-- Read bytes of memory; a device register reads zero here (R187, R318). -/
def State.readMem (s : State) (c : CtxId) (l : List ByteAt) : Except Stop (State × List Byte) := do
  let s ← s.askRead c l
  let s := s.touchLines (coreOf c) (linesOf (inMemory l))
  return (s, l.map (s.byteSeen c))

/-- Read the bytes of a translated access, plain (R95, R187). -/
def State.readBytes (s : State) (c : CtxId) (l : List ByteAt) : Except Stop (State × List Byte) :=
  match devReg l with
  | some off => .ok (s, bytesOf 8 (s.devRead off))
  | none => s.readMem c l

/-- The cells of a store: bytes beside their locations. -/
def pair : List ByteAt → List Byte → List (ByteAt × Byte)
  | b :: r, v :: t => (b, v) :: pair r t
  | _, _ => []

/-- Cut a store into lines. -/
def byLineAt : List (ByteAt × Byte) → List (List (ByteAt × Byte))
  | [] => []
  | e :: r =>
    match byLineAt r with
    | (f :: g) :: rest =>
      if e.1.loc / 128 = f.1.loc / 128 then (e :: f :: g) :: rest else [e] :: (f :: g) :: rest
    | rest => [e] :: rest

/-- One line's part of a store: its treatment, its cells, and whether it writes the whole line (R187). -/
structure LineStore where
  va : Nat
  t : Treat
  cells : List (Nat × Byte)
  whole : Bool
  deriving DecidableEq, Repr

/-- The line stores of an access; wholeOk says that the instruction's whole-line writes clear poison (R187). -/
def lineStores (wholeOk : Bool) (l : List ByteAt) (d : List Byte) : List LineStore :=
  (byLineAt (pair l d)).filterMap fun g =>
    match g with
    | [] => none
    | (b, v) :: r =>
      if b.isDev then none
      else some { va := b.va, t := b.t, cells := ((b, v) :: r).map fun e => (e.1.loc, e.2)
                  whole := wholeOk && r.length == 127 }

/-- The thread's own retired stores to the poisoned lines that a store writes in part are performed first: one may be a
whole-line write (R187). -/
def State.clearedBy (s : State) (c : CtxId) (g : List LineStore) : State :=
  g.foldl (fun s e => match e.cells with
    | (loc, _) :: _ => if ¬e.whole ∧ s.poisoned loc then s.drainFor c ((List.range 128).map (loc / 128 * 128 + ·)) else s
    | [] => s) s

/-- The line of each store that misses in the core's L1 is asked for: a pinned line is written first (R276). -/
def State.askStores (s : State) (core : CoreId) (g : List LineStore) : State :=
  g.foldl (fun s e => s.askLines core ((e.cells.head?.map fun x => (x.1 / 128, e.t)).toList)) s

/-- A partial write to a poisoned line traps (R187). -/
def State.checkLines (s : State) (c : CtxId) (g : List LineStore) : Except Stop State :=
  let s := (s.clearedBy c g).askStores (coreOf c) g
  match g.find? fun e => !e.whole && e.cells.head?.any fun x => s.poisonFor (coreOf c) { va := e.va, loc := x.1, t := e.t } with
  | some e => .error (poisonAt e.va)
  | none => .ok s

/-- Perform the retired stores up to the last that p picks. -/
def State.drainPast (s : State) (c : CtxId) (p : Retired → Bool) : State :=
  let l := (s.ctx c).stores
  let n := l.length - (l.reverse.takeWhile fun r => !p r).length
  let s := (l.take n).foldl (fun s r => s.performRetired (coreOf c) r) s
  s.modCtx c fun x => { x with stores := l.drop n }

/-- A write performed now comes after what a release fence ordered before it (R251). -/
def State.drainBarriers (s : State) (c : CtxId) : State :=
  s.drainPast c fun r => match r with | .barrier _ => true | _ => false

/-- A fabric access comes after what a release fence ordered before it, and agrees with a local store of its thread where a
release or an acquire at PARTITION scope or wider stands between them (R245, R251). -/
def State.drainFabric (s : State) (c : CtxId) : State :=
  s.drainPast c fun r => match r with
    | .barrier _ => true
    | .release scope _ _ _ => 7 ≤ scope.toNat
    | .seen => true
    | .bytes _ _ _ => false
    | .amax _ _ _ => false

/-- Retire the line stores: U lines are performed at once, in program order (R242); the others wait in the thread's
queue (R185). -/
def State.retireLines (s : State) (c : CtxId) : List LineStore → State
  | [] => s
  | g :: r =>
    let s := if g.t = .U then ((s.drainBarriers c).drainFor c (g.cells.map Prod.fst)).performBytes (coreOf c) .U g.cells g.whole
      else s.modCtx c fun x => { x with stores := x.stores ++ [Retired.bytes g.t g.cells g.whole] }
    s.retireLines c r

/-- A write to the device register space that has been performed and has still to take effect. -/
def Input.isWrite : Input → Bool
  | .own (.registerWrite _ _ _) => true
  | _ => false

/-- Writes to the device register space happen before anything else on the agenda, in the order performed (R318). -/
def State.postFirst (s : State) (e : Event) : State :=
  { s with agenda := s.agenda.takeWhile Input.isWrite ++ .own e :: s.agenda.dropWhile Input.isWrite }

/-- Who a device-register access comes from on the part (R318). -/
def accessor (mode : BitVec 2) : Accessor := if mode = 3 then .firmware else .supervisor

/-- The device-register write a store makes, if it is one: an aligned doubleword, or 32 bits of a proxy hart's interrupt
file (R318, R325). -/
def devWriteOf (mode : BitVec 2) (l : List ByteAt) (d : List Byte) : Option Event :=
  match devReg l with
  | some off => some (.registerWrite (accessor mode) (.ofNat 28 off) (.ofNat 64 (ofBytes d)))
  | none =>
    match l with
    | b :: _ =>
      let off := b.loc - 2 ^ 57
      if b.isDev ∧ l.length = 4 ∧ inFiles off ∧ off % 4 = 0 then
        some (.registerWrite (accessor mode) (.ofNat 28 off) (.ofNat 64 (ofBytes d)))
      else none
    | [] => none

/-- Write bytes of memory; a device register ignores them here (R187, R318). -/
def State.writeMemBytes (s : State) (c : CtxId) (wholeOk : Bool) (l : List ByteAt) (d : List Byte) : Except Stop State := do
  let g := lineStores wholeOk l d
  let s ← s.checkLines c g
  return s.retireLines c g

/-- Write the bytes of a translated access, plain (R95, R185, R187). -/
def State.writeBytes (s : State) (c : CtxId) (wholeOk : Bool) (l : List ByteAt) (d : List Byte) : Except Stop State := do
  match devWriteOf (s.ctx c).mode l d with
  | some i => return (s.drainBarriers c).postFirst i
  | none => s.writeMemBytes c wholeOk l d

/-- Mem[va] of size bytes, as an instruction of the context reads it (R95). -/
def State.load (s : State) (c : CtxId) (va : Dword) (size : Nat) : Except Stop (State × Nat) := do
  let (s, l) ← s.mapRange (s.who c) .load va size
  let (s, d) ← s.readBytes c l
  return (s, ofBytes d)

/-- Mem[va] = v of size bytes (R95). -/
def State.store (s : State) (c : CtxId) (va : Dword) (size : Nat) (v : Nat) : Except Stop State := do
  let (s, l) ← s.mapRange (s.who c) .store va size
  s.writeBytes c false l (toBytes size v)

end Sys2Proof.Machine
end

