-- ==== Sys2Proof/Machine/Forward.lean ====
section
/-! DEFINITION. Forwarding records (R30, R306, R307): the events of a departed thread's image. -/

namespace Sys2Proof.Machine

/-- A record is freed once its notice has come, its stores are settled and its marker wait has ended (R306). -/
def FwdRecord.over (r : FwdRecord) : Bool := !r.notice && r.stores == 0 && r.marker.isNone

/-- Replace a forwarding record, and free it where it is over. -/
def CoreSt.setRecord (k : CoreSt) (n : Nat) (r : FwdRecord) : CoreSt :=
  { k with fwd := (tableSet k.fwd n r).filter fun e => !e.2.over }

/-- A plain store of the core to an image's first line (R307); a poisoned line takes no partial write (R187). -/
def State.writeImage (s : State) (core : CoreId) (r : FwdRecord) (off : Nat) (d : List Byte) : State :=
  if s.poisoned r.img then s else s.performBytes core r.t (cellsAt (r.img + off) d) false

/-- Set bits of the pending-notice word by an atomic OR with release at PACKAGE scope (R307). -/
def State.setNotice (s : State) (core : CoreId) (r : FwdRecord) (bits : Nat) : State :=
  let s := s.releaseS core 4
  if s.poisoned r.img then s else (s.rmwAt core r.t (r.img + 16) 8 fun old => old ||| bits).1

/-- The core's inter-core interrupt for a forwarded event, its number the source (R62, R307). -/
def State.nfwdInterrupt (s : State) (core : CoreId) : State :=
  let t := (s.core core).nfwd
  if targetOn t then s.raise (targetCtx t) 2 (core.setWidth 64) else s

/-- An event of a record: its fields, then its bits, then the interrupt (R307). -/
def State.forwardEvent (s : State) (core : CoreId) (r : FwdRecord) (bits : Nat) (fail : Option (Dword × BitVec 16)) : State :=
  let s := match fail with
    | some (a, t) => (s.writeImage core r 0x20 (bytesOf 8 a)).writeImage core r 0x28 (bytesOf 8 t)
    | none => s
  (s.setNotice core r bits).nfwdInterrupt core

/-- The ticket notice of a record arrives (R307). -/
def State.forwardNotice (s : State) (core : CoreId) (n : Nat) (ok : Bool) : State :=
  match (s.core core).fwd.find? fun e => e.1 == n with
  | some (_, r) =>
    if r.notice then
      (s.forwardEvent core r (if ok then 1 else 3) none).modCore core fun k => k.setRecord n { r with notice := false }
    else s
  | none => s

/-- A detached posted store of a record is settled: acknowledged, or failed with its address and ticket (R307). -/
def State.forwardStore (s : State) (core : CoreId) (n : Nat) (fail : Option (Dword × BitVec 16)) : State :=
  match (s.core core).fwd.find? fun e => e.1 == n with
  | some (_, r) =>
    let s := match fail with
      | some f => s.forwardEvent core r 8 (if r.failed then none else some f)
      | none => s
    let s := if r.stores = 1 then s.forwardEvent core r 4 none else s
    s.modCore core fun k => k.setRecord n { r with stores := r.stores - 1, failed := r.failed || fail.isSome }
  | none => s

/-- The marker wait of one record is looked at anew: its phase has completed, or the marker has been initialised again.
DEDUCED, log 27. -/
def State.forwardMarker (s : State) (core : CoreId) (k : SkeinId) (m : BitVec 5) (mk : Marker) (e : Nat × FwdRecord) :
    State :=
  match e.2.marker with
  | some (k', m', u) =>
    if k' = k ∧ m' = m then
      if u.ult mk.b then s.modCore core fun c => c.setRecord e.1 { e.2 with marker := none }
      else if u.ult mk.p then
        (s.forwardEvent core e.2 16 none).modCore core fun c => c.setRecord e.1 { e.2 with marker := none }
      else s
    else s
  | none => s

/-- Every record of the skein's cores after a marker has changed (R30, R306). -/
def State.forwardMarkers (s : State) (k : SkeinId) (m : BitVec 5) (mk : Marker) : State :=
  (List.range 8).foldl (fun s c =>
    let core := coreInSkein k (.ofNat 3 c)
    (s.core core).fwd.foldl (fun s e => s.forwardMarker core k m mk e) s) s

end Sys2Proof.Machine
end

