-- ==== Sys2Proof/WellFormed.lean ====
section
/-! DEFINITION. Which field values make an instruction (R91), and where an instruction stands in a bundle (R73). -/

namespace Sys2Proof

/-- The place of an instruction in a bundle (R72, R73): an event of the part has none. -/
inductive Place where
  | cWord
  | aWord
  | long
  | event
  deriving DecidableEq, Repr

/-- Where an instruction stands in a bundle (R72, R73). -/
def Instr.place : Instr → Place
  | .anop => .aWord
  | .cnop => .cWord
  | .pause => .cWord
  | .prep _ _ _ => .cWord
  | .lprep _ _ _ => .long
  | .prepx _ _ _ => .cWord
  | .bclr _ _ => .cWord
  | .movxb _ _ => .cWord
  | .br _ _ _ => .cWord
  | .call _ _ _ => .cWord
  | .trap _ => .cWord
  | .brk _ => .cWord
  | .eret => .cWord
  | .uret => .cWord
  | .wait => .cWord
  | .halt => .cWord
  | .ifence => .cWord
  | .getcw _ _ => .cWord
  | .setcw _ _ => .cWord
  | .swapcw _ _ _ => .cWord
  | .tlbinvAll => .cWord
  | .tlbinvAsn _ => .cWord
  | .tlbinvPage _ _ => .cWord
  | .tlbinvVa _ => .cWord
  | .rdtime _ => .cWord
  | .waituntil _ _ => .cWord
  | .ctxsave _ => .cWord
  | .ctxload _ => .cWord
  | .li _ _ => .long
  | .add _ _ _ => .aWord
  | .sub _ _ _ => .aWord
  | .and _ _ _ => .aWord
  | .or _ _ _ => .aWord
  | .xor _ _ _ => .aWord
  | .andn _ _ _ => .aWord
  | .shl _ _ _ => .aWord
  | .shr _ _ _ => .aWord
  | .sar _ _ _ => .aWord
  | .rotl _ _ _ => .aWord
  | .min _ _ _ => .aWord
  | .max _ _ _ => .aWord
  | .minu _ _ _ => .aWord
  | .maxu _ _ _ => .aWord
  | .addi _ _ _ => .aWord
  | .andi _ _ _ => .aWord
  | .ori _ _ _ => .aWord
  | .xori _ _ _ => .aWord
  | .shli _ _ _ => .aWord
  | .shri _ _ _ => .aWord
  | .sari _ _ _ => .aWord
  | .rotli _ _ _ => .aWord
  | .movi _ _ _ => .aWord
  | .lih _ _ _ => .aWord
  | .mul _ _ _ => .aWord
  | .mulh _ _ _ => .aWord
  | .mulhu _ _ _ => .aWord
  | .div _ _ _ => .aWord
  | .divu _ _ _ => .aWord
  | .rem _ _ _ => .aWord
  | .remu _ _ _ => .aWord
  | .clz _ _ => .aWord
  | .ctz _ _ => .aWord
  | .popc _ _ => .aWord
  | .bswap _ _ => .aWord
  | .brev _ _ => .aWord
  | .bfx _ _ _ _ _ => .aWord
  | .bfxu _ _ _ _ _ => .aWord
  | .bfi _ _ _ _ _ => .aWord
  | .lea _ _ _ _ => .aWord
  | .addw _ _ _ => .aWord
  | .subw _ _ _ => .aWord
  | .mulw _ _ _ => .aWord
  | .shlw _ _ _ => .aWord
  | .shrw _ _ _ => .aWord
  | .sarw _ _ _ => .aWord
  | .sel _ _ _ _ _ => .aWord
  | .cmp _ _ _ _ => .aWord
  | .cmpi _ _ _ _ => .aWord
  | .pand _ _ _ => .aWord
  | .por _ _ _ => .aWord
  | .pxor _ _ _ => .aWord
  | .pandn _ _ _ => .aWord
  | .pmov _ _ => .aWord
  | .ptox _ _ => .aWord
  | .fadd _ _ _ _ _ => .aWord
  | .fsub _ _ _ _ _ => .aWord
  | .fmul _ _ _ _ _ => .aWord
  | .fdiv _ _ _ _ _ => .aWord
  | .fsqrt _ _ _ _ => .aWord
  | .fmin _ _ _ _ => .aWord
  | .fmax _ _ _ _ => .aWord
  | .fcmp _ _ _ _ _ => .aWord
  | .fcvt _ _ _ _ _ _ => .aWord
  | .fclass _ _ _ => .aWord
  | .ffma _ _ _ _ _ => .aWord
  | .vaddI _ _ _ _ _ => .aWord
  | .vsubI _ _ _ _ _ => .aWord
  | .vmulI _ _ _ _ _ => .aWord
  | .vminI _ _ _ _ _ => .aWord
  | .vmaxI _ _ _ _ _ => .aWord
  | .vminu _ _ _ _ _ => .aWord
  | .vmaxu _ _ _ _ _ => .aWord
  | .vaddss _ _ _ _ _ => .aWord
  | .vaddsu _ _ _ _ _ => .aWord
  | .vsubss _ _ _ _ _ => .aWord
  | .vsubsu _ _ _ _ _ => .aWord
  | .vabsI _ _ _ _ => .aWord
  | .vnegI _ _ _ _ => .aWord
  | .vavgu _ _ _ _ _ => .aWord
  | .vand _ _ _ _ _ => .aWord
  | .vor _ _ _ _ _ => .aWord
  | .vxor _ _ _ _ _ => .aWord
  | .vandn _ _ _ _ _ => .aWord
  | .vnot _ _ _ _ => .aWord
  | .vshl _ _ _ _ _ => .aWord
  | .vshr _ _ _ _ _ => .aWord
  | .vsar _ _ _ _ _ => .aWord
  | .vshls _ _ _ _ _ => .aWord
  | .vshrs _ _ _ _ _ => .aWord
  | .vsars _ _ _ _ _ => .aWord
  | .vrotl _ _ _ _ _ => .aWord
  | .vaddF _ _ _ _ _ => .aWord
  | .vsubF _ _ _ _ _ => .aWord
  | .vmulF _ _ _ _ _ => .aWord
  | .vminF _ _ _ _ _ => .aWord
  | .vmaxF _ _ _ _ _ => .aWord
  | .vabsF _ _ _ _ => .aWord
  | .vnegF _ _ _ _ => .aWord
  | .vfma _ _ _ _ _ _ => .aWord
  | .vfms _ _ _ _ _ _ => .aWord
  | .vfnma _ _ _ _ _ _ => .aWord
  | .vcmp _ _ _ _ _ _ => .aWord
  | .vsel _ _ _ _ _ => .aWord
  | .vbcast _ _ _ _ => .aWord
  | .vextr _ _ _ _ => .aWord
  | .vins _ _ _ _ => .aWord
  | .vperm _ _ _ _ _ => .aWord
  | .vslide _ _ _ _ _ => .aWord
  | .vzip _ _ _ _ _ => .aWord
  | .vunzip _ _ _ _ _ => .aWord
  | .vredadd _ _ _ _ _ _ => .aWord
  | .vredmax _ _ _ _ _ => .aWord
  | .vredmin _ _ _ _ _ => .aWord
  | .vscanadd _ _ _ _ => .aWord
  | .vcvt _ _ _ _ _ _ _ => .aWord
  | .vpack _ _ _ _ _ _ => .aWord
  | .vunpk _ _ _ _ _ _ => .aWord
  | .vmxpack _ _ _ _ => .aWord
  | .vmxunpk _ _ _ _ _ => .aWord
  | .vdiv _ _ _ _ _ => .aWord
  | .vsqrt _ _ _ _ => .aWord
  | .vrcp _ _ _ _ => .aWord
  | .vrsq _ _ _ _ => .aWord
  | .vexp2 _ _ _ _ => .aWord
  | .vlog2 _ _ _ _ => .aWord
  | .vsin _ _ _ _ => .aWord
  | .vcos _ _ _ _ => .aWord
  | .vtanh _ _ _ _ => .aWord
  | .vdot4 _ _ _ _ => .aWord
  | .vdot4U _ _ _ _ => .aWord
  | .vdot4Su _ _ _ _ => .aWord
  | .vclmul _ _ _ _ _ => .aWord
  | .vclmulH _ _ _ _ _ => .aWord
  | .vmulh _ _ _ _ _ => .aWord
  | .vmulhU _ _ _ _ _ => .aWord
  | .kand _ _ _ => .aWord
  | .kor _ _ _ => .aWord
  | .kxor _ _ _ => .aWord
  | .knot _ _ => .aWord
  | .kpopc _ _ _ => .aWord
  | .kfirst _ _ _ => .aWord
  | .kmov _ _ => .aWord
  | .kmovX _ _ _ => .aWord
  | .kmovLo _ _ => .aWord
  | .kmovHi _ _ => .aWord
  | .ldb _ _ _ => .cWord
  | .ldbu _ _ _ => .cWord
  | .ldh _ _ _ => .cWord
  | .ldhu _ _ _ => .cWord
  | .ldw _ _ _ => .cWord
  | .ldwu _ _ _ => .cWord
  | .ldd _ _ _ => .cWord
  | .stb _ _ _ => .cWord
  | .sth _ _ _ => .cWord
  | .stw _ _ _ => .cWord
  | .std _ _ _ => .cWord
  | .ldv _ _ _ _ => .cWord
  | .stv _ _ _ _ => .cWord
  | .ldvs _ _ _ _ _ => .cWord
  | .stvs _ _ _ _ _ => .cWord
  | .ldvg _ _ _ _ _ _ => .cWord
  | .stvx _ _ _ _ _ _ => .cWord
  | .ldnc _ _ _ _ => .cWord
  | .ldaq _ _ _ _ _ => .cWord
  | .strl _ _ _ _ _ => .cWord
  | .amo _ _ _ _ _ _ _ => .cWord
  | .cas _ _ _ _ _ _ => .cWord
  | .fence _ _ => .cWord
  | .afence _ => .cWord
  | .cflush _ => .cWord
  | .cclean _ => .cWord
  | .cinv _ => .cWord
  | .czero _ => .cWord
  | .pref _ _ => .cWord
  | .tokwait _ _ _ _ => .cWord
  | .msend _ _ _ => .cWord
  | .spawn _ _ => .cWord
  | .exit => .cWord
  | .wcfg _ _ _ => .cWord
  | .wget _ _ _ => .cWord
  | .mkinit _ _ _ => .cWord
  | .mkarr _ _ => .cWord
  | .mkwait _ _ _ => .cWord
  | .tkwait _ => .cWord
  | .tkpoll _ _ => .cWord
  | .copy _ _ _ _ _ _ _ => .long
  | .cpfl _ _ _ _ _ _ _ => .long
  | .tcfg _ _ _ _ => .long
  | .tzero _ => .long
  | .trel => .long
  | .tld _ _ _ => .long
  | .tst _ _ _ _ => .long
  | .tstAmax _ _ _ _ _ _ => .long
  | .tmma _ _ _ _ _ _ _ _ _ _ _ => .long
  | .tmmag _ _ _ _ _ _ _ _ _ _ => .long
  | .tmmap _ _ _ _ _ _ _ _ => .long
  | .tadd _ _ _ => .long
  | .tsclRow _ _ _ => .long
  | .tsclCol _ _ _ => .long
  | .tcvt _ _ _ _ => .long
  | .ttr _ _ _ => .long
  | .trowv _ _ _ => .long
  | .tvrow _ _ _ => .long
  | .tamax _ _ => .long
  | .tsave _ => .long
  | .trstr _ _ => .long
  | .takeInterrupt => .event
  | .timecmpReached => .event
  | .deferredFailDue => .event
  | .deferredRemoteStoreTrap => .event
  | .fenceDeliveryFailure => .event
  | .launchRoute => .event
  | .routerFill => .event
  | .launchClaim => .event
  | .threadStart => .event
  | .launchEntryAging => .event
  | .exitDrainComplete => .event
  | .completionMessageTimeout => .event
  | .parkedWake => .event
  | .waituntilExpiry => .event
  | .issueArbitrate => .event
  | .urgentMark => .event
  | .fusedFetch => .event
  | .mispredictSquash => .event
  | .storePerform => .event
  | .amaxMerge => .event
  | .fabricResponse => .event
  | .ticketNotice => .event
  | .tileGrant => .event
  | .tileStepComplete => .event
  | .tmmapPair => .event
  | .tmmapPairTimeout => .event
  | .gaugeWindow => .event
  | .copyUnit => .event
  | .cpflFill => .event
  | .sDirtyWriteback => .event
  | .cacheEviction => .event
  | .coherenceRequest => .event
  | .hostMemRequest => .event
  | .icsend => .event
  | .icsendDeliver => .event
  | .gangStopTrigger => .event
  | .gangRelease => .event
  | .shootdownRequest => .event
  | .shootdownComplete => .event
  | .hdmCommit => .event
  | .mailboxDoorbell => .event
  | .launchEntry => .event
  | .serviceEntry => .event
  | .wakeEntry => .event
  | .mbsvc => .event
  | .mailboxReset => .event
  | .mailboxOpen => .event
  | .versionWrite => .event
  | .fabricRequest => .event
  | .fabricReplay => .event
  | .fabricSkip => .event
  | .fabricCancel => .event
  | .tkdone => .event
  | .niuHeldAdmit => .event
  | .niuBusy => .event
  | .busyReceive => .event
  | .busyBackoffExpiry => .event
  | .portRetrainEnter => .event
  | .portUp => .event
  | .portFailed => .event
  | .portRetrain => .event
  | .portFailureNotice => .event
  | .syncSend => .event
  | .syncMessage => .event
  | .pdelayMeasure => .event
  | .timeLock => .event
  | .timeLockLoss => .event
  | .ptset => .event
  | .correctedError => .event
  | .uncorrectableError => .event
  | .patrolScrub => .event
  | .tnkill => .event
  | .resetRelease => .event
  | .imageVerify => .event
  | .safelight => .event
  | .dieReady => .event
  | .hbmPairReady => .event
  | .recover => .event
  | .commit => .event
  | .attest => .event
  | .lcadv => .event
  | .revoke => .event
  | .darkroomUnknownCommand => .event
  | .srvlock => .event
  | .shutterFrame => .event
  | .shutterPinFault => .event
  | .shtin => .event
  | .shutterI3cWrite => .event
  | .powerManagerTick => .event
  | .voltageSettled => .event
  | .pfail => .event
  | .pfailStopTimeout => .event
  | .pfstatClear => .event
  | .registerWrite => .event
  | .illegalInstruction => .event
  | .hostLinkTrained => .event
  | .hostLinkDown => .event
  | .agentDied => .event
  | .flitCrcFailure => .event

/-- The static rounding field: codes 5 and 6 are illegal (R165). -/
def wfRound (r : BitVec 3) : Bool := r ≠ 5 ∧ r ≠ 6

/-- The floating-point condition codes (R168). -/
def wfFCond (c : BitVec 4) : Bool := c ≤ 5 ∨ c = 12 ∨ c = 13

/-- FCVT's field rules (R169): b[3:0] the target code, b[4] .u, s the source class, t the source format. -/
def wfFcvt (b : BitVec 5) (s : BitVec 2) (r : BitVec 3) (t : BitVec 2) : Bool :=
  let target := b.toNat % 16
  let unsignedSide := b.toNat / 16 = 1
  wfRound r ∧ s ≠ 3 ∧ (s = 0 ∨ t = 0) ∧ 2 ≤ target ∧ target ≤ 7 ∧
    (if s = 0 then target ≤ 3 ∨ (target ≠ t.toNat + 4 ∧ ¬unsignedSide) else 4 ≤ target)

/-- VCVT's field rules (R179): t the source type, y the target type, x sat, u unsigned. -/
def wfVcvt (x : BitVec 1) (y t : BitVec 4) (u : BitVec 1) : Bool :=
  t < 11 ∧ y < 11 ∧ ¬(t < 4 ∧ y < 4) ∧ t ≠ y ∧ (u = 0 ∨ t < 4 ∨ y < 4) ∧ (x = 0 ∨ 4 ≤ y)

/-- VMXPACK and VMXUNPK: the element format and the wide type (R181). -/
def wfMx (f t : BitVec 4) : Bool := (t = 5 ∨ t = 6) ∧ 8 ≤ f ∧ f ≤ 10

/-- A multiply operand of TMMA: a tile register and no geometry, or memory (R227). -/
def wfTileSrc (m : BitVec 1) (r g : BitVec 5) : Bool := m = 1 ∨ (r < 8 ∧ g = 0)

/-- Scale registers are zero without .mx (R227). -/
def wfScale (mx : BitVec 1) (sa sb : BitVec 5) : Bool := mx = 1 ∨ (sa = 0 ∧ sb = 0)

/-- TMMAG's block, rows by columns of tiles (R229). -/
def blockShape (h : BitVec 3) : Nat × Nat :=
  match h.toNat with
  | 0 => (1, 2) | 1 => (2, 1) | 2 => (2, 2) | 3 => (1, 4) | 4 => (4, 1) | 5 => (2, 4) | _ => (4, 2)

/-- TMMAG: shape 7, and a block that passes m7, are illegal (R229). -/
def wfBlock (h d c : BitVec 3) : Bool :=
  h ≠ 7 ∧ d.toNat + (blockShape h).1 * (blockShape h).2 ≤ 8 ∧ c.toNat + (blockShape h).1 * (blockShape h).2 ≤ 8

/-- Parts of a row that TCVT may write: 256 bytes over 64 elements of the target (R232). -/
def tilePartCount (t : BitVec 4) : Nat := if t < 2 then 2 else if t = 4 then 8 else 4

/-- The field values that the entries of chapters 05 to 08 assign (R91, R92): every other value makes the word no
instruction. Zero fields and function codes are checked by the decoder. An event has no encoding; its operands are
unrestricted. -/
def Instr.wf : Instr → Bool
  | .anop => true
  | .cnop => true
  | .pause => true
  | .prep _ _ _ => true
  | .lprep _ _ _ => true
  | .prepx d _ _ => d < 8
  | .bclr d _ => d < 8
  | .movxb _ a => a < 8
  | .br _ _ _ => true
  | .call _ _ _ => true
  | .trap _ => true
  | .brk _ => true
  | .eret => true
  | .uret => true
  | .wait => true
  | .halt => true
  | .ifence => true
  | .getcw _ _ => true
  | .setcw _ _ => true
  | .swapcw _ _ _ => true
  | .tlbinvAll => true
  | .tlbinvAsn _ => true
  | .tlbinvPage _ _ => true
  | .tlbinvVa _ => true
  | .rdtime _ => true
  | .waituntil _ _ => true
  | .ctxsave _ => true
  | .ctxload _ => true
  | .li _ _ => true
  | .add _ _ _ => true
  | .sub _ _ _ => true
  | .and _ _ _ => true
  | .or _ _ _ => true
  | .xor _ _ _ => true
  | .andn _ _ _ => true
  | .shl _ _ _ => true
  | .shr _ _ _ => true
  | .sar _ _ _ => true
  | .rotl _ _ _ => true
  | .min _ _ _ => true
  | .max _ _ _ => true
  | .minu _ _ _ => true
  | .maxu _ _ _ => true
  | .addi _ _ _ => true
  | .andi _ _ _ => true
  | .ori _ _ _ => true
  | .xori _ _ _ => true
  | .shli _ _ _ => true
  | .shri _ _ _ => true
  | .sari _ _ _ => true
  | .rotli _ _ _ => true
  | .movi _ _ _ => true
  | .lih _ _ _ => true
  | .mul _ _ _ => true
  | .mulh _ _ _ => true
  | .mulhu _ _ _ => true
  | .div _ _ _ => true
  | .divu _ _ _ => true
  | .rem _ _ _ => true
  | .remu _ _ _ => true
  | .clz _ _ => true
  | .ctz _ _ => true
  | .popc _ _ => true
  | .bswap _ _ => true
  | .brev _ _ => true
  | .bfx _ _ l h p => p.toNat + (h.toNat * 32 + l.toNat + 1) ≤ 64
  | .bfxu _ _ l h p => p.toNat + (h.toNat * 32 + l.toNat + 1) ≤ 64
  | .bfi _ _ l h p => p.toNat + (h.toNat * 32 + l.toNat + 1) ≤ 64
  | .lea _ _ _ _ => true
  | .addw _ _ _ => true
  | .subw _ _ _ => true
  | .mulw _ _ _ => true
  | .shlw _ _ _ => true
  | .shrw _ _ _ => true
  | .sarw _ _ _ => true
  | .sel _ _ _ _ _ => true
  | .cmp _ _ _ c => c < 12
  | .cmpi _ _ _ c => c < 12
  | .pand d a b => d < 8 ∧ a < 8 ∧ b < 8
  | .por d a b => d < 8 ∧ a < 8 ∧ b < 8
  | .pxor d a b => d < 8 ∧ a < 8 ∧ b < 8
  | .pandn d a b => d < 8 ∧ a < 8 ∧ b < 8
  | .pmov d a => d < 8 ∧ a < 8
  | .ptox _ a => a < 8
  | .fadd _ _ _ r _ => wfRound r
  | .fsub _ _ _ r _ => wfRound r
  | .fmul _ _ _ r _ => wfRound r
  | .fdiv _ _ _ r _ => wfRound r
  | .fsqrt _ _ r _ => wfRound r
  | .fmin _ _ _ _ => true
  | .fmax _ _ _ _ => true
  | .fcmp d _ _ c _ => d < 8 ∧ wfFCond c
  | .fcvt _ _ b s r t => wfFcvt b s r t
  | .fclass _ _ _ => true
  | .ffma _ _ _ _ t => t < 4
  | .vaddI _ _ _ _ _ => true
  | .vsubI _ _ _ _ _ => true
  | .vmulI _ _ _ _ _ => true
  | .vminI _ _ _ _ _ => true
  | .vmaxI _ _ _ _ _ => true
  | .vminu _ _ _ _ _ => true
  | .vmaxu _ _ _ _ _ => true
  | .vaddss _ _ _ _ _ => true
  | .vaddsu _ _ _ _ _ => true
  | .vsubss _ _ _ _ _ => true
  | .vsubsu _ _ _ _ _ => true
  | .vabsI _ _ _ _ => true
  | .vnegI _ _ _ _ => true
  | .vavgu _ _ _ _ _ => true
  | .vand _ _ _ _ _ => true
  | .vor _ _ _ _ _ => true
  | .vxor _ _ _ _ _ => true
  | .vandn _ _ _ _ _ => true
  | .vnot _ _ _ _ => true
  | .vshl _ _ _ _ _ => true
  | .vshr _ _ _ _ _ => true
  | .vsar _ _ _ _ _ => true
  | .vshls _ _ _ _ _ => true
  | .vshrs _ _ _ _ _ => true
  | .vsars _ _ _ _ _ => true
  | .vrotl _ _ _ _ _ => true
  | .vaddF _ _ _ _ _ => true
  | .vsubF _ _ _ _ _ => true
  | .vmulF _ _ _ _ _ => true
  | .vminF _ _ _ _ _ => true
  | .vmaxF _ _ _ _ _ => true
  | .vabsF _ _ _ _ => true
  | .vnegF _ _ _ _ => true
  | .vfma _ _ _ _ _ t => t < 4
  | .vfms _ _ _ _ _ t => t < 4
  | .vfnma _ _ _ _ _ t => t < 4
  | .vcmp d _ _ _ t c => d < 8 ∧ ((t < 4 ∧ c < 12) ∨ (4 ≤ t ∧ t < 8 ∧ wfFCond c))
  | .vsel _ _ _ _ _ => true
  | .vbcast _ _ _ _ => true
  | .vextr _ _ _ _ => true
  | .vins _ _ _ _ => true
  | .vperm _ _ _ _ _ => true
  | .vslide _ _ _ _ _ => true
  | .vzip _ _ _ _ _ => true
  | .vunzip _ _ _ _ _ => true
  | .vredadd _ _ b _ _ v => v = 1 ∨ b = 0
  | .vredmax _ _ _ t u => u = 0 ∨ t < 4
  | .vredmin _ _ _ t u => u = 0 ∨ t < 4
  | .vscanadd _ _ _ _ => true
  | .vcvt _ _ x y _ t u => wfVcvt x y t u
  | .vpack _ _ _ _ t _ => 1 ≤ t ∧ t ≤ 3
  | .vunpk _ _ _ _ t _ => t ≤ 2
  | .vmxpack _ _ f t => wfMx f t
  | .vmxunpk _ _ f _ t => wfMx f t
  | .vdiv _ _ _ _ _ => true
  | .vsqrt _ _ _ _ => true
  | .vrcp _ _ _ t => t = 1 ∨ t = 2
  | .vrsq _ _ _ t => t = 1 ∨ t = 2
  | .vexp2 _ _ _ t => t = 1 ∨ t = 2
  | .vlog2 _ _ _ t => t = 1 ∨ t = 2
  | .vsin _ _ _ t => t = 1 ∨ t = 2
  | .vcos _ _ _ t => t = 1 ∨ t = 2
  | .vtanh _ _ _ t => t = 1 ∨ t = 2
  | .vdot4 _ _ _ _ => true
  | .vdot4U _ _ _ _ => true
  | .vdot4Su _ _ _ _ => true
  | .vclmul _ _ _ _ _ => true
  | .vclmulH _ _ _ _ _ => true
  | .vmulh _ _ _ _ _ => true
  | .vmulhU _ _ _ _ _ => true
  | .kand d a b => d < 8 ∧ a < 8 ∧ b < 8
  | .kor d a b => d < 8 ∧ a < 8 ∧ b < 8
  | .kxor d a b => d < 8 ∧ a < 8 ∧ b < 8
  | .knot d a => d < 8 ∧ a < 8
  | .kpopc _ a _ => a < 8
  | .kfirst _ a _ => a < 8
  | .kmov d a => d < 8 ∧ a < 8
  | .kmovX d _ _ => d < 8
  | .kmovLo _ a => a < 8
  | .kmovHi _ a => a < 8
  | .ldb _ _ _ => true
  | .ldbu _ _ _ => true
  | .ldh _ _ _ => true
  | .ldhu _ _ _ => true
  | .ldw _ _ _ => true
  | .ldwu _ _ _ => true
  | .ldd _ _ _ => true
  | .stb _ _ _ => true
  | .sth _ _ _ => true
  | .stw _ _ _ => true
  | .std _ _ _ => true
  | .ldv _ _ _ _ => true
  | .stv _ _ _ _ => true
  | .ldvs _ _ _ _ _ => true
  | .stvs _ _ _ _ _ => true
  | .ldvg _ _ _ _ _ _ => true
  | .stvx _ _ _ _ _ _ => true
  | .ldnc _ _ z _ => z ≠ 7
  | .ldaq s o k _ _ => s < 10 ∧ (o = 0 ∨ o = 3) ∧ k < 4
  | .strl s o k _ _ => s < 10 ∧ (o = 1 ∨ o = 3) ∧ k < 4
  | .amo s o _ _ _ r f => s < 10 ∧ (r = 1 ∨ o = 0) ∧ f < 9
  | .cas s o _ a _ r => s < 10 ∧ (r = 1 ∨ o = 0) ∧ a.toNat % 2 = 0
  | .fence s _ => s < 10
  | .afence _ => true
  | .cflush _ => true
  | .cclean _ => true
  | .cinv _ => true
  | .czero _ => true
  | .pref _ l => l < 4
  | .tokwait s k _ _ => s < 10 ∧ k < 3
  | .msend _ _ _ => true
  | .spawn d a => d < 8 ∧ 1 ≤ a ∧ a ≤ 26
  | .exit => true
  | .wcfg _ c _ => c < 4
  | .wget d c _ => c < 4 ∧ 1 ≤ d ∧ d ≤ 26
  | .mkinit _ _ _ => true
  | .mkarr _ _ => true
  | .mkwait _ _ _ => true
  | .tkwait _ => true
  | .tkpoll d _ => d < 8
  | .copy c s _ _ g r _ => c ≠ 3 ∧ s < 10 ∧ g ≤ 30 ∧ (c ≠ 2 ∨ r ≤ 29)
  | .cpfl l c s _ g r _ => l < 2 ∧ c ≠ 3 ∧ s < 10 ∧ g ≤ 30 ∧ (c ≠ 2 ∨ r ≤ 29)
  | .tcfg _ f a i => (f = 0 ∧ a = 0) ∨ (f = 1 ∧ i = 0)
  | .tzero _ => true
  | .trel => true
  | .tld _ _ _ => true
  | .tst _ _ _ t => t < 7 ∨ t = 15
  | .tstAmax _ _ _ t _ s => (t < 7 ∨ t = 15) ∧ s < 10
  | .tmma _ _ a ga b gb am bm mx sa sb => wfTileSrc am a ga ∧ wfTileSrc bm b gb ∧ wfScale mx sa sb
  | .tmmag d c h _ _ _ _ mx sa sb => wfBlock h d c ∧ wfScale mx sa sb
  | .tmmap _ _ _ _ _ mx sa sb => wfScale mx sa sb
  | .tadd _ _ _ => true
  | .tsclRow _ _ x => x.toNat % 2 = 0
  | .tsclCol _ _ x => x.toNat % 2 = 0
  | .tcvt _ _ h t => t < 7 ∧ h.toNat < tilePartCount t
  | .ttr _ _ t => t < 3
  | .trowv _ _ _ => true
  | .tvrow _ _ _ => true
  | .tamax _ _ => true
  | .tsave _ => true
  | .trstr _ _ => true
  | .takeInterrupt => true
  | .timecmpReached => true
  | .deferredFailDue => true
  | .deferredRemoteStoreTrap => true
  | .fenceDeliveryFailure => true
  | .launchRoute => true
  | .routerFill => true
  | .launchClaim => true
  | .threadStart => true
  | .launchEntryAging => true
  | .exitDrainComplete => true
  | .completionMessageTimeout => true
  | .parkedWake => true
  | .waituntilExpiry => true
  | .issueArbitrate => true
  | .urgentMark => true
  | .fusedFetch => true
  | .mispredictSquash => true
  | .storePerform => true
  | .amaxMerge => true
  | .fabricResponse => true
  | .ticketNotice => true
  | .tileGrant => true
  | .tileStepComplete => true
  | .tmmapPair => true
  | .tmmapPairTimeout => true
  | .gaugeWindow => true
  | .copyUnit => true
  | .cpflFill => true
  | .sDirtyWriteback => true
  | .cacheEviction => true
  | .coherenceRequest => true
  | .hostMemRequest => true
  | .icsend => true
  | .icsendDeliver => true
  | .gangStopTrigger => true
  | .gangRelease => true
  | .shootdownRequest => true
  | .shootdownComplete => true
  | .hdmCommit => true
  | .mailboxDoorbell => true
  | .launchEntry => true
  | .serviceEntry => true
  | .wakeEntry => true
  | .mbsvc => true
  | .mailboxReset => true
  | .mailboxOpen => true
  | .versionWrite => true
  | .fabricRequest => true
  | .fabricReplay => true
  | .fabricSkip => true
  | .fabricCancel => true
  | .tkdone => true
  | .niuHeldAdmit => true
  | .niuBusy => true
  | .busyReceive => true
  | .busyBackoffExpiry => true
  | .portRetrainEnter => true
  | .portUp => true
  | .portFailed => true
  | .portRetrain => true
  | .portFailureNotice => true
  | .syncSend => true
  | .syncMessage => true
  | .pdelayMeasure => true
  | .timeLock => true
  | .timeLockLoss => true
  | .ptset => true
  | .correctedError => true
  | .uncorrectableError => true
  | .patrolScrub => true
  | .tnkill => true
  | .resetRelease => true
  | .imageVerify => true
  | .safelight => true
  | .dieReady => true
  | .hbmPairReady => true
  | .recover => true
  | .commit => true
  | .attest => true
  | .lcadv => true
  | .revoke => true
  | .darkroomUnknownCommand => true
  | .srvlock => true
  | .shutterFrame => true
  | .shutterPinFault => true
  | .shtin => true
  | .shutterI3cWrite => true
  | .powerManagerTick => true
  | .voltageSettled => true
  | .pfail => true
  | .pfailStopTimeout => true
  | .pfstatClear => true
  | .registerWrite => true
  | .illegalInstruction => true
  | .hostLinkTrained => true
  | .hostLinkDown => true
  | .agentDied => true
  | .flitCrcFailure => true

end Sys2Proof
end

