-- ==== Sys2Proof/Decode.lean ====
section
/-! DEFINITION. The decoder, total on every bundle and every list of bytes, and the encoder (R72-R92). -/

namespace Sys2Proof

/-- Bits [lo + len - 1 : lo] of n, as a number. -/
def bits (lo len n : Nat) : Nat := n / 2 ^ lo % 2 ^ len

/-- Bits [lo + len - 1 : lo] of n, as a field. -/
def fld (len lo n : Nat) : BitVec len := .ofNat len (n / 2 ^ lo)

/-- Major 0x01 of the C word (R89). -/
def decodeC01 (n : Nat) : Option Instr :=
  match bits 0 25 n with
  | 0 => some (.cnop)
  | 1 => some (.pause)
  | _ => none

/-- Major 0x02 of the C word (R89). -/
def decodeC02 (n : Nat) : Option Instr :=
  some (.prep (fld 3 22 n) (fld 20 2 n) (fld 2 0 n))

/-- Major 0x03 of the C word (R89). -/
def decodeC03 (n : Nat) : Option Instr :=
  match bits 0 8 n with
  | 0 => if bits 10 5 n = 0 then some (.prepx (fld 5 20 n) (fld 5 15 n) (fld 2 8 n)) else none
  | 1 => if bits 8 7 n = 0 then some (.bclr (fld 5 20 n) (fld 5 15 n)) else none
  | 2 => if bits 8 7 n = 0 then some (.movxb (fld 5 20 n) (fld 5 15 n)) else none
  | _ => none

/-- Major 0x04 of the C word (R89). -/
def decodeC04 (n : Nat) : Option Instr :=
  if bits 0 18 n = 0 then some (.br (fld 3 22 n) (fld 3 19 n) (fld 1 18 n)) else none

/-- Major 0x05 of the C word (R89). -/
def decodeC05 (n : Nat) : Option Instr :=
  if bits 0 18 n = 0 then some (.call (fld 3 22 n) (fld 3 19 n) (fld 1 18 n)) else none

/-- Major 0x06 of the C word (R89). -/
def decodeC06 (n : Nat) : Option Instr :=
  if bits 15 10 n = 0 then some (.trap (fld 15 0 n)) else none

/-- Major 0x07 of the C word (R89). -/
def decodeC07 (n : Nat) : Option Instr :=
  if bits 15 10 n = 0 then some (.brk (fld 15 0 n)) else none

/-- Major 0x08 of the C word (R89). -/
def decodeC08 (n : Nat) : Option Instr :=
  match bits 0 25 n with
  | 0 => some (.eret)
  | 1 => some (.uret)
  | 2 => some (.wait)
  | 3 => some (.halt)
  | 4 => some (.ifence)
  | _ => none

/-- Major 0x09 of the C word (R89). -/
def decodeC09 (n : Nat) : Option Instr :=
  if bits 15 5 n = 0 then some (.getcw (fld 5 20 n) (fld 15 0 n)) else none

/-- Major 0x0A of the C word (R89). -/
def decodeC0A (n : Nat) : Option Instr :=
  if bits 20 5 n = 0 then some (.setcw (fld 5 15 n) (fld 15 0 n)) else none

/-- Major 0x0B of the C word (R89). -/
def decodeC0B (n : Nat) : Option Instr :=
  some (.swapcw (fld 5 20 n) (fld 5 15 n) (fld 15 0 n))

/-- Major 0x0C of the C word (R89). -/
def decodeC0C (n : Nat) : Option Instr :=
  match bits 0 10 n with
  | 0 => if bits 10 15 n = 0 then some (.tlbinvAll) else none
  | 1 => if bits 15 10 n = 0 then some (.tlbinvAsn (fld 5 10 n)) else none
  | 2 => if bits 20 5 n = 0 then some (.tlbinvPage (fld 5 15 n) (fld 5 10 n)) else none
  | 3 => if bits 10 5 n = 0 ∧ bits 20 5 n = 0 then some (.tlbinvVa (fld 5 15 n)) else none
  | _ => none

/-- Major 0x0D of the C word (R89). -/
def decodeC0D (n : Nat) : Option Instr :=
  match bits 0 15 n with
  | 0 => if bits 15 5 n = 0 then some (.rdtime (fld 5 20 n)) else none
  | 1 => some (.waituntil (fld 5 20 n) (fld 5 15 n))
  | _ => none

/-- Major 0x0E of the C word (R89). -/
def decodeC0E (n : Nat) : Option Instr :=
  match bits 0 15 n with
  | 0 => if bits 20 5 n = 0 then some (.ctxsave (fld 5 15 n)) else none
  | 1 => if bits 20 5 n = 0 then some (.ctxload (fld 5 15 n)) else none
  | _ => none

/-- Major 0x10 of the C word (R89). -/
def decodeC10 (n : Nat) : Option Instr :=
  match bits 12 3 n with
  | 0 => some (.ldb (fld 5 20 n) (fld 5 15 n) (fld 12 0 n))
  | 1 => some (.ldbu (fld 5 20 n) (fld 5 15 n) (fld 12 0 n))
  | 2 => some (.ldh (fld 5 20 n) (fld 5 15 n) (fld 12 0 n))
  | 3 => some (.ldhu (fld 5 20 n) (fld 5 15 n) (fld 12 0 n))
  | 4 => some (.ldw (fld 5 20 n) (fld 5 15 n) (fld 12 0 n))
  | 5 => some (.ldwu (fld 5 20 n) (fld 5 15 n) (fld 12 0 n))
  | 6 => some (.ldd (fld 5 20 n) (fld 5 15 n) (fld 12 0 n))
  | _ => none

/-- Major 0x11 of the C word (R89). -/
def decodeC11 (n : Nat) : Option Instr :=
  match bits 12 3 n with
  | 0 => some (.stb (fld 5 20 n) (fld 5 15 n) (fld 12 0 n))
  | 1 => some (.sth (fld 5 20 n) (fld 5 15 n) (fld 12 0 n))
  | 2 => some (.stw (fld 5 20 n) (fld 5 15 n) (fld 12 0 n))
  | 3 => some (.std (fld 5 20 n) (fld 5 15 n) (fld 12 0 n))
  | _ => none

/-- Major 0x12 of the C word (R89). -/
def decodeC12 (n : Nat) : Option Instr :=
  some (.ldv (fld 5 20 n) (fld 5 15 n) (fld 3 12 n) (fld 12 0 n))

/-- Major 0x13 of the C word (R89). -/
def decodeC13 (n : Nat) : Option Instr :=
  some (.stv (fld 5 20 n) (fld 5 15 n) (fld 3 12 n) (fld 12 0 n))

/-- Major 0x14 of the C word (R89). -/
def decodeC14 (n : Nat) : Option Instr :=
  match bits 5 5 n with
  | 0 => some (.ldvs (fld 5 20 n) (fld 5 15 n) (fld 5 10 n) (fld 3 2 n) (fld 2 0 n))
  | 1 => some (.stvs (fld 5 20 n) (fld 5 15 n) (fld 5 10 n) (fld 3 2 n) (fld 2 0 n))
  | _ => none

/-- Major 0x15 of the C word (R89). -/
def decodeC15 (n : Nat) : Option Instr :=
  match bits 5 1 n with
  | 0 => if bits 8 2 n = 0 then some (.ldvg (fld 5 20 n) (fld 5 15 n) (fld 5 10 n) (fld 2 6 n) (fld 3 2 n) (fld 2 0 n)) else none
  | 1 => if bits 8 2 n = 0 then some (.stvx (fld 5 20 n) (fld 5 15 n) (fld 5 10 n) (fld 2 6 n) (fld 3 2 n) (fld 2 0 n)) else none
  | _ => none

/-- Major 0x16 of the C word (R89). -/
def decodeC16 (n : Nat) : Option Instr :=
  some (.ldnc (fld 5 20 n) (fld 5 15 n) (fld 3 12 n) (fld 12 0 n))

/-- Major 0x17 of the C word (R89). -/
def decodeC17 (n : Nat) : Option Instr :=
  if bits 0 6 n = 0 then some (.ldaq (fld 4 21 n) (fld 2 19 n) (fld 3 16 n) (fld 5 11 n) (fld 5 6 n)) else none

/-- Major 0x18 of the C word (R89). -/
def decodeC18 (n : Nat) : Option Instr :=
  if bits 0 6 n = 0 then some (.strl (fld 4 21 n) (fld 2 19 n) (fld 3 16 n) (fld 5 11 n) (fld 5 6 n)) else none

/-- Major 0x19 of the C word (R89). -/
def decodeC19 (n : Nat) : Option Instr :=
  if bits 5 1 n = 0 ∧ bits 17 2 n = 1 then some (.amo (fld 4 21 n) (fld 2 19 n) (fld 1 16 n) (fld 5 11 n) (fld 5 6 n) (fld 1 4 n) (fld 4 0 n)) else none

/-- Major 0x1A of the C word (R89). -/
def decodeC1A (n : Nat) : Option Instr :=
  if bits 0 4 n = 0 ∧ bits 5 1 n = 0 ∧ bits 17 2 n = 1 then some (.cas (fld 4 21 n) (fld 2 19 n) (fld 1 16 n) (fld 5 11 n) (fld 5 6 n) (fld 1 4 n)) else none

/-- Major 0x1B of the C word (R89). -/
def decodeC1B (n : Nat) : Option Instr :=
  match bits 0 11 n with
  | 0 => if bits 11 8 n = 0 then some (.fence (fld 4 21 n) (fld 2 19 n)) else none
  | 1 => if bits 16 9 n = 0 then some (.afence (fld 5 11 n)) else none
  | _ => none

/-- Major 0x1C of the C word (R89). -/
def decodeC1C (n : Nat) : Option Instr :=
  match bits 0 10 n with
  | 0 => if bits 10 5 n = 0 ∧ bits 20 5 n = 0 then some (.cflush (fld 5 15 n)) else none
  | 1 => if bits 10 5 n = 0 ∧ bits 20 5 n = 0 then some (.cclean (fld 5 15 n)) else none
  | 2 => if bits 10 5 n = 0 ∧ bits 20 5 n = 0 then some (.cinv (fld 5 15 n)) else none
  | 3 => if bits 10 5 n = 0 ∧ bits 20 5 n = 0 then some (.czero (fld 5 15 n)) else none
  | 4 => if bits 20 5 n = 0 then some (.pref (fld 5 15 n) (fld 5 10 n)) else none
  | _ => none

/-- Major 0x1D of the C word (R89). -/
def decodeC1D (n : Nat) : Option Instr :=
  if bits 0 6 n = 0 ∧ bits 19 2 n = 0 then some (.tokwait (fld 4 21 n) (fld 3 16 n) (fld 5 11 n) (fld 5 6 n)) else none

/-- Major 0x1E of the C word (R89). -/
def decodeC1E (n : Nat) : Option Instr :=
  match bits 0 10 n with
  | 0 => some (.msend (fld 5 20 n) (fld 5 15 n) (fld 5 10 n))
  | 1 => if bits 10 5 n = 0 then some (.spawn (fld 5 20 n) (fld 5 15 n)) else none
  | 2 => if bits 10 15 n = 0 then some (.exit) else none
  | _ => none

/-- Major 0x1F of the C word (R89). -/
def decodeC1F (n : Nat) : Option Instr :=
  match bits 0 3 n with
  | 0 => if bits 6 4 n = 0 ∧ bits 20 5 n = 0 then some (.wcfg (fld 5 15 n) (fld 5 10 n) (fld 3 3 n)) else none
  | 1 => if bits 6 4 n = 0 ∧ bits 15 5 n = 0 then some (.wget (fld 5 20 n) (fld 5 10 n) (fld 3 3 n)) else none
  | _ => none

/-- Major 0x20 of the C word (R89). -/
def decodeC20 (n : Nat) : Option Instr :=
  match bits 0 3 n with
  | 0 => if bits 6 4 n = 0 ∧ bits 20 5 n = 0 then some (.mkinit (fld 5 15 n) (fld 5 10 n) (fld 3 3 n)) else none
  | 1 => if bits 3 7 n = 0 ∧ bits 15 5 n = 0 then some (.mkarr (fld 5 20 n) (fld 5 10 n)) else none
  | 2 => if bits 6 4 n = 0 ∧ bits 20 5 n = 0 then some (.mkwait (fld 5 15 n) (fld 5 10 n) (fld 3 3 n)) else none
  | _ => none

/-- Major 0x21 of the C word (R89). -/
def decodeC21 (n : Nat) : Option Instr :=
  match bits 0 15 n with
  | 0 => if bits 20 5 n = 0 then some (.tkwait (fld 5 15 n)) else none
  | 1 => some (.tkpoll (fld 5 20 n) (fld 5 15 n))
  | _ => none

/-- Major 0x00 of the A word (R89). -/
def decodeA00 (n : Nat) : Option Instr :=
  if bits 0 26 n = 0 then some (.anop) else none

/-- Major 0x01 of the A word (R89). -/
def decodeA01 (n : Nat) : Option Instr :=
  match bits 0 11 n with
  | 0 => some (.add (fld 5 21 n) (fld 5 16 n) (fld 5 11 n))
  | 1 => some (.sub (fld 5 21 n) (fld 5 16 n) (fld 5 11 n))
  | 2 => some (.and (fld 5 21 n) (fld 5 16 n) (fld 5 11 n))
  | 3 => some (.or (fld 5 21 n) (fld 5 16 n) (fld 5 11 n))
  | 4 => some (.xor (fld 5 21 n) (fld 5 16 n) (fld 5 11 n))
  | 5 => some (.andn (fld 5 21 n) (fld 5 16 n) (fld 5 11 n))
  | 6 => some (.shl (fld 5 21 n) (fld 5 16 n) (fld 5 11 n))
  | 7 => some (.shr (fld 5 21 n) (fld 5 16 n) (fld 5 11 n))
  | 8 => some (.sar (fld 5 21 n) (fld 5 16 n) (fld 5 11 n))
  | 9 => some (.rotl (fld 5 21 n) (fld 5 16 n) (fld 5 11 n))
  | 10 => some (.min (fld 5 21 n) (fld 5 16 n) (fld 5 11 n))
  | 11 => some (.max (fld 5 21 n) (fld 5 16 n) (fld 5 11 n))
  | 12 => some (.minu (fld 5 21 n) (fld 5 16 n) (fld 5 11 n))
  | 13 => some (.maxu (fld 5 21 n) (fld 5 16 n) (fld 5 11 n))
  | _ => none

/-- Major 0x02 of the A word (R89). -/
def decodeA02 (n : Nat) : Option Instr :=
  some (.addi (fld 5 21 n) (fld 5 16 n) (fld 16 0 n))

/-- Major 0x03 of the A word (R89). -/
def decodeA03 (n : Nat) : Option Instr :=
  some (.andi (fld 5 21 n) (fld 5 16 n) (fld 16 0 n))

/-- Major 0x04 of the A word (R89). -/
def decodeA04 (n : Nat) : Option Instr :=
  some (.ori (fld 5 21 n) (fld 5 16 n) (fld 16 0 n))

/-- Major 0x05 of the A word (R89). -/
def decodeA05 (n : Nat) : Option Instr :=
  some (.xori (fld 5 21 n) (fld 5 16 n) (fld 16 0 n))

/-- Major 0x06 of the A word (R89). -/
def decodeA06 (n : Nat) : Option Instr :=
  match bits 6 10 n with
  | 0 => some (.shli (fld 5 21 n) (fld 5 16 n) (fld 6 0 n))
  | 256 => some (.shri (fld 5 21 n) (fld 5 16 n) (fld 6 0 n))
  | 512 => some (.sari (fld 5 21 n) (fld 5 16 n) (fld 6 0 n))
  | 768 => some (.rotli (fld 5 21 n) (fld 5 16 n) (fld 6 0 n))
  | _ => none

/-- Major 0x07 of the A word (R89). -/
def decodeA07 (n : Nat) : Option Instr :=
  match bits 18 3 n with
  | 0 => some (.movi (fld 5 21 n) (fld 2 16 n) (fld 16 0 n))
  | 4 => some (.lih (fld 5 21 n) (fld 2 16 n) (fld 16 0 n))
  | _ => none

/-- Major 0x08 of the A word (R89). -/
def decodeA08 (n : Nat) : Option Instr :=
  match bits 0 11 n with
  | 0 => some (.mul (fld 5 21 n) (fld 5 16 n) (fld 5 11 n))
  | 1 => some (.mulh (fld 5 21 n) (fld 5 16 n) (fld 5 11 n))
  | 2 => some (.mulhu (fld 5 21 n) (fld 5 16 n) (fld 5 11 n))
  | 3 => some (.div (fld 5 21 n) (fld 5 16 n) (fld 5 11 n))
  | 4 => some (.divu (fld 5 21 n) (fld 5 16 n) (fld 5 11 n))
  | 5 => some (.rem (fld 5 21 n) (fld 5 16 n) (fld 5 11 n))
  | 6 => some (.remu (fld 5 21 n) (fld 5 16 n) (fld 5 11 n))
  | _ => none

/-- Major 0x09 of the A word (R89). -/
def decodeA09 (n : Nat) : Option Instr :=
  match bits 0 4 n with
  | 0 => if bits 4 12 n = 0 then some (.clz (fld 5 21 n) (fld 5 16 n)) else none
  | 1 => if bits 4 12 n = 0 then some (.ctz (fld 5 21 n) (fld 5 16 n)) else none
  | 2 => if bits 4 12 n = 0 then some (.popc (fld 5 21 n) (fld 5 16 n)) else none
  | 3 => if bits 4 12 n = 0 then some (.bswap (fld 5 21 n) (fld 5 16 n)) else none
  | 4 => if bits 4 12 n = 0 then some (.brev (fld 5 21 n) (fld 5 16 n)) else none
  | 5 => some (.bfx (fld 5 21 n) (fld 5 16 n) (fld 5 11 n) (fld 1 10 n) (fld 6 4 n))
  | 6 => some (.bfxu (fld 5 21 n) (fld 5 16 n) (fld 5 11 n) (fld 1 10 n) (fld 6 4 n))
  | 7 => some (.bfi (fld 5 21 n) (fld 5 16 n) (fld 5 11 n) (fld 1 10 n) (fld 6 4 n))
  | 8 => if bits 7 4 n = 0 then some (.lea (fld 5 21 n) (fld 5 16 n) (fld 5 11 n) (fld 3 4 n)) else none
  | _ => none

/-- Major 0x0A of the A word (R89). -/
def decodeA0A (n : Nat) : Option Instr :=
  match bits 0 11 n with
  | 0 => some (.addw (fld 5 21 n) (fld 5 16 n) (fld 5 11 n))
  | 1 => some (.subw (fld 5 21 n) (fld 5 16 n) (fld 5 11 n))
  | 2 => some (.mulw (fld 5 21 n) (fld 5 16 n) (fld 5 11 n))
  | 3 => some (.shlw (fld 5 21 n) (fld 5 16 n) (fld 5 11 n))
  | 4 => some (.shrw (fld 5 21 n) (fld 5 16 n) (fld 5 11 n))
  | 5 => some (.sarw (fld 5 21 n) (fld 5 16 n) (fld 5 11 n))
  | _ => none

/-- Major 0x0B of the A word (R89). -/
def decodeA0B (n : Nat) : Option Instr :=
  if bits 4 7 n = 0 then some (.sel (fld 5 21 n) (fld 5 16 n) (fld 5 11 n) (fld 1 3 n) (fld 3 0 n)) else none

/-- Major 0x0C of the A word (R89). -/
def decodeA0C (n : Nat) : Option Instr :=
  if bits 4 9 n = 0 then some (.cmp (fld 3 23 n) (fld 5 18 n) (fld 5 13 n) (fld 4 0 n)) else none

/-- Major 0x0D of the A word (R89). -/
def decodeA0D (n : Nat) : Option Instr :=
  some (.cmpi (fld 3 23 n) (fld 5 18 n) (fld 14 4 n) (fld 4 0 n))

/-- Major 0x0E of the A word (R89). -/
def decodeA0E (n : Nat) : Option Instr :=
  match bits 0 11 n with
  | 0 => some (.pand (fld 5 21 n) (fld 5 16 n) (fld 5 11 n))
  | 1 => some (.por (fld 5 21 n) (fld 5 16 n) (fld 5 11 n))
  | 2 => some (.pxor (fld 5 21 n) (fld 5 16 n) (fld 5 11 n))
  | 3 => some (.pandn (fld 5 21 n) (fld 5 16 n) (fld 5 11 n))
  | 4 => if bits 11 5 n = 0 then some (.pmov (fld 5 21 n) (fld 5 16 n)) else none
  | 5 => if bits 11 5 n = 0 then some (.ptox (fld 5 21 n) (fld 5 16 n)) else none
  | _ => none

/-- Major 0x0F of the A word (R89). -/
def decodeA0F (n : Nat) : Option Instr :=
  match bits 0 4 n with
  | 0 => if bits 9 2 n = 0 then some (.fadd (fld 5 21 n) (fld 5 16 n) (fld 5 11 n) (fld 3 6 n) (fld 2 4 n)) else none
  | 1 => if bits 9 2 n = 0 then some (.fsub (fld 5 21 n) (fld 5 16 n) (fld 5 11 n) (fld 3 6 n) (fld 2 4 n)) else none
  | 2 => if bits 9 2 n = 0 then some (.fmul (fld 5 21 n) (fld 5 16 n) (fld 5 11 n) (fld 3 6 n) (fld 2 4 n)) else none
  | 3 => if bits 9 2 n = 0 then some (.fdiv (fld 5 21 n) (fld 5 16 n) (fld 5 11 n) (fld 3 6 n) (fld 2 4 n)) else none
  | 4 => if bits 9 7 n = 0 then some (.fsqrt (fld 5 21 n) (fld 5 16 n) (fld 3 6 n) (fld 2 4 n)) else none
  | 5 => if bits 6 5 n = 0 then some (.fmin (fld 5 21 n) (fld 5 16 n) (fld 5 11 n) (fld 2 4 n)) else none
  | 6 => if bits 6 5 n = 0 then some (.fmax (fld 5 21 n) (fld 5 16 n) (fld 5 11 n) (fld 2 4 n)) else none
  | 7 => if bits 10 1 n = 0 then some (.fcmp (fld 5 21 n) (fld 5 16 n) (fld 5 11 n) (fld 4 6 n) (fld 2 4 n)) else none
  | 8 => some (.fcvt (fld 5 21 n) (fld 5 16 n) (fld 5 11 n) (fld 2 9 n) (fld 3 6 n) (fld 2 4 n))
  | 9 => if bits 6 10 n = 0 then some (.fclass (fld 5 21 n) (fld 5 16 n) (fld 2 4 n)) else none
  | _ => none

/-- Major 0x10 of the A word (R89). -/
def decodeA10 (n : Nat) : Option Instr :=
  if bits 3 3 n = 0 then some (.ffma (fld 5 21 n) (fld 5 16 n) (fld 5 11 n) (fld 5 6 n) (fld 3 0 n)) else none

/-- Major 0x18 of the A word (R89). -/
def decodeA18 (n : Nat) : Option Instr :=
  match bits 0 4 n with
  | 0 => if bits 6 2 n = 0 then some (.vaddI (fld 5 21 n) (fld 5 16 n) (fld 5 11 n) (fld 3 8 n) (fld 2 4 n)) else none
  | 1 => if bits 6 2 n = 0 then some (.vsubI (fld 5 21 n) (fld 5 16 n) (fld 5 11 n) (fld 3 8 n) (fld 2 4 n)) else none
  | 2 => if bits 6 2 n = 0 then some (.vmulI (fld 5 21 n) (fld 5 16 n) (fld 5 11 n) (fld 3 8 n) (fld 2 4 n)) else none
  | 3 => if bits 6 2 n = 0 then some (.vminI (fld 5 21 n) (fld 5 16 n) (fld 5 11 n) (fld 3 8 n) (fld 2 4 n)) else none
  | 4 => if bits 6 2 n = 0 then some (.vmaxI (fld 5 21 n) (fld 5 16 n) (fld 5 11 n) (fld 3 8 n) (fld 2 4 n)) else none
  | 5 => if bits 6 2 n = 0 then some (.vminu (fld 5 21 n) (fld 5 16 n) (fld 5 11 n) (fld 3 8 n) (fld 2 4 n)) else none
  | 6 => if bits 6 2 n = 0 then some (.vmaxu (fld 5 21 n) (fld 5 16 n) (fld 5 11 n) (fld 3 8 n) (fld 2 4 n)) else none
  | 7 => if bits 6 2 n = 0 then some (.vaddss (fld 5 21 n) (fld 5 16 n) (fld 5 11 n) (fld 3 8 n) (fld 2 4 n)) else none
  | 8 => if bits 6 2 n = 0 then some (.vaddsu (fld 5 21 n) (fld 5 16 n) (fld 5 11 n) (fld 3 8 n) (fld 2 4 n)) else none
  | 9 => if bits 6 2 n = 0 then some (.vsubss (fld 5 21 n) (fld 5 16 n) (fld 5 11 n) (fld 3 8 n) (fld 2 4 n)) else none
  | 10 => if bits 6 2 n = 0 then some (.vsubsu (fld 5 21 n) (fld 5 16 n) (fld 5 11 n) (fld 3 8 n) (fld 2 4 n)) else none
  | 11 => if bits 6 2 n = 0 ∧ bits 11 5 n = 0 then some (.vabsI (fld 5 21 n) (fld 5 16 n) (fld 3 8 n) (fld 2 4 n)) else none
  | 12 => if bits 6 2 n = 0 ∧ bits 11 5 n = 0 then some (.vnegI (fld 5 21 n) (fld 5 16 n) (fld 3 8 n) (fld 2 4 n)) else none
  | 13 => if bits 6 2 n = 0 then some (.vavgu (fld 5 21 n) (fld 5 16 n) (fld 5 11 n) (fld 3 8 n) (fld 2 4 n)) else none
  | _ => none

/-- Major 0x19 of the A word (R89). -/
def decodeA19 (n : Nat) : Option Instr :=
  match bits 0 4 n with
  | 0 => if bits 6 2 n = 0 then some (.vand (fld 5 21 n) (fld 5 16 n) (fld 5 11 n) (fld 3 8 n) (fld 2 4 n)) else none
  | 1 => if bits 6 2 n = 0 then some (.vor (fld 5 21 n) (fld 5 16 n) (fld 5 11 n) (fld 3 8 n) (fld 2 4 n)) else none
  | 2 => if bits 6 2 n = 0 then some (.vxor (fld 5 21 n) (fld 5 16 n) (fld 5 11 n) (fld 3 8 n) (fld 2 4 n)) else none
  | 3 => if bits 6 2 n = 0 then some (.vandn (fld 5 21 n) (fld 5 16 n) (fld 5 11 n) (fld 3 8 n) (fld 2 4 n)) else none
  | 4 => if bits 6 2 n = 0 ∧ bits 11 5 n = 0 then some (.vnot (fld 5 21 n) (fld 5 16 n) (fld 3 8 n) (fld 2 4 n)) else none
  | 5 => if bits 6 2 n = 0 then some (.vshl (fld 5 21 n) (fld 5 16 n) (fld 5 11 n) (fld 3 8 n) (fld 2 4 n)) else none
  | 6 => if bits 6 2 n = 0 then some (.vshr (fld 5 21 n) (fld 5 16 n) (fld 5 11 n) (fld 3 8 n) (fld 2 4 n)) else none
  | 7 => if bits 6 2 n = 0 then some (.vsar (fld 5 21 n) (fld 5 16 n) (fld 5 11 n) (fld 3 8 n) (fld 2 4 n)) else none
  | 8 => if bits 6 2 n = 0 then some (.vshls (fld 5 21 n) (fld 5 16 n) (fld 5 11 n) (fld 3 8 n) (fld 2 4 n)) else none
  | 9 => if bits 6 2 n = 0 then some (.vshrs (fld 5 21 n) (fld 5 16 n) (fld 5 11 n) (fld 3 8 n) (fld 2 4 n)) else none
  | 10 => if bits 6 2 n = 0 then some (.vsars (fld 5 21 n) (fld 5 16 n) (fld 5 11 n) (fld 3 8 n) (fld 2 4 n)) else none
  | 11 => if bits 6 2 n = 0 then some (.vrotl (fld 5 21 n) (fld 5 16 n) (fld 5 11 n) (fld 3 8 n) (fld 2 4 n)) else none
  | _ => none

/-- Major 0x1A of the A word (R89). -/
def decodeA1A (n : Nat) : Option Instr :=
  match bits 0 4 n with
  | 0 => if bits 6 2 n = 1 then some (.vaddF (fld 5 21 n) (fld 5 16 n) (fld 5 11 n) (fld 3 8 n) (fld 2 4 n)) else none
  | 1 => if bits 6 2 n = 1 then some (.vsubF (fld 5 21 n) (fld 5 16 n) (fld 5 11 n) (fld 3 8 n) (fld 2 4 n)) else none
  | 2 => if bits 6 2 n = 1 then some (.vmulF (fld 5 21 n) (fld 5 16 n) (fld 5 11 n) (fld 3 8 n) (fld 2 4 n)) else none
  | 3 => if bits 6 2 n = 1 then some (.vminF (fld 5 21 n) (fld 5 16 n) (fld 5 11 n) (fld 3 8 n) (fld 2 4 n)) else none
  | 4 => if bits 6 2 n = 1 then some (.vmaxF (fld 5 21 n) (fld 5 16 n) (fld 5 11 n) (fld 3 8 n) (fld 2 4 n)) else none
  | 5 => if bits 6 2 n = 1 ∧ bits 11 5 n = 0 then some (.vabsF (fld 5 21 n) (fld 5 16 n) (fld 3 8 n) (fld 2 4 n)) else none
  | 6 => if bits 6 2 n = 1 ∧ bits 11 5 n = 0 then some (.vnegF (fld 5 21 n) (fld 5 16 n) (fld 3 8 n) (fld 2 4 n)) else none
  | _ => none

/-- Major 0x1B of the A word (R89). -/
def decodeA1B (n : Nat) : Option Instr :=
  some (.vfma (fld 5 21 n) (fld 5 16 n) (fld 5 11 n) (fld 5 6 n) (fld 3 3 n) (fld 3 0 n))

/-- Major 0x1C of the A word (R89). -/
def decodeA1C (n : Nat) : Option Instr :=
  some (.vfms (fld 5 21 n) (fld 5 16 n) (fld 5 11 n) (fld 5 6 n) (fld 3 3 n) (fld 3 0 n))

/-- Major 0x1D of the A word (R89). -/
def decodeA1D (n : Nat) : Option Instr :=
  some (.vfnma (fld 5 21 n) (fld 5 16 n) (fld 5 11 n) (fld 5 6 n) (fld 3 3 n) (fld 3 0 n))

/-- Major 0x1E of the A word (R89). -/
def decodeA1E (n : Nat) : Option Instr :=
  some (.vcmp (fld 5 21 n) (fld 5 16 n) (fld 5 11 n) (fld 3 8 n) (fld 4 4 n) (fld 4 0 n))

/-- Major 0x1F of the A word (R89). -/
def decodeA1F (n : Nat) : Option Instr :=
  match bits 0 4 n with
  | 0 => if bits 7 1 n = 0 then some (.vsel (fld 5 21 n) (fld 5 16 n) (fld 5 11 n) (fld 3 8 n) (fld 3 4 n)) else none
  | 1 => if bits 7 1 n = 0 ∧ bits 11 5 n = 0 then some (.vbcast (fld 5 21 n) (fld 5 16 n) (fld 3 8 n) (fld 3 4 n)) else none
  | 2 => if bits 7 4 n = 0 then some (.vextr (fld 5 21 n) (fld 5 16 n) (fld 5 11 n) (fld 3 4 n)) else none
  | 3 => if bits 7 4 n = 0 then some (.vins (fld 5 21 n) (fld 5 16 n) (fld 5 11 n) (fld 3 4 n)) else none
  | 4 => if bits 7 1 n = 0 then some (.vperm (fld 5 21 n) (fld 5 16 n) (fld 5 11 n) (fld 3 8 n) (fld 3 4 n)) else none
  | 5 => if bits 7 1 n = 0 then some (.vslide (fld 5 21 n) (fld 5 16 n) (fld 5 11 n) (fld 3 8 n) (fld 3 4 n)) else none
  | 6 => if bits 7 1 n = 0 then some (.vzip (fld 5 21 n) (fld 5 16 n) (fld 5 11 n) (fld 3 8 n) (fld 3 4 n)) else none
  | 7 => if bits 7 1 n = 0 then some (.vunzip (fld 5 21 n) (fld 5 16 n) (fld 5 11 n) (fld 3 8 n) (fld 3 4 n)) else none
  | _ => none

/-- Major 0x20 of the A word (R89). A b field other than zero makes VREDMAX.u and VREDMIN.u illegal, as it does their signed forms: the
manual says 'b zero' of those alone: DESIGN CHOICE, log 78. -/
def decodeA20 (n : Nat) : Option Instr :=
  match bits 0 3 n with
  | 0 => if bits 7 1 n = 0 then some (.vredadd (fld 5 21 n) (fld 5 16 n) (fld 5 11 n) (fld 3 8 n) (fld 3 4 n) (fld 1 3 n)) else none
  | 1 => if bits 7 1 n = 0 ∧ bits 11 5 n = 0 then some (.vredmax (fld 5 21 n) (fld 5 16 n) (fld 3 8 n) (fld 3 4 n) (fld 1 3 n)) else none
  | 2 => if bits 7 1 n = 0 ∧ bits 11 5 n = 0 then some (.vredmin (fld 5 21 n) (fld 5 16 n) (fld 3 8 n) (fld 3 4 n) (fld 1 3 n)) else none
  | 3 => if bits 3 1 n = 0 ∧ bits 7 1 n = 0 ∧ bits 11 5 n = 0 then some (.vscanadd (fld 5 21 n) (fld 5 16 n) (fld 3 8 n) (fld 3 4 n)) else none
  | _ => none

/-- Major 0x21 of the A word (R89). -/
def decodeA21 (n : Nat) : Option Instr :=
  match bits 1 3 n with
  | 0 => some (.vcvt (fld 5 21 n) (fld 5 16 n) (fld 1 15 n) (fld 4 11 n) (fld 3 8 n) (fld 4 4 n) (fld 1 0 n))
  | 1 => some (.vpack (fld 5 21 n) (fld 5 16 n) (fld 5 11 n) (fld 3 8 n) (fld 4 4 n) (fld 1 0 n))
  | 2 => if bits 12 4 n = 0 then some (.vunpk (fld 5 21 n) (fld 5 16 n) (fld 1 11 n) (fld 3 8 n) (fld 4 4 n) (fld 1 0 n)) else none
  | 3 => if bits 0 1 n = 0 ∧ bits 8 3 n = 0 ∧ bits 15 1 n = 0 then some (.vmxpack (fld 5 21 n) (fld 5 16 n) (fld 4 11 n) (fld 4 4 n)) else
    if bits 0 1 n = 1 ∧ bits 15 1 n = 0 then some (.vmxunpk (fld 5 21 n) (fld 5 16 n) (fld 4 11 n) (fld 3 8 n) (fld 4 4 n)) else none
  | _ => none

/-- Major 0x22 of the A word (R89). -/
def decodeA22 (n : Nat) : Option Instr :=
  match bits 0 4 n with
  | 0 => if bits 6 2 n = 1 then some (.vdiv (fld 5 21 n) (fld 5 16 n) (fld 5 11 n) (fld 3 8 n) (fld 2 4 n)) else none
  | 1 => if bits 6 2 n = 1 ∧ bits 11 5 n = 0 then some (.vsqrt (fld 5 21 n) (fld 5 16 n) (fld 3 8 n) (fld 2 4 n)) else none
  | 2 => if bits 6 2 n = 1 ∧ bits 11 5 n = 0 then some (.vrcp (fld 5 21 n) (fld 5 16 n) (fld 3 8 n) (fld 2 4 n)) else none
  | 3 => if bits 6 2 n = 1 ∧ bits 11 5 n = 0 then some (.vrsq (fld 5 21 n) (fld 5 16 n) (fld 3 8 n) (fld 2 4 n)) else none
  | 4 => if bits 6 2 n = 1 ∧ bits 11 5 n = 0 then some (.vexp2 (fld 5 21 n) (fld 5 16 n) (fld 3 8 n) (fld 2 4 n)) else none
  | 5 => if bits 6 2 n = 1 ∧ bits 11 5 n = 0 then some (.vlog2 (fld 5 21 n) (fld 5 16 n) (fld 3 8 n) (fld 2 4 n)) else none
  | 6 => if bits 6 2 n = 1 ∧ bits 11 5 n = 0 then some (.vsin (fld 5 21 n) (fld 5 16 n) (fld 3 8 n) (fld 2 4 n)) else none
  | 7 => if bits 6 2 n = 1 ∧ bits 11 5 n = 0 then some (.vcos (fld 5 21 n) (fld 5 16 n) (fld 3 8 n) (fld 2 4 n)) else none
  | 8 => if bits 6 2 n = 1 ∧ bits 11 5 n = 0 then some (.vtanh (fld 5 21 n) (fld 5 16 n) (fld 3 8 n) (fld 2 4 n)) else none
  | _ => none

/-- Major 0x23 of the A word (R89). -/
def decodeA23 (n : Nat) : Option Instr :=
  match bits 0 4 n with
  | 0 => if bits 4 4 n = 2 then some (.vdot4 (fld 5 21 n) (fld 5 16 n) (fld 5 11 n) (fld 3 8 n)) else none
  | 1 => if bits 4 4 n = 2 then some (.vdot4U (fld 5 21 n) (fld 5 16 n) (fld 5 11 n) (fld 3 8 n)) else none
  | 2 => if bits 4 4 n = 2 then some (.vdot4Su (fld 5 21 n) (fld 5 16 n) (fld 5 11 n) (fld 3 8 n)) else none
  | 3 => if bits 6 2 n = 0 then some (.vclmul (fld 5 21 n) (fld 5 16 n) (fld 5 11 n) (fld 3 8 n) (fld 2 4 n)) else none
  | 4 => if bits 6 2 n = 0 then some (.vclmulH (fld 5 21 n) (fld 5 16 n) (fld 5 11 n) (fld 3 8 n) (fld 2 4 n)) else none
  | 5 => if bits 6 2 n = 0 then some (.vmulh (fld 5 21 n) (fld 5 16 n) (fld 5 11 n) (fld 3 8 n) (fld 2 4 n)) else none
  | 6 => if bits 6 2 n = 0 then some (.vmulhU (fld 5 21 n) (fld 5 16 n) (fld 5 11 n) (fld 3 8 n) (fld 2 4 n)) else none
  | _ => none

/-- Major 0x24 of the A word (R89). -/
def decodeA24 (n : Nat) : Option Instr :=
  match bits 0 4 n with
  | 0 => if bits 4 7 n = 0 then some (.kand (fld 5 21 n) (fld 5 16 n) (fld 5 11 n)) else none
  | 1 => if bits 4 7 n = 0 then some (.kor (fld 5 21 n) (fld 5 16 n) (fld 5 11 n)) else none
  | 2 => if bits 4 7 n = 0 then some (.kxor (fld 5 21 n) (fld 5 16 n) (fld 5 11 n)) else none
  | 3 => if bits 4 12 n = 0 then some (.knot (fld 5 21 n) (fld 5 16 n)) else none
  | 4 => if bits 7 9 n = 0 then some (.kpopc (fld 5 21 n) (fld 5 16 n) (fld 3 4 n)) else none
  | 5 => if bits 7 9 n = 0 then some (.kfirst (fld 5 21 n) (fld 5 16 n) (fld 3 4 n)) else none
  | 6 => if bits 4 12 n = 0 then some (.kmov (fld 5 21 n) (fld 5 16 n)) else none
  | 7 => if bits 4 7 n = 0 then some (.kmovX (fld 5 21 n) (fld 5 16 n) (fld 5 11 n)) else none
  | 8 => if bits 4 12 n = 0 then some (.kmovLo (fld 5 21 n) (fld 5 16 n)) else none
  | 9 => if bits 4 12 n = 0 then some (.kmovHi (fld 5 21 n) (fld 5 16 n)) else none
  | _ => none

/-- Major 0x00 of the long bundle (R89). -/
def decodeL00 (n : Nat) : Option Instr :=
  if bits 16 4 n = 0 then some (.li (fld 5 20 n) (.ofNat 48 (n / 2 ^ 32 * 2 ^ 16 + n % 2 ^ 16))) else none

/-- Major 0x01 of the long bundle (R89). -/
def decodeL01 (n : Nat) : Option Instr :=
  if bits 16 4 n = 0 then some (.lprep (fld 3 22 n) (fld 2 20 n) (.ofNat 48 (n / 2 ^ 32 * 2 ^ 16 + n % 2 ^ 16))) else none

/-- Major 0x08 of the long bundle (R89). -/
def decodeL08 (n : Nat) : Option Instr :=
  if bits 32 32 n = 0 then some (.tcfg (fld 3 22 n) (fld 1 21 n) (fld 5 16 n) (fld 16 0 n)) else none

/-- Major 0x09 of the long bundle (R89). -/
def decodeL09 (n : Nat) : Option Instr :=
  match bits 0 22 n with
  | 0 => if bits 32 32 n = 0 then some (.tzero (fld 3 22 n)) else none
  | 1 => if bits 22 3 n = 0 ∧ bits 32 32 n = 0 then some (.trel) else none
  | _ => none

/-- Major 0x0A of the long bundle (R89). -/
def decodeL0A (n : Nat) : Option Instr :=
  if bits 0 12 n = 0 ∧ bits 32 32 n = 0 then some (.tld (fld 3 22 n) (fld 5 17 n) (fld 5 12 n)) else none

/-- Major 0x0B of the long bundle (R89). -/
def decodeL0B (n : Nat) : Option Instr :=
  match bits 0 8 n with
  | 0 => if bits 32 32 n = 0 then some (.tst (fld 3 22 n) (fld 5 17 n) (fld 5 12 n) (fld 4 8 n)) else none
  | 1 => if bits 32 6 n = 0 ∧ bits 47 17 n = 0 then some (.tstAmax (fld 3 22 n) (fld 5 17 n) (fld 5 12 n) (fld 4 8 n) (fld 5 42 n) (fld 4 38 n)) else none
  | _ => none

/-- Major 0x0C of the long bundle (R89). -/
def decodeL0C (n : Nat) : Option Instr :=
  if bits 0 1 n = 0 ∧ bits 47 17 n = 0 then some (.tmma (fld 3 22 n) (fld 3 19 n) (fld 5 14 n) (fld 5 9 n) (fld 5 4 n) (fld 5 32 n) (fld 1 3 n) (fld 1 2 n) (fld 1 1 n) (fld 5 37 n) (fld 5 42 n)) else none

/-- Major 0x0D of the long bundle (R89). -/
def decodeL0D (n : Nat) : Option Instr :=
  if bits 47 17 n = 0 then some (.tmmag (fld 3 22 n) (fld 3 19 n) (fld 3 16 n) (fld 5 11 n) (fld 5 6 n) (fld 5 1 n) (fld 5 32 n) (fld 1 0 n) (fld 5 37 n) (fld 5 42 n)) else none

/-- Major 0x0E of the long bundle (R89). -/
def decodeL0E (n : Nat) : Option Instr :=
  if bits 1 4 n = 0 ∧ bits 47 17 n = 0 then some (.tmmap (fld 5 20 n) (fld 5 15 n) (fld 5 10 n) (fld 5 5 n) (fld 5 32 n) (fld 1 0 n) (fld 5 37 n) (fld 5 42 n)) else none

/-- Major 0x0F of the long bundle (R89). -/
def decodeL0F (n : Nat) : Option Instr :=
  match bits 0 11 n with
  | 0 => if bits 11 5 n = 0 ∧ bits 32 32 n = 0 then some (.tadd (fld 3 22 n) (fld 3 19 n) (fld 3 16 n)) else none
  | 1 => if bits 16 3 n = 0 ∧ bits 32 32 n = 0 then some (.tsclRow (fld 3 22 n) (fld 3 19 n) (fld 5 11 n)) else none
  | 2 => if bits 16 3 n = 0 ∧ bits 32 32 n = 0 then some (.tsclCol (fld 3 22 n) (fld 3 19 n) (fld 5 11 n)) else none
  | _ => none

/-- Major 0x10 of the long bundle (R89). -/
def decodeL10 (n : Nat) : Option Instr :=
  match bits 0 7 n with
  | 0 => if bits 11 5 n = 0 ∧ bits 32 32 n = 0 then some (.tcvt (fld 3 22 n) (fld 3 19 n) (fld 3 16 n) (fld 4 7 n)) else none
  | 1 => if bits 11 8 n = 0 ∧ bits 32 32 n = 0 then some (.ttr (fld 3 22 n) (fld 3 19 n) (fld 4 7 n)) else none
  | _ => none

/-- Major 0x11 of the long bundle (R89). -/
def decodeL11 (n : Nat) : Option Instr :=
  match bits 0 11 n with
  | 0 => if bits 16 3 n = 0 ∧ bits 22 3 n = 0 ∧ bits 37 27 n = 0 then some (.trowv (fld 3 19 n) (fld 5 11 n) (fld 5 32 n)) else none
  | 1 => if bits 16 6 n = 0 ∧ bits 37 27 n = 0 then some (.tvrow (fld 3 22 n) (fld 5 11 n) (fld 5 32 n)) else none
  | _ => none

/-- Major 0x12 of the long bundle (R89). -/
def decodeL12 (n : Nat) : Option Instr :=
  match bits 0 17 n with
  | 0 => if bits 22 3 n = 0 ∧ bits 32 32 n = 0 then some (.tsave (fld 5 17 n)) else none
  | 1 => if bits 32 32 n = 0 then some (.trstr (fld 3 22 n) (fld 5 17 n)) else none
  | _ => none

/-- Major 0x13 of the long bundle (R89). -/
def decodeL13 (n : Nat) : Option Instr :=
  if bits 0 11 n = 0 ∧ bits 16 3 n = 0 ∧ bits 22 3 n = 0 ∧ bits 32 32 n = 0 then some (.tamax (fld 3 19 n) (fld 5 11 n)) else none

/-- Major 0x18 of the long bundle (R89). -/
def decodeL18 (n : Nat) : Option Instr :=
  if bits 0 3 n = 0 ∧ bits 38 26 n = 0 then some (.copy (fld 2 36 n) (fld 4 32 n) (fld 5 20 n) (fld 5 15 n) (fld 5 10 n) (fld 5 5 n) (fld 2 3 n)) else none

/-- Major 0x19 of the long bundle (R89). -/
def decodeL19 (n : Nat) : Option Instr :=
  if bits 0 3 n = 0 ∧ bits 20 5 n = 0 ∧ bits 40 24 n = 0 then some (.cpfl (fld 2 38 n) (fld 2 36 n) (fld 4 32 n) (fld 5 15 n) (fld 5 10 n) (fld 5 5 n) (fld 2 3 n)) else none

/-- The instruction a C word with L = 0 spells, its majors those of R89; register numbers are not looked at yet. -/
def rawC (n : Nat) : Option Instr :=
  match n / 2 ^ 25 with
  | 0x01 => decodeC01 n
  | 0x02 => decodeC02 n
  | 0x03 => decodeC03 n
  | 0x04 => decodeC04 n
  | 0x05 => decodeC05 n
  | 0x06 => decodeC06 n
  | 0x07 => decodeC07 n
  | 0x08 => decodeC08 n
  | 0x09 => decodeC09 n
  | 0x0A => decodeC0A n
  | 0x0B => decodeC0B n
  | 0x0C => decodeC0C n
  | 0x0D => decodeC0D n
  | 0x0E => decodeC0E n
  | 0x10 => decodeC10 n
  | 0x11 => decodeC11 n
  | 0x12 => decodeC12 n
  | 0x13 => decodeC13 n
  | 0x14 => decodeC14 n
  | 0x15 => decodeC15 n
  | 0x16 => decodeC16 n
  | 0x17 => decodeC17 n
  | 0x18 => decodeC18 n
  | 0x19 => decodeC19 n
  | 0x1A => decodeC1A n
  | 0x1B => decodeC1B n
  | 0x1C => decodeC1C n
  | 0x1D => decodeC1D n
  | 0x1E => decodeC1E n
  | 0x1F => decodeC1F n
  | 0x20 => decodeC20 n
  | 0x21 => decodeC21 n
  | _ => none

/-- The instruction a A word spells, its majors those of R89; register numbers are not looked at yet. -/
def rawA (n : Nat) : Option Instr :=
  match n / 2 ^ 26 with
  | 0x00 => decodeA00 n
  | 0x01 => decodeA01 n
  | 0x02 => decodeA02 n
  | 0x03 => decodeA03 n
  | 0x04 => decodeA04 n
  | 0x05 => decodeA05 n
  | 0x06 => decodeA06 n
  | 0x07 => decodeA07 n
  | 0x08 => decodeA08 n
  | 0x09 => decodeA09 n
  | 0x0A => decodeA0A n
  | 0x0B => decodeA0B n
  | 0x0C => decodeA0C n
  | 0x0D => decodeA0D n
  | 0x0E => decodeA0E n
  | 0x0F => decodeA0F n
  | 0x10 => decodeA10 n
  | 0x18 => decodeA18 n
  | 0x19 => decodeA19 n
  | 0x1A => decodeA1A n
  | 0x1B => decodeA1B n
  | 0x1C => decodeA1C n
  | 0x1D => decodeA1D n
  | 0x1E => decodeA1E n
  | 0x1F => decodeA1F n
  | 0x20 => decodeA20 n
  | 0x21 => decodeA21 n
  | 0x22 => decodeA22 n
  | 0x23 => decodeA23 n
  | 0x24 => decodeA24 n
  | _ => none

/-- The instruction a long bundle spells, its majors those of R89; register numbers are not looked at yet. -/
def rawLong (n : Nat) : Option Instr :=
  match bits 25 6 n with
  | 0x00 => decodeL00 n
  | 0x01 => decodeL01 n
  | 0x08 => decodeL08 n
  | 0x09 => decodeL09 n
  | 0x0A => decodeL0A n
  | 0x0B => decodeL0B n
  | 0x0C => decodeL0C n
  | 0x0D => decodeL0D n
  | 0x0E => decodeL0E n
  | 0x0F => decodeL0F n
  | 0x10 => decodeL10 n
  | 0x11 => decodeL11 n
  | 0x12 => decodeL12 n
  | 0x13 => decodeL13 n
  | 0x18 => decodeL18 n
  | 0x19 => decodeL19 n
  | _ => none

/-- Why a pattern is no instruction (R91). -/
inductive Reject where
  /-- fewer bytes than the pattern needs -/
  | short
  /-- a reserved major, function code, or a non-zero zero field -/
  | pattern
  /-- a field value that the entry does not assign -/
  | field
  deriving DecidableEq, Repr

/-- Accept a spelled instruction if its field values are assigned ones. -/
def accept (r : Option Instr) : Except Reject Instr :=
  match r with
  | none => .error .pattern
  | some i => if i.wf then .ok i else .error .field

/-- Decode a C word with L = 0 (R82, R91). -/
def decodeC (w : BitVec 32) : Except Reject Instr := accept (rawC w.toNat)
/-- Decode an A word (R86, R91). -/
def decodeA (w : BitVec 32) : Except Reject Instr := accept (rawA w.toNat)
/-- Decode a bundle with L = 1 (R73, R91). -/
def decodeLong (w : BitVec 64) : Except Reject Instr := accept (rawLong w.toNat)

/-- The C word, bundle bits [31:0] (R72). -/
def cWordOf (w : BitVec 64) : BitVec 32 := w.extractLsb' 0 32
/-- The A word, bundle bits [63:32] (R72). -/
def aWordOf (w : BitVec 64) : BitVec 32 := w.extractLsb' 32 32
/-- The L bit (R73). -/
def isLong (w : BitVec 64) : Bool := w.getLsbD 31

/-- The instruction a bundle holds at slot C: its long instruction, or its C instruction (R73, R76). -/
def decodeFirst (w : BitVec 64) : Except Reject Instr :=
  if isLong w then decodeLong w else decodeC (cWordOf w)

/-- A bundle's value from its bytes, little-endian (R72). -/
def bundleOfBytes : List Byte → Nat
  | [] => 0
  | b :: r => b.toNat + 256 * bundleOfBytes r

/-- The first instruction of the bundle that the first eight bytes spell; the A word comes after it (R72). -/
def decodeBytes (l : List Byte) : Except Reject Instr :=
  if l.length < 8 then .error .short else decodeFirst (.ofNat 64 (bundleOfBytes (l.take 8)))

/-- IsSolo: the C word is ERET, URET, HALT, EXIT, CTXSAVE or CTXLOAD (R80, R93). -/
def isSolo (w : BitVec 32) : Bool :=
  match decodeC w with
  | .ok .eret => true
  | .ok .uret => true
  | .ok .halt => true
  | .ok .exit => true
  | .ok (.ctxsave _) => true
  | .ok (.ctxload _) => true
  | _ => false

/-- A field at bit lo of its word. -/
def fieldAt {n : Nat} (lo : Nat) (f : BitVec n) : Nat := f.toNat * 2 ^ lo

/-- imm48's bits [47:16], in bundle bits [63:32] (R130). -/
def immHigh (i : BitVec 48) : Nat := i.toNat / 2 ^ 16 * 2 ^ 32

/-- imm48's bits [15:0] (R130). -/
def immLow (i : BitVec 48) : Nat := i.toNat % 2 ^ 16

/-- The fixed bits and the fields of a word, put together. -/
def packBits (fixed : Nat) : List Nat → Nat
  | [] => fixed
  | f :: r => f + packBits fixed r

/-- The bits of an encoded instruction: of its word, or of its bundle for a long instruction (R82, R86, R130, R204,
R217, R223, R227). An event has none: 0. -/
def encodeBits : Instr → Nat
  | .anop => 0
  | .cnop => 0x2000000
  | .pause => 0x2000001
  | .prep b o h => packBits 0x4000000 [fieldAt 22 b, fieldAt 2 o, fieldAt 0 h]
  | .lprep b h i => packBits 0x82000000 [fieldAt 22 b, fieldAt 20 h, immHigh i, immLow i]
  | .prepx d a h => packBits 0x6000000 [fieldAt 20 d, fieldAt 15 a, fieldAt 8 h]
  | .bclr d a => packBits 0x6000001 [fieldAt 20 d, fieldAt 15 a]
  | .movxb d a => packBits 0x6000002 [fieldAt 20 d, fieldAt 15 a]
  | .br b p n => packBits 0x8000000 [fieldAt 22 b, fieldAt 19 p, fieldAt 18 n]
  | .call b p n => packBits 0xA000000 [fieldAt 22 b, fieldAt 19 p, fieldAt 18 n]
  | .trap c => packBits 0xC000000 [fieldAt 0 c]
  | .brk c => packBits 0xE000000 [fieldAt 0 c]
  | .eret => 0x10000000
  | .uret => 0x10000001
  | .wait => 0x10000002
  | .halt => 0x10000003
  | .ifence => 0x10000004
  | .getcw d n => packBits 0x12000000 [fieldAt 20 d, fieldAt 0 n]
  | .setcw a n => packBits 0x14000000 [fieldAt 15 a, fieldAt 0 n]
  | .swapcw d a n => packBits 0x16000000 [fieldAt 20 d, fieldAt 15 a, fieldAt 0 n]
  | .tlbinvAll => 0x18000000
  | .tlbinvAsn b => packBits 0x18000001 [fieldAt 10 b]
  | .tlbinvPage a b => packBits 0x18000002 [fieldAt 15 a, fieldAt 10 b]
  | .tlbinvVa a => packBits 0x18000003 [fieldAt 15 a]
  | .rdtime d => packBits 0x1A000000 [fieldAt 20 d]
  | .waituntil d a => packBits 0x1A000001 [fieldAt 20 d, fieldAt 15 a]
  | .ctxsave a => packBits 0x1C000000 [fieldAt 15 a]
  | .ctxload a => packBits 0x1C000001 [fieldAt 15 a]
  | .li d i => packBits 0x80000000 [fieldAt 20 d, immHigh i, immLow i]
  | .add d a b => packBits 0x4000000 [fieldAt 21 d, fieldAt 16 a, fieldAt 11 b]
  | .sub d a b => packBits 0x4000001 [fieldAt 21 d, fieldAt 16 a, fieldAt 11 b]
  | .and d a b => packBits 0x4000002 [fieldAt 21 d, fieldAt 16 a, fieldAt 11 b]
  | .or d a b => packBits 0x4000003 [fieldAt 21 d, fieldAt 16 a, fieldAt 11 b]
  | .xor d a b => packBits 0x4000004 [fieldAt 21 d, fieldAt 16 a, fieldAt 11 b]
  | .andn d a b => packBits 0x4000005 [fieldAt 21 d, fieldAt 16 a, fieldAt 11 b]
  | .shl d a b => packBits 0x4000006 [fieldAt 21 d, fieldAt 16 a, fieldAt 11 b]
  | .shr d a b => packBits 0x4000007 [fieldAt 21 d, fieldAt 16 a, fieldAt 11 b]
  | .sar d a b => packBits 0x4000008 [fieldAt 21 d, fieldAt 16 a, fieldAt 11 b]
  | .rotl d a b => packBits 0x4000009 [fieldAt 21 d, fieldAt 16 a, fieldAt 11 b]
  | .min d a b => packBits 0x400000A [fieldAt 21 d, fieldAt 16 a, fieldAt 11 b]
  | .max d a b => packBits 0x400000B [fieldAt 21 d, fieldAt 16 a, fieldAt 11 b]
  | .minu d a b => packBits 0x400000C [fieldAt 21 d, fieldAt 16 a, fieldAt 11 b]
  | .maxu d a b => packBits 0x400000D [fieldAt 21 d, fieldAt 16 a, fieldAt 11 b]
  | .addi d a i => packBits 0x8000000 [fieldAt 21 d, fieldAt 16 a, fieldAt 0 i]
  | .andi d a i => packBits 0xC000000 [fieldAt 21 d, fieldAt 16 a, fieldAt 0 i]
  | .ori d a i => packBits 0x10000000 [fieldAt 21 d, fieldAt 16 a, fieldAt 0 i]
  | .xori d a i => packBits 0x14000000 [fieldAt 21 d, fieldAt 16 a, fieldAt 0 i]
  | .shli d a n => packBits 0x18000000 [fieldAt 21 d, fieldAt 16 a, fieldAt 0 n]
  | .shri d a n => packBits 0x18004000 [fieldAt 21 d, fieldAt 16 a, fieldAt 0 n]
  | .sari d a n => packBits 0x18008000 [fieldAt 21 d, fieldAt 16 a, fieldAt 0 n]
  | .rotli d a n => packBits 0x1800C000 [fieldAt 21 d, fieldAt 16 a, fieldAt 0 n]
  | .movi d h i => packBits 0x1C000000 [fieldAt 21 d, fieldAt 16 h, fieldAt 0 i]
  | .lih d h i => packBits 0x1C100000 [fieldAt 21 d, fieldAt 16 h, fieldAt 0 i]
  | .mul d a b => packBits 0x20000000 [fieldAt 21 d, fieldAt 16 a, fieldAt 11 b]
  | .mulh d a b => packBits 0x20000001 [fieldAt 21 d, fieldAt 16 a, fieldAt 11 b]
  | .mulhu d a b => packBits 0x20000002 [fieldAt 21 d, fieldAt 16 a, fieldAt 11 b]
  | .div d a b => packBits 0x20000003 [fieldAt 21 d, fieldAt 16 a, fieldAt 11 b]
  | .divu d a b => packBits 0x20000004 [fieldAt 21 d, fieldAt 16 a, fieldAt 11 b]
  | .rem d a b => packBits 0x20000005 [fieldAt 21 d, fieldAt 16 a, fieldAt 11 b]
  | .remu d a b => packBits 0x20000006 [fieldAt 21 d, fieldAt 16 a, fieldAt 11 b]
  | .clz d a => packBits 0x24000000 [fieldAt 21 d, fieldAt 16 a]
  | .ctz d a => packBits 0x24000001 [fieldAt 21 d, fieldAt 16 a]
  | .popc d a => packBits 0x24000002 [fieldAt 21 d, fieldAt 16 a]
  | .bswap d a => packBits 0x24000003 [fieldAt 21 d, fieldAt 16 a]
  | .brev d a => packBits 0x24000004 [fieldAt 21 d, fieldAt 16 a]
  | .bfx d a l h p => packBits 0x24000005 [fieldAt 21 d, fieldAt 16 a, fieldAt 11 l, fieldAt 10 h, fieldAt 4 p]
  | .bfxu d a l h p => packBits 0x24000006 [fieldAt 21 d, fieldAt 16 a, fieldAt 11 l, fieldAt 10 h, fieldAt 4 p]
  | .bfi d a l h p => packBits 0x24000007 [fieldAt 21 d, fieldAt 16 a, fieldAt 11 l, fieldAt 10 h, fieldAt 4 p]
  | .lea d a b s => packBits 0x24000008 [fieldAt 21 d, fieldAt 16 a, fieldAt 11 b, fieldAt 4 s]
  | .addw d a b => packBits 0x28000000 [fieldAt 21 d, fieldAt 16 a, fieldAt 11 b]
  | .subw d a b => packBits 0x28000001 [fieldAt 21 d, fieldAt 16 a, fieldAt 11 b]
  | .mulw d a b => packBits 0x28000002 [fieldAt 21 d, fieldAt 16 a, fieldAt 11 b]
  | .shlw d a b => packBits 0x28000003 [fieldAt 21 d, fieldAt 16 a, fieldAt 11 b]
  | .shrw d a b => packBits 0x28000004 [fieldAt 21 d, fieldAt 16 a, fieldAt 11 b]
  | .sarw d a b => packBits 0x28000005 [fieldAt 21 d, fieldAt 16 a, fieldAt 11 b]
  | .sel d a b n q => packBits 0x2C000000 [fieldAt 21 d, fieldAt 16 a, fieldAt 11 b, fieldAt 3 n, fieldAt 0 q]
  | .cmp p a b c => packBits 0x30000000 [fieldAt 23 p, fieldAt 18 a, fieldAt 13 b, fieldAt 0 c]
  | .cmpi p a i c => packBits 0x34000000 [fieldAt 23 p, fieldAt 18 a, fieldAt 4 i, fieldAt 0 c]
  | .pand d a b => packBits 0x38000000 [fieldAt 21 d, fieldAt 16 a, fieldAt 11 b]
  | .por d a b => packBits 0x38000001 [fieldAt 21 d, fieldAt 16 a, fieldAt 11 b]
  | .pxor d a b => packBits 0x38000002 [fieldAt 21 d, fieldAt 16 a, fieldAt 11 b]
  | .pandn d a b => packBits 0x38000003 [fieldAt 21 d, fieldAt 16 a, fieldAt 11 b]
  | .pmov d a => packBits 0x38000004 [fieldAt 21 d, fieldAt 16 a]
  | .ptox d a => packBits 0x38000005 [fieldAt 21 d, fieldAt 16 a]
  | .fadd d a b r t => packBits 0x3C000000 [fieldAt 21 d, fieldAt 16 a, fieldAt 11 b, fieldAt 6 r, fieldAt 4 t]
  | .fsub d a b r t => packBits 0x3C000001 [fieldAt 21 d, fieldAt 16 a, fieldAt 11 b, fieldAt 6 r, fieldAt 4 t]
  | .fmul d a b r t => packBits 0x3C000002 [fieldAt 21 d, fieldAt 16 a, fieldAt 11 b, fieldAt 6 r, fieldAt 4 t]
  | .fdiv d a b r t => packBits 0x3C000003 [fieldAt 21 d, fieldAt 16 a, fieldAt 11 b, fieldAt 6 r, fieldAt 4 t]
  | .fsqrt d a r t => packBits 0x3C000004 [fieldAt 21 d, fieldAt 16 a, fieldAt 6 r, fieldAt 4 t]
  | .fmin d a b t => packBits 0x3C000005 [fieldAt 21 d, fieldAt 16 a, fieldAt 11 b, fieldAt 4 t]
  | .fmax d a b t => packBits 0x3C000006 [fieldAt 21 d, fieldAt 16 a, fieldAt 11 b, fieldAt 4 t]
  | .fcmp d a b c t => packBits 0x3C000007 [fieldAt 21 d, fieldAt 16 a, fieldAt 11 b, fieldAt 6 c, fieldAt 4 t]
  | .fcvt d a b s r t => packBits 0x3C000008 [fieldAt 21 d, fieldAt 16 a, fieldAt 11 b, fieldAt 9 s, fieldAt 6 r, fieldAt 4 t]
  | .fclass d a t => packBits 0x3C000009 [fieldAt 21 d, fieldAt 16 a, fieldAt 4 t]
  | .ffma d a b c t => packBits 0x40000000 [fieldAt 21 d, fieldAt 16 a, fieldAt 11 b, fieldAt 6 c, fieldAt 0 t]
  | .vaddI d a b k t => packBits 0x60000000 [fieldAt 21 d, fieldAt 16 a, fieldAt 11 b, fieldAt 8 k, fieldAt 4 t]
  | .vsubI d a b k t => packBits 0x60000001 [fieldAt 21 d, fieldAt 16 a, fieldAt 11 b, fieldAt 8 k, fieldAt 4 t]
  | .vmulI d a b k t => packBits 0x60000002 [fieldAt 21 d, fieldAt 16 a, fieldAt 11 b, fieldAt 8 k, fieldAt 4 t]
  | .vminI d a b k t => packBits 0x60000003 [fieldAt 21 d, fieldAt 16 a, fieldAt 11 b, fieldAt 8 k, fieldAt 4 t]
  | .vmaxI d a b k t => packBits 0x60000004 [fieldAt 21 d, fieldAt 16 a, fieldAt 11 b, fieldAt 8 k, fieldAt 4 t]
  | .vminu d a b k t => packBits 0x60000005 [fieldAt 21 d, fieldAt 16 a, fieldAt 11 b, fieldAt 8 k, fieldAt 4 t]
  | .vmaxu d a b k t => packBits 0x60000006 [fieldAt 21 d, fieldAt 16 a, fieldAt 11 b, fieldAt 8 k, fieldAt 4 t]
  | .vaddss d a b k t => packBits 0x60000007 [fieldAt 21 d, fieldAt 16 a, fieldAt 11 b, fieldAt 8 k, fieldAt 4 t]
  | .vaddsu d a b k t => packBits 0x60000008 [fieldAt 21 d, fieldAt 16 a, fieldAt 11 b, fieldAt 8 k, fieldAt 4 t]
  | .vsubss d a b k t => packBits 0x60000009 [fieldAt 21 d, fieldAt 16 a, fieldAt 11 b, fieldAt 8 k, fieldAt 4 t]
  | .vsubsu d a b k t => packBits 0x6000000A [fieldAt 21 d, fieldAt 16 a, fieldAt 11 b, fieldAt 8 k, fieldAt 4 t]
  | .vabsI d a k t => packBits 0x6000000B [fieldAt 21 d, fieldAt 16 a, fieldAt 8 k, fieldAt 4 t]
  | .vnegI d a k t => packBits 0x6000000C [fieldAt 21 d, fieldAt 16 a, fieldAt 8 k, fieldAt 4 t]
  | .vavgu d a b k t => packBits 0x6000000D [fieldAt 21 d, fieldAt 16 a, fieldAt 11 b, fieldAt 8 k, fieldAt 4 t]
  | .vand d a b k t => packBits 0x64000000 [fieldAt 21 d, fieldAt 16 a, fieldAt 11 b, fieldAt 8 k, fieldAt 4 t]
  | .vor d a b k t => packBits 0x64000001 [fieldAt 21 d, fieldAt 16 a, fieldAt 11 b, fieldAt 8 k, fieldAt 4 t]
  | .vxor d a b k t => packBits 0x64000002 [fieldAt 21 d, fieldAt 16 a, fieldAt 11 b, fieldAt 8 k, fieldAt 4 t]
  | .vandn d a b k t => packBits 0x64000003 [fieldAt 21 d, fieldAt 16 a, fieldAt 11 b, fieldAt 8 k, fieldAt 4 t]
  | .vnot d a k t => packBits 0x64000004 [fieldAt 21 d, fieldAt 16 a, fieldAt 8 k, fieldAt 4 t]
  | .vshl d a b k t => packBits 0x64000005 [fieldAt 21 d, fieldAt 16 a, fieldAt 11 b, fieldAt 8 k, fieldAt 4 t]
  | .vshr d a b k t => packBits 0x64000006 [fieldAt 21 d, fieldAt 16 a, fieldAt 11 b, fieldAt 8 k, fieldAt 4 t]
  | .vsar d a b k t => packBits 0x64000007 [fieldAt 21 d, fieldAt 16 a, fieldAt 11 b, fieldAt 8 k, fieldAt 4 t]
  | .vshls d a b k t => packBits 0x64000008 [fieldAt 21 d, fieldAt 16 a, fieldAt 11 b, fieldAt 8 k, fieldAt 4 t]
  | .vshrs d a b k t => packBits 0x64000009 [fieldAt 21 d, fieldAt 16 a, fieldAt 11 b, fieldAt 8 k, fieldAt 4 t]
  | .vsars d a b k t => packBits 0x6400000A [fieldAt 21 d, fieldAt 16 a, fieldAt 11 b, fieldAt 8 k, fieldAt 4 t]
  | .vrotl d a b k t => packBits 0x6400000B [fieldAt 21 d, fieldAt 16 a, fieldAt 11 b, fieldAt 8 k, fieldAt 4 t]
  | .vaddF d a b k t => packBits 0x68000040 [fieldAt 21 d, fieldAt 16 a, fieldAt 11 b, fieldAt 8 k, fieldAt 4 t]
  | .vsubF d a b k t => packBits 0x68000041 [fieldAt 21 d, fieldAt 16 a, fieldAt 11 b, fieldAt 8 k, fieldAt 4 t]
  | .vmulF d a b k t => packBits 0x68000042 [fieldAt 21 d, fieldAt 16 a, fieldAt 11 b, fieldAt 8 k, fieldAt 4 t]
  | .vminF d a b k t => packBits 0x68000043 [fieldAt 21 d, fieldAt 16 a, fieldAt 11 b, fieldAt 8 k, fieldAt 4 t]
  | .vmaxF d a b k t => packBits 0x68000044 [fieldAt 21 d, fieldAt 16 a, fieldAt 11 b, fieldAt 8 k, fieldAt 4 t]
  | .vabsF d a k t => packBits 0x68000045 [fieldAt 21 d, fieldAt 16 a, fieldAt 8 k, fieldAt 4 t]
  | .vnegF d a k t => packBits 0x68000046 [fieldAt 21 d, fieldAt 16 a, fieldAt 8 k, fieldAt 4 t]
  | .vfma d a b c k t => packBits 0x6C000000 [fieldAt 21 d, fieldAt 16 a, fieldAt 11 b, fieldAt 6 c, fieldAt 3 k, fieldAt 0 t]
  | .vfms d a b c k t => packBits 0x70000000 [fieldAt 21 d, fieldAt 16 a, fieldAt 11 b, fieldAt 6 c, fieldAt 3 k, fieldAt 0 t]
  | .vfnma d a b c k t => packBits 0x74000000 [fieldAt 21 d, fieldAt 16 a, fieldAt 11 b, fieldAt 6 c, fieldAt 3 k, fieldAt 0 t]
  | .vcmp d a b k t c => packBits 0x78000000 [fieldAt 21 d, fieldAt 16 a, fieldAt 11 b, fieldAt 8 k, fieldAt 4 t, fieldAt 0 c]
  | .vsel d a b k t => packBits 0x7C000000 [fieldAt 21 d, fieldAt 16 a, fieldAt 11 b, fieldAt 8 k, fieldAt 4 t]
  | .vbcast d a k t => packBits 0x7C000001 [fieldAt 21 d, fieldAt 16 a, fieldAt 8 k, fieldAt 4 t]
  | .vextr d a b t => packBits 0x7C000002 [fieldAt 21 d, fieldAt 16 a, fieldAt 11 b, fieldAt 4 t]
  | .vins d a b t => packBits 0x7C000003 [fieldAt 21 d, fieldAt 16 a, fieldAt 11 b, fieldAt 4 t]
  | .vperm d a b k t => packBits 0x7C000004 [fieldAt 21 d, fieldAt 16 a, fieldAt 11 b, fieldAt 8 k, fieldAt 4 t]
  | .vslide d a b k t => packBits 0x7C000005 [fieldAt 21 d, fieldAt 16 a, fieldAt 11 b, fieldAt 8 k, fieldAt 4 t]
  | .vzip d a b k t => packBits 0x7C000006 [fieldAt 21 d, fieldAt 16 a, fieldAt 11 b, fieldAt 8 k, fieldAt 4 t]
  | .vunzip d a b k t => packBits 0x7C000007 [fieldAt 21 d, fieldAt 16 a, fieldAt 11 b, fieldAt 8 k, fieldAt 4 t]
  | .vredadd d a b k t v => packBits 0x80000000 [fieldAt 21 d, fieldAt 16 a, fieldAt 11 b, fieldAt 8 k, fieldAt 4 t, fieldAt 3 v]
  | .vredmax d a k t u => packBits 0x80000001 [fieldAt 21 d, fieldAt 16 a, fieldAt 8 k, fieldAt 4 t, fieldAt 3 u]
  | .vredmin d a k t u => packBits 0x80000002 [fieldAt 21 d, fieldAt 16 a, fieldAt 8 k, fieldAt 4 t, fieldAt 3 u]
  | .vscanadd d a k t => packBits 0x80000003 [fieldAt 21 d, fieldAt 16 a, fieldAt 8 k, fieldAt 4 t]
  | .vcvt d a x y k t u => packBits 0x84000000 [fieldAt 21 d, fieldAt 16 a, fieldAt 15 x, fieldAt 11 y, fieldAt 8 k, fieldAt 4 t, fieldAt 0 u]
  | .vpack d a b k t u => packBits 0x84000002 [fieldAt 21 d, fieldAt 16 a, fieldAt 11 b, fieldAt 8 k, fieldAt 4 t, fieldAt 0 u]
  | .vunpk d a h k t u => packBits 0x84000004 [fieldAt 21 d, fieldAt 16 a, fieldAt 11 h, fieldAt 8 k, fieldAt 4 t, fieldAt 0 u]
  | .vmxpack d a f t => packBits 0x84000006 [fieldAt 21 d, fieldAt 16 a, fieldAt 11 f, fieldAt 4 t]
  | .vmxunpk d a f k t => packBits 0x84000007 [fieldAt 21 d, fieldAt 16 a, fieldAt 11 f, fieldAt 8 k, fieldAt 4 t]
  | .vdiv d a b k t => packBits 0x88000040 [fieldAt 21 d, fieldAt 16 a, fieldAt 11 b, fieldAt 8 k, fieldAt 4 t]
  | .vsqrt d a k t => packBits 0x88000041 [fieldAt 21 d, fieldAt 16 a, fieldAt 8 k, fieldAt 4 t]
  | .vrcp d a k t => packBits 0x88000042 [fieldAt 21 d, fieldAt 16 a, fieldAt 8 k, fieldAt 4 t]
  | .vrsq d a k t => packBits 0x88000043 [fieldAt 21 d, fieldAt 16 a, fieldAt 8 k, fieldAt 4 t]
  | .vexp2 d a k t => packBits 0x88000044 [fieldAt 21 d, fieldAt 16 a, fieldAt 8 k, fieldAt 4 t]
  | .vlog2 d a k t => packBits 0x88000045 [fieldAt 21 d, fieldAt 16 a, fieldAt 8 k, fieldAt 4 t]
  | .vsin d a k t => packBits 0x88000046 [fieldAt 21 d, fieldAt 16 a, fieldAt 8 k, fieldAt 4 t]
  | .vcos d a k t => packBits 0x88000047 [fieldAt 21 d, fieldAt 16 a, fieldAt 8 k, fieldAt 4 t]
  | .vtanh d a k t => packBits 0x88000048 [fieldAt 21 d, fieldAt 16 a, fieldAt 8 k, fieldAt 4 t]
  | .vdot4 d a b k => packBits 0x8C000020 [fieldAt 21 d, fieldAt 16 a, fieldAt 11 b, fieldAt 8 k]
  | .vdot4U d a b k => packBits 0x8C000021 [fieldAt 21 d, fieldAt 16 a, fieldAt 11 b, fieldAt 8 k]
  | .vdot4Su d a b k => packBits 0x8C000022 [fieldAt 21 d, fieldAt 16 a, fieldAt 11 b, fieldAt 8 k]
  | .vclmul d a b k t => packBits 0x8C000003 [fieldAt 21 d, fieldAt 16 a, fieldAt 11 b, fieldAt 8 k, fieldAt 4 t]
  | .vclmulH d a b k t => packBits 0x8C000004 [fieldAt 21 d, fieldAt 16 a, fieldAt 11 b, fieldAt 8 k, fieldAt 4 t]
  | .vmulh d a b k t => packBits 0x8C000005 [fieldAt 21 d, fieldAt 16 a, fieldAt 11 b, fieldAt 8 k, fieldAt 4 t]
  | .vmulhU d a b k t => packBits 0x8C000006 [fieldAt 21 d, fieldAt 16 a, fieldAt 11 b, fieldAt 8 k, fieldAt 4 t]
  | .kand d a b => packBits 0x90000000 [fieldAt 21 d, fieldAt 16 a, fieldAt 11 b]
  | .kor d a b => packBits 0x90000001 [fieldAt 21 d, fieldAt 16 a, fieldAt 11 b]
  | .kxor d a b => packBits 0x90000002 [fieldAt 21 d, fieldAt 16 a, fieldAt 11 b]
  | .knot d a => packBits 0x90000003 [fieldAt 21 d, fieldAt 16 a]
  | .kpopc d a t => packBits 0x90000004 [fieldAt 21 d, fieldAt 16 a, fieldAt 4 t]
  | .kfirst d a t => packBits 0x90000005 [fieldAt 21 d, fieldAt 16 a, fieldAt 4 t]
  | .kmov d a => packBits 0x90000006 [fieldAt 21 d, fieldAt 16 a]
  | .kmovX d a b => packBits 0x90000007 [fieldAt 21 d, fieldAt 16 a, fieldAt 11 b]
  | .kmovLo d a => packBits 0x90000008 [fieldAt 21 d, fieldAt 16 a]
  | .kmovHi d a => packBits 0x90000009 [fieldAt 21 d, fieldAt 16 a]
  | .ldb d b e => packBits 0x20000000 [fieldAt 20 d, fieldAt 15 b, fieldAt 0 e]
  | .ldbu d b e => packBits 0x20001000 [fieldAt 20 d, fieldAt 15 b, fieldAt 0 e]
  | .ldh d b e => packBits 0x20002000 [fieldAt 20 d, fieldAt 15 b, fieldAt 0 e]
  | .ldhu d b e => packBits 0x20003000 [fieldAt 20 d, fieldAt 15 b, fieldAt 0 e]
  | .ldw d b e => packBits 0x20004000 [fieldAt 20 d, fieldAt 15 b, fieldAt 0 e]
  | .ldwu d b e => packBits 0x20005000 [fieldAt 20 d, fieldAt 15 b, fieldAt 0 e]
  | .ldd d b e => packBits 0x20006000 [fieldAt 20 d, fieldAt 15 b, fieldAt 0 e]
  | .stb s b e => packBits 0x22000000 [fieldAt 20 s, fieldAt 15 b, fieldAt 0 e]
  | .sth s b e => packBits 0x22001000 [fieldAt 20 s, fieldAt 15 b, fieldAt 0 e]
  | .stw s b e => packBits 0x22002000 [fieldAt 20 s, fieldAt 15 b, fieldAt 0 e]
  | .std s b e => packBits 0x22003000 [fieldAt 20 s, fieldAt 15 b, fieldAt 0 e]
  | .ldv d b k e => packBits 0x24000000 [fieldAt 20 d, fieldAt 15 b, fieldAt 12 k, fieldAt 0 e]
  | .stv s b k e => packBits 0x26000000 [fieldAt 20 s, fieldAt 15 b, fieldAt 12 k, fieldAt 0 e]
  | .ldvs d a b k w => packBits 0x28000000 [fieldAt 20 d, fieldAt 15 a, fieldAt 10 b, fieldAt 2 k, fieldAt 0 w]
  | .stvs d a b k w => packBits 0x28000020 [fieldAt 20 d, fieldAt 15 a, fieldAt 10 b, fieldAt 2 k, fieldAt 0 w]
  | .ldvg d a b c k w => packBits 0x2A000000 [fieldAt 20 d, fieldAt 15 a, fieldAt 10 b, fieldAt 6 c, fieldAt 2 k, fieldAt 0 w]
  | .stvx d a b c k w => packBits 0x2A000020 [fieldAt 20 d, fieldAt 15 a, fieldAt 10 b, fieldAt 6 c, fieldAt 2 k, fieldAt 0 w]
  | .ldnc d b z e => packBits 0x2C000000 [fieldAt 20 d, fieldAt 15 b, fieldAt 12 z, fieldAt 0 e]
  | .ldaq s o k a b => packBits 0x2E000000 [fieldAt 21 s, fieldAt 19 o, fieldAt 16 k, fieldAt 11 a, fieldAt 6 b]
  | .strl s o k a b => packBits 0x30000000 [fieldAt 21 s, fieldAt 19 o, fieldAt 16 k, fieldAt 11 a, fieldAt 6 b]
  | .amo s o w a b r f => packBits 0x32020000 [fieldAt 21 s, fieldAt 19 o, fieldAt 16 w, fieldAt 11 a, fieldAt 6 b, fieldAt 4 r, fieldAt 0 f]
  | .cas s o w a b r => packBits 0x34020000 [fieldAt 21 s, fieldAt 19 o, fieldAt 16 w, fieldAt 11 a, fieldAt 6 b, fieldAt 4 r]
  | .fence s o => packBits 0x36000000 [fieldAt 21 s, fieldAt 19 o]
  | .afence a => packBits 0x36000001 [fieldAt 11 a]
  | .cflush a => packBits 0x38000000 [fieldAt 15 a]
  | .cclean a => packBits 0x38000001 [fieldAt 15 a]
  | .cinv a => packBits 0x38000002 [fieldAt 15 a]
  | .czero a => packBits 0x38000003 [fieldAt 15 a]
  | .pref a l => packBits 0x38000004 [fieldAt 15 a, fieldAt 10 l]
  | .tokwait s k a b => packBits 0x3A000000 [fieldAt 21 s, fieldAt 16 k, fieldAt 11 a, fieldAt 6 b]
  | .msend d a b => packBits 0x3C000000 [fieldAt 20 d, fieldAt 15 a, fieldAt 10 b]
  | .spawn d a => packBits 0x3C000001 [fieldAt 20 d, fieldAt 15 a]
  | .exit => 0x3C000002
  | .wcfg a c p => packBits 0x3E000000 [fieldAt 15 a, fieldAt 10 c, fieldAt 3 p]
  | .wget d c p => packBits 0x3E000001 [fieldAt 20 d, fieldAt 10 c, fieldAt 3 p]
  | .mkinit a m p => packBits 0x40000000 [fieldAt 15 a, fieldAt 10 m, fieldAt 3 p]
  | .mkarr d m => packBits 0x40000001 [fieldAt 20 d, fieldAt 10 m]
  | .mkwait a m p => packBits 0x40000002 [fieldAt 15 a, fieldAt 10 m, fieldAt 3 p]
  | .tkwait a => packBits 0x42000000 [fieldAt 15 a]
  | .tkpoll d a => packBits 0x42000001 [fieldAt 20 d, fieldAt 15 a]
  | .copy c s d a g r q => packBits 0xB0000000 [fieldAt 36 c, fieldAt 32 s, fieldAt 20 d, fieldAt 15 a, fieldAt 10 g, fieldAt 5 r, fieldAt 3 q]
  | .cpfl l c s a g r q => packBits 0xB2000000 [fieldAt 38 l, fieldAt 36 c, fieldAt 32 s, fieldAt 15 a, fieldAt 10 g, fieldAt 5 r, fieldAt 3 q]
  | .tcfg q f a i => packBits 0x90000000 [fieldAt 22 q, fieldAt 21 f, fieldAt 16 a, fieldAt 0 i]
  | .tzero d => packBits 0x92000000 [fieldAt 22 d]
  | .trel => 0x92000001
  | .tld d b g => packBits 0x94000000 [fieldAt 22 d, fieldAt 17 b, fieldAt 12 g]
  | .tst a b g t => packBits 0x96000000 [fieldAt 22 a, fieldAt 17 b, fieldAt 12 g, fieldAt 8 t]
  | .tstAmax a b g t w s => packBits 0x96000001 [fieldAt 22 a, fieldAt 17 b, fieldAt 12 g, fieldAt 8 t, fieldAt 42 w, fieldAt 38 s]
  | .tmma d c a ga b gb am bm mx sa sb => packBits 0x98000000 [fieldAt 22 d, fieldAt 19 c, fieldAt 14 a, fieldAt 9 ga, fieldAt 4 b, fieldAt 32 gb, fieldAt 3 am, fieldAt 2 bm, fieldAt 1 mx, fieldAt 37 sa, fieldAt 42 sb]
  | .tmmag d c h a ga b gb mx sa sb => packBits 0x9A000000 [fieldAt 22 d, fieldAt 19 c, fieldAt 16 h, fieldAt 11 a, fieldAt 6 ga, fieldAt 1 b, fieldAt 32 gb, fieldAt 0 mx, fieldAt 37 sa, fieldAt 42 sb]
  | .tmmap t a ga b gb mx sa sb => packBits 0x9C000000 [fieldAt 20 t, fieldAt 15 a, fieldAt 10 ga, fieldAt 5 b, fieldAt 32 gb, fieldAt 0 mx, fieldAt 37 sa, fieldAt 42 sb]
  | .tadd d a b => packBits 0x9E000000 [fieldAt 22 d, fieldAt 19 a, fieldAt 16 b]
  | .tsclRow d a x => packBits 0x9E000001 [fieldAt 22 d, fieldAt 19 a, fieldAt 11 x]
  | .tsclCol d a x => packBits 0x9E000002 [fieldAt 22 d, fieldAt 19 a, fieldAt 11 x]
  | .tcvt d a h t => packBits 0xA0000000 [fieldAt 22 d, fieldAt 19 a, fieldAt 16 h, fieldAt 7 t]
  | .ttr d a t => packBits 0xA0000001 [fieldAt 22 d, fieldAt 19 a, fieldAt 7 t]
  | .trowv a x y => packBits 0xA2000000 [fieldAt 19 a, fieldAt 11 x, fieldAt 32 y]
  | .tvrow d x y => packBits 0xA2000001 [fieldAt 22 d, fieldAt 11 x, fieldAt 32 y]
  | .tamax a x => packBits 0xA6000000 [fieldAt 19 a, fieldAt 11 x]
  | .tsave b => packBits 0xA4000000 [fieldAt 17 b]
  | .trstr q b => packBits 0xA4000001 [fieldAt 22 q, fieldAt 17 b]
  | .takeInterrupt => 0
  | .timecmpReached => 0
  | .deferredFailDue => 0
  | .deferredRemoteStoreTrap => 0
  | .fenceDeliveryFailure => 0
  | .launchRoute => 0
  | .routerFill => 0
  | .launchClaim => 0
  | .threadStart => 0
  | .launchEntryAging => 0
  | .exitDrainComplete => 0
  | .completionMessageTimeout => 0
  | .parkedWake => 0
  | .waituntilExpiry => 0
  | .issueArbitrate => 0
  | .urgentMark => 0
  | .fusedFetch => 0
  | .mispredictSquash => 0
  | .storePerform => 0
  | .amaxMerge => 0
  | .fabricResponse => 0
  | .ticketNotice => 0
  | .tileGrant => 0
  | .tileStepComplete => 0
  | .tmmapPair => 0
  | .tmmapPairTimeout => 0
  | .gaugeWindow => 0
  | .copyUnit => 0
  | .cpflFill => 0
  | .sDirtyWriteback => 0
  | .cacheEviction => 0
  | .coherenceRequest => 0
  | .hostMemRequest => 0
  | .icsend => 0
  | .icsendDeliver => 0
  | .gangStopTrigger => 0
  | .gangRelease => 0
  | .shootdownRequest => 0
  | .shootdownComplete => 0
  | .hdmCommit => 0
  | .mailboxDoorbell => 0
  | .launchEntry => 0
  | .serviceEntry => 0
  | .wakeEntry => 0
  | .mbsvc => 0
  | .mailboxReset => 0
  | .mailboxOpen => 0
  | .versionWrite => 0
  | .fabricRequest => 0
  | .fabricReplay => 0
  | .fabricSkip => 0
  | .fabricCancel => 0
  | .tkdone => 0
  | .niuHeldAdmit => 0
  | .niuBusy => 0
  | .busyReceive => 0
  | .busyBackoffExpiry => 0
  | .portRetrainEnter => 0
  | .portUp => 0
  | .portFailed => 0
  | .portRetrain => 0
  | .portFailureNotice => 0
  | .syncSend => 0
  | .syncMessage => 0
  | .pdelayMeasure => 0
  | .timeLock => 0
  | .timeLockLoss => 0
  | .ptset => 0
  | .correctedError => 0
  | .uncorrectableError => 0
  | .patrolScrub => 0
  | .tnkill => 0
  | .resetRelease => 0
  | .imageVerify => 0
  | .safelight => 0
  | .dieReady => 0
  | .hbmPairReady => 0
  | .recover => 0
  | .commit => 0
  | .attest => 0
  | .lcadv => 0
  | .revoke => 0
  | .darkroomUnknownCommand => 0
  | .srvlock => 0
  | .shutterFrame => 0
  | .shutterPinFault => 0
  | .shtin => 0
  | .shutterI3cWrite => 0
  | .powerManagerTick => 0
  | .voltageSettled => 0
  | .pfail => 0
  | .pfailStopTimeout => 0
  | .pfstatClear => 0
  | .registerWrite => 0
  | .illegalInstruction => 0
  | .hostLinkTrained => 0
  | .hostLinkDown => 0
  | .agentDied => 0
  | .flitCrcFailure => 0

/-- The words of an encoded instruction, first word first; an event has none. -/
def encode (i : Instr) : List (BitVec 32) :=
  match i.place with
  | .cWord => [.ofNat 32 (encodeBits i)]
  | .aWord => [.ofNat 32 (encodeBits i)]
  | .long => [.ofNat 32 (encodeBits i), .ofNat 32 (encodeBits i / 2 ^ 32)]
  | .event => []

/-- What the decoder of its own slot reads from an instruction's bits. -/
def decodeAt (p : Place) (n : Nat) : Except Reject Instr :=
  match p with
  | .cWord => decodeC (.ofNat 32 n)
  | .aWord => decodeA (.ofNat 32 n)
  | .long => decodeLong (.ofNat 64 n)
  | .event => .error .pattern

/-- The C words of the opcode table with every operand zero (R89). -/
def cRowWords : List Nat :=
  [0x02000000, 0x02000001, 0x04000000, 0x06000000, 0x06000001, 0x06000002, 0x08000000, 0x0A000000, 0x0C000000, 0x0E000000, 0x10000000,
   0x10000001, 0x10000002, 0x10000003, 0x10000004, 0x12000000, 0x14000000, 0x16000000, 0x18000000, 0x18000001, 0x18000002, 0x18000003,
   0x1A000000, 0x1A000001, 0x1C000000, 0x1C000001, 0x20000000, 0x20001000, 0x20002000, 0x20003000, 0x20004000, 0x20005000, 0x20006000,
   0x22000000, 0x22001000, 0x22002000, 0x22003000, 0x24000000, 0x26000000, 0x28000000, 0x28000020, 0x2A000000, 0x2A000020, 0x2C000000,
   0x2E000000, 0x30000000, 0x32020000, 0x34020000, 0x36000000, 0x36000001, 0x38000000, 0x38000001, 0x38000002, 0x38000003, 0x38000004,
   0x3A000000, 0x3C000000, 0x3C000001, 0x3C000002, 0x3E000000, 0x3E000001, 0x40000000, 0x40000001, 0x40000002, 0x42000000, 0x42000001]

/-- The bundle that runs a word of nbits bits numbered as spec/opcode_table.json numbers them. C words and A words have
opcode maps of their own (R89), so one 32-bit pattern may be both, and a word comes here without its slot: it is then the
C word where it is a C row with every operand zero, and the A word otherwise, beside CNOP. DESIGN CHOICE, log 52. -/
def tableBundle (nbits w : Nat) : BitVec 64 × Bool :=
  let first : BitVec 64 := .ofNat 64 (w % 2 ^ nbits)
  let second : BitVec 64 × Bool := (.ofNat 64 (0x02000000 + w % 2 ^ 32 * 2 ^ 32), true)
  if nbits ≤ 32 then
    match decodeFirst first, decodeA (.ofNat 32 w) with
    | .ok _, .ok _ => if cRowWords.contains (w % 2 ^ 32) then (first, false) else second
    | .error _, .ok _ => second
    | _, _ => (first, false)
  else (first, false)

/-- The instruction the decoder reads from a word of the opcode table. -/
def decodeTableWord (nbits w : Nat) : Option Instr :=
  let (b, slotA) := tableBundle nbits w
  match if slotA then decodeA (aWordOf b) else decodeFirst b with
  | .ok i => some i
  | .error _ => none

end Sys2Proof
end

