-- ==== Sys2Proof/Machine/Fetch.lean ====
section
/-! DEFINITION. Fetching a bundle (R75, R136), the wake conditions of a parked thread (R27, R28), and what the context
whose turn it is does next: an interrupt, a due failure, or an instruction of its bundle (R66, R76, R81). -/

namespace Sys2Proof.Machine

/-! ## Fetch -/

/-- A line of instructions comes into a core's instruction cache (R263, R273). -/
def State.icPut (s : State) (core : CoreId) (e : IcEntry) : State :=
  let set := (s.core core).icache.filter fun f => icSet (s.lineAt f.line) == icSet (s.lineAt e.line)
  let (s, v) := s.victim 8 ((List.range set.length)) (List.range set.length)
  let out := v.bind fun n => set[n]?
  s.modCore core fun k => { k with icache := e :: k.icache.filter fun f => some f != out }

/-- The line of instructions a core holds for an address space. -/
def CoreSt.code (k : CoreSt) (asn : BitVec 16) (line : Nat) : Option IcEntry :=
  k.icache.find? fun e => e.asn == asn && e.line == line

/-- A line of instructions as a core reads it: home's bytes, but for those that its L1 holds dirty on an S page (R136, R241). -/
def State.codeBytes (s : State) (core : CoreId) (t : Treat) (line : Nat) : BitVec 1024 :=
  .ofNat 1024 (ofBytes ((List.range 128).map fun i => s.homeSeen core t (line * 128 + i)))

/-- A line of instructions is read, unless the core holds it; no cache holds a line of a U page (R240, R242). -/
def State.readCode (s : State) (core : CoreId) (asn : BitVec 16) (t : Treat) (line : Nat) : State :=
  if t = .U ∨ ((s.core core).code asn line).isSome then s
  else
    let s := ((s.settlePin line).share (some core) line).fromBelow core line
    s.icPut core { asn := asn, line := line, bytes := s.codeBytes core t line }

/-- The bundle at a location: of the line the core holds, or, on a U page, of the line at home (R75, R136). -/
def State.bundleAt (s : State) (core : CoreId) (asn : BitVec 16) (t : Treat) (loc : Nat) : BitVec 64 :=
  match t, (s.core core).code asn (loc / 128) with
  | .U, _ => elem 64 (s.codeBytes core .U (loc / 128)) (loc % 128 / 8)
  | _, some e => elem 64 e.bytes (loc % 128 / 8)
  | _, none => 0

/-- A line of instructions is poisoned for a core: one that its own L1 has written whole, on an S page, is not (R187). -/
def State.codePoisoned (s : State) (core : CoreId) (b : ByteAt) : Bool :=
  s.poisoned b.loc && !(b.t == .S && (s.core core).wroteWhole (b.loc / 128))

/-- The core serves a context's fetch (R282, R295). A member of a fused group that fetches for itself, no fused fetch having come for it,
leaves its group and counts as a split, though its next bundle may agree with the group's: DESIGN CHOICE, log 105 (R35 names no such
split). -/
def State.countFetch (s : State) (c : CtxId) : State :=
  let n := tableGet (s.core (coreOf c)).ctr 0 0 + 1
  (s.modCore (coreOf c) fun k => { k.leaveFused (ctxInCore c) with ctr := tableSet (k.leaveFused (ctxInCore c)).ctr 0 n }).modCtx c
    fun x => { x with fetched := n }

/-- Fetch64 (R93): translate with kind FETCH and read the bundle as one unit, from the line the core holds or then reads.
Without an IFENCE a fetch may return any version the core held; the model's returns the one in its instruction cache, which
keeps a line until another takes its way: DESIGN CHOICE, log 63. A context that fetches for itself is in no fused group (R35). -/
def State.fetch (s : State) (c : CtxId) : Except Stop (State × BitVec 64) := do
  let x := s.ctx c
  let (s, l) ← s.mapRange (s.who c) .fetch x.pc 8
  match l with
  | [] => return (s, 0)
  | b :: _ =>
    if b.isDev then return (s.countFetch c, s.devRead (b.loc - 2 ^ 57))
    else
      let core := coreOf c
      let held : Bool := b.t != .U && ((s.core core).code x.cw.asn (b.loc / 128)).isSome
      let s := if held then s else s.settlePin (b.loc / 128)
      if ¬held ∧ s.codePoisoned core b then throw (poisonAt b.va)
      let s := s.readCode core x.cw.asn b.t (b.loc / 128)
      return (s.countFetch c, s.bundleAt core x.cw.asn b.t b.loc)

/-- A prepare starts a prefetch of its target's line (R130, R131): dropped where hint 3 asks for none, where the target cannot be
translated, is a fabric address or a device register, and at a line that is poisoned. Its walk sets no A bit (R323): DESIGN CHOICE, log 113. -/
def State.prefetchCode (s : State) (hint : BitVec 2) (target : Dword) : State :=
  if hint = 3 then s
  else match s.mapRange (s.who s.cur) .fetch target 8 with
  | .ok (_, b :: _) =>
    if b.isDev ∨ s.codePoisoned (coreOf s.cur) b then s else s.readCode (coreOf s.cur) s.me.cw.asn b.t (b.loc / 128)
  | _ => s

/-! ## Parking (R27-R29) -/

/-- The condition of TOKWAIT (R200). -/
def tokenHolds (kind : BitVec 3) (w y : Dword) : Bool :=
  match kind.toNat with
  | 0 => y.ule w
  | 1 => w == y
  | _ => w != y

/-- A byte of a token as TOKWAIT reads it: on an S page the core's own L1 copy at a narrow scope, and at a wider one
home's byte but for what the core holds dirty (R241). -/
def State.tokenByte (s : State) (core : CoreId) (t : Treat) (narrow : Bool) (loc : Nat) : Byte :=
  if narrow then s.byteFor core t loc else s.homeSeen core t loc

/-- The token word at translated bytes; a device register is read as one (R318). -/
def State.tokenWord (s : State) (core : CoreId) (narrow : Bool) (l : List ByteAt) : Dword :=
  match devReg l with
  | some off => s.devRead off
  | none => match l with
    | b :: _ => if b.isDev then 0 else
        let s := s.settlePin (b.loc / 128)
        .ofNat 64 (ofBytes (l.map fun b => s.tokenByte core b.t narrow b.loc))
    | [] => 0

/-- WAIT's condition: an enabled interrupt is pending, or the wake-event latch is set (R151). -/
def State.waitOver (s : State) (c : CtxId) : Bool :=
  let x := s.ctx c
  (x.cw.ien &&& x.pending s.dev.time) != 0 || x.latch

/-- An access waits for the notice of its ticket, which has not come (R211, R344). -/
def State.noticeDue (s : State) (e : TkEntry) : Bool :=
  (e.state == .ticket || e.state == .blocked) &&
  !(s.niu.flows.any fun f => f.core == e.packet.srcCore && f.dest == e.packet.dest && f.notes.any fun n => n.1 == e.ticket)

/-- TKWAIT's condition: no entry of the thread for that ticket is without its notice (R211). -/
def State.ticketReady (s : State) (c : CtxId) (t : BitVec 16) : Bool :=
  !((s.core (coreOf c)).tk.any fun e =>
    (e.2.kind == .read || e.2.kind == .posted) && !e.2.squashed && e.2.ctx == ctxInCore c && e.2.ticket == t && s.noticeDue e.2)

/-- Whether a parked context's wake condition holds (R27). A token whose line has become poisoned while the thread was parked wakes it no
sooner than its condition does: DESIGN CHOICE, log 80 (R28 against R393). -/
def State.wakes (s : State) (c : CtxId) : Bool :=
  match (s.ctx c).park with
  | none => true
  | some .wait => s.waitOver c
  | some (.until t) => t.ule s.dev.time
  | some (.token va narrow kind y) =>
    match s.mapRange (s.who c) .load va 8 with
    | .ok (s, l) => tokenHolds kind (s.tokenWord (coreOf c) narrow l) y
    | .error _ => false
  | some (.marker k m u) => u.ult (tableGet (s.skein k).markers m.toNat Marker.reset).p
  | some (.tkwait t) => s.ticketReady c t
  | some (.ticket n) =>
    match (s.core (coreOf c)).tk.find? fun e => e.1 == n with
    | some e => e.2.state == .done || (e.2.state == .noticeFail && !e.2.replaying)
    | none => true

/-- Nanoseconds after which an unreported failure is due (R197). -/
def failDelay : Dword := 1000000

/-- A posted-store failure is due: 1 ms has passed since its notice (R197). -/
def State.isDue (s : State) (f : Fail) : Bool := f.due || (f.at_ + failDelay).ule s.dev.time
/-- Some failure of a context is due. -/
def State.failDue (s : State) (c : CtxId) : Bool := (s.ctx c).fails.any s.isDue

/-- An atomic to the fabric or to a U page has been sent and has not retired, nor parked on a ticket: an interrupt waits for it (R299). -/
def State.atomicSent (s : State) (c : CtxId) : Bool :=
  (s.ctx c).asked || (s.core (coreOf c)).tk.any fun e =>
    e.2.kind == .read && !e.2.squashed && !e.2.told && e.2.ctx == ctxInCore c &&
      (e.2.packet.kind == .amo || e.2.packet.kind == .cas)

/-- A bundle that a stop or an interrupt lets finish: its step 1 is done, or it waits for a sent atomic (R299). -/
def State.settling (s : State) (c : CtxId) : Bool :=
  (s.ctx c).st == .running && ((s.ctx c).phase == .second || ((s.ctx c).phase == .first && s.atomicSent c))

/-- A gang stop holds the context: its core renames no user-mode bundle until the release (R314). DEDUCED, log 48. -/
def State.gangStops (s : State) (c : CtxId) : Bool :=
  s.gang && (s.ctx c).mode == 0 && ((s.ctx c).st == .running || (s.ctx c).st == .parked) && !s.settling c

/-- An atomic of a parked or waiting thread has its answer, which its replay brought, and has not retired. -/
def State.atomicAnswered (s : State) (c : CtxId) : Bool :=
  (s.core (coreOf c)).tk.any fun e =>
    e.2.kind == .read && !e.2.squashed && e.2.ctx == ctxInCore c && e.2.state == .done &&
      (e.2.packet.kind == .amo || e.2.packet.kind == .cas)

/-- A bundle that a drain lets finish: one whose step 1 is done, or, unless the drain has abandoned its atomic, a settling one, and one whose
atomic has been performed and waits, or is parked, for its answer, which has come (R299, R389). -/
def State.finishing (s : State) (c : CtxId) : Bool :=
  ((s.ctx c).st == .running && (s.ctx c).phase == .second) ||
  (!s.power.abandoned.contains c && (s.settling c || (s.atomicAnswered c &&
    ((s.ctx c).st == .parked || ((s.ctx c).st == .running && (s.ctx c).phase == .first)))))

/-- A gang stop has still to let a user bundle of some context finish, for which the snapshots wait; they wait for no copy unit in
progress (R314): DESIGN CHOICE, log 92. -/
def State.gangSettles (s : State) : Bool := s.listedCtxs.any fun c => (s.ctx c).mode == 0 && s.settling c

/-- A power-fail drain holds the context (R389). -/
def State.drainStops (s : State) (c : CtxId) : Bool := s.power.drain != .none && !s.finishing c

/-! ## What happens next -/

/-- What step does with the context whose turn it is. -/
inductive Choice where
  /-- nothing: the turn passes -/
  | idle
  /-- an event of the part in this context -/
  | event (e : Event)
  /-- an instruction of the bundle in hand -/
  | run (i : Instr) (s : State)
  /-- a pattern that is no instruction (R91): the word cw.tval reports -/
  | illegal (w : Dword) (s : State)
  /-- a machine check that waited for the thread to run -/
  | check
  /-- the bundle could not be fetched -/
  | fetchStop (e : Stop)
  /-- the cycle is over: the arbiters choose anew -/
  | cycle
  deriving Repr

/-- The transfer step 3 performs for a C word whose step 1 is not executed (R76, R79). -/
def xferOf (w : BitVec 32) : Xfer :=
  match decodeC w with
  | .ok (.br b p n) => .br b p n
  | .ok (.call b p n) => .call b p n
  | .ok .eret => .eret
  | .ok .uret => .uret
  | _ => .next

/-- Step 2: the A word (R76). -/
def chooseA (s : State) (w : BitVec 64) : Choice :=
  match decodeA (aWordOf w) with
  | .ok i => .run i s
  | .error _ => .illegal ((aWordOf w).setWidth 64) s

/-- Step 1, or a long instruction (R76, R80). -/
def chooseFirst (s : State) (w : BitVec 64) : Choice :=
  if isLong w then
    match decodeLong w with
    | .ok i => .run i s
    | .error _ => .illegal w s
  else if isSolo (cWordOf w) ∧ aWordOf w ≠ 0 then .illegal ((aWordOf w).setWidth 64) s
  else match decodeC (cWordOf w) with
    | .ok i => .run i s
    | .error _ => .illegal ((cWordOf w).setWidth 64) s

/-- The context may rename a bundle: it has a slot left of those the arbiter gave it in its latest cycle (R281). -/
def State.mayRename (s : State) (c : CtxId) : Bool :=
  (s.core (coreOf c)).slots.any fun e => e.1 == ctxInCore c && 0 < e.2

/-- A context of the core has renamed a bundle. -/
def CoreSt.useSlot (k : CoreSt) (n : BitVec 3) : CoreSt :=
  { k with slots := k.slots.map fun e => if e.1 == n then (e.1, e.2 - 1) else e }

/-- A context stands at a bundle that it could fetch and rename now. -/
def State.couldRename (s : State) (c : CtxId) : Bool :=
  (s.ctx c).st == .running && (s.ctx c).phase == .fetch && !s.gangStops c && !s.drainStops c && (s.fetch c).isOk

/-- A core's arbiter has made its choice in the present cycle. -/
def State.choiceMade (s : State) (core : CoreId) : Bool := s.cyc < (s.core core).nextChoice

/-- Nothing more will be renamed in the cycle: every arbiter has chosen that has a context at a bundle, and no context chosen has a slot left
that it could use. The cycle then ends: DESIGN CHOICE, log 15. -/
def State.cycleOver (s : State) : Bool := !s.turns.any fun c => (s.mayRename c || !s.choiceMade (coreOf c)) && s.couldRename c

/-- A bundle is renamed: its traps use the vectors of now (R55). -/
def Ctx.rename (x : Ctx) (k : CoreSt) (w : BitVec 64) : Ctx := { x with bundle := w, trapTo := k.trapvec, fwTo := k.fwvec }

/-- The bundle is in hand; enter it at slot C or slot A (R76). -/
def enterBundle (s : State) (w : BitVec 64) : Choice :=
  if s.me.slotA then
    let s := s.modMe fun x => { x.rename s.myCore w with phase := .second, xfer := xferOf (cWordOf w) }
    if isLong w then .illegal w s else chooseA s w
  else chooseFirst (s.modMe fun x => { x.rename s.myCore w with phase := .first }) w

/-- A running context: at a boundary a machine check that waited for it, an enabled interrupt, then a due failure, then the bundle (R66,
R81); in a waiting step 1 an interrupt squashes the bundle (R299), and in a drain none is taken (R389). A failure that is due at an
arrival at slot A, where cw.epc cannot name an unexecuted bundle (R197), stays due until the next whole bundle's boundary: DESIGN CHOICE, log 70. A bundle is renamed as it is
fetched, in a slot that the arbiter gave; without one it waits for the arbiter's choice in the cycle, or for the next cycle (R281). -/
def chooseRunning (s : State) : Choice :=
  let x := s.me
  match x.phase with
  | .second => chooseA s x.bundle
  | .first =>
    if s.atomicSent s.cur ∨ s.power.drain ≠ .none then chooseFirst s x.bundle
    else if x.checks ≠ [] then .check
    else if (s.takeable s.cur).isSome then .event (.takeInterrupt s.cur)
    else chooseFirst s x.bundle
  | .fetch =>
    if x.checks ≠ [] then .check
    else if (s.takeable s.cur).isSome then .event (.takeInterrupt s.cur)
    else if s.failDue s.cur ∧ ¬x.slotA then .event (.deferredRemoteStoreTrap s.cur)
    else match s.fetch s.cur with
      | .ok (t, w) =>
        if s.mayRename s.cur then enterBundle (t.modCore (coreOf t.cur) fun k => k.useSlot (ctxInCore t.cur)) w
        else if ¬s.choiceMade (coreOf s.cur) then .event (.issueArbitrate (coreOf s.cur))
        else if s.cycleOver then .cycle
        else .idle
      | .error e => .fetchStop e

/-- The drain record's header is still to be written. -/
def Drain.writes : Drain → Bool
  | .writing _ => true
  | .none => false
  | .stopping => false
  | .timedOut => false
  | .halted => false

/-- What the context whose turn it is does next (R10, R27-R29). A drain holds every context (R389) and writes its
record once the last bundle has retired, a gang stop holds each user context but for an interrupt where the gang-stop interrupt is enabled (R314). -/
def State.choose (s : State) : Choice :=
  let x := s.me
  if s.power.drain.writes ∨ (s.power.drain = .timedOut ∧ ¬s.listedCtxs.any s.finishing) then .event .pfailStopTimeout
  else if s.drainStops s.cur then .idle
  else if s.dev.gsSnap ∧ ¬s.gangSettles then .event .gangStopTrigger
  else if s.gangStops s.cur then
    if x.cw.ien.getLsbD 3 ∧ (s.takeable s.cur).isSome then .event (.takeInterrupt s.cur) else .idle
  else match x.st with
  | .idle => .idle
  | .starting => .event (.threadStart s.cur)
  | .exiting => .event (.exitDrainComplete s.cur)
  | .parked =>
    if s.wakes s.cur then .event (.parkedWake s.cur)
    else if (s.takeable s.cur).isSome then .event (.takeInterrupt s.cur)
    else if s.failDue s.cur then .event (.deferredRemoteStoreTrap s.cur)
    else match x.stores with
      | [] => .idle
      | .amax _ _ _ :: _ => .event (.amaxMerge s.cur 0)
      | _ :: _ => .event (.storePerform s.cur 0)
  | .running => chooseRunning s

/-- A fetch that fails: the trap names the slot the bundle was to be entered at; data poison names slot 0 (R132, R148,
R362). A machine check of the walk names slot 0 too, for which the pseudocode
sets no slot: DESIGN CHOICE, log 72. -/
def State.fetchStop (s : State) (e : Stop) : Out :=
  let trap := fun (s : State) (x : Exc) => (s.enterTrap s.cur x (s.me.slotA && x.code != 0x0C)).yieldTurn
  match e with
  | .trap x => .next (trap s x)
  | .dirtyRefused x a p => .next (trap (s.putPte a p) x)
  | .machine d u a => .next (s.machineCheck s.cur d u a false).yieldTurn
  | .wait => .next s.stall
  | .fault f => .fault f

end Sys2Proof.Machine
end

