-- ==== Sys2Proof/Machine/Operands.lean ====
section
/-! DEFINITION. Operand forms: memory with displacement (R83), bit-field positions (R142), immediates, vector elements
and their governing masks (R45, R164), types (R87). -/

namespace Sys2Proof.Machine

/-- A CM address: x[base] + SignExtend(disp, 12) × size (R83). -/
def Ctx.cmAddr (c : Ctx) (base : Reg) (disp : BitVec 12) (size : Nat) : Dword :=
  c.getX base + sext disp * .ofNat 64 size

/-- The length of BFX, BFXU and BFI: len − 1 = h × 32 + l (R142). -/
def fieldLen (l : BitVec 5) (h : BitVec 1) : Nat := h.toNat * 32 + l.toNat + 1

/-- A shift amount of a doubleword: b<5:0> (R137). -/
def amount6 (b : Dword) : Nat := b.toNat % 64
/-- A shift amount of a word: b<4:0> (R137). -/
def amount5 (b : Dword) : Nat := b.toNat % 32

/-- The instruction word or bundle that cw.tval reports for the C instruction or long instruction in hand (R65). -/
def Ctx.instrWord (c : Ctx) : Dword :=
  if c.bundle.getLsbD 31 then c.bundle else c.bundle &&& 0xFFFFFFFF

/-! ## Vectors (R45, R164) -/

/-- The element width of a type code (R164). -/
def widthOf (ty : Nat) : Nat :=
  match ty with
  | 0 => 8 | 1 => 16 | 2 => 32 | 3 => 64 | 4 => 16 | 5 => 16 | 6 => 32 | 7 => 64 | 8 => 8 | 9 => 8 | _ => 4

/-- The element count of a width (R164). -/
def countOf (w : Nat) : Nat := 1024 / w

/-- An element as a number. -/
def elemNat (w : Nat) (v : VReg) (i : Nat) : Nat := v.toNat / 2 ^ (i * w) % 2 ^ w

/-- Element i takes part under a mask (R45). -/
def active (k : KReg) (i : Nat) : Bool := k.getLsbD i

/-- The vector whose element i is new i where the mask has it, else the old one (R45, R164). -/
def maskedBuild (w n : Nat) (k : KReg) (old : VReg) (new : Nat → Nat) : VReg :=
  build w n fun i => .ofNat w (if active k i then new i else elemNat w old i)

/-- Elements n and above of a register, kept. -/
def keepAbove (w n : Nat) (old low : VReg) : VReg := (old >>> (n * w) <<< (n * w)) ||| low

end Sys2Proof.Machine
end

