-- ==== Sys2Proof/Machine/Flags.lean ====
section
/-! DEFINITION. Conditions (R144), the floating-point flags of cw.fpctl (R60, R166) and the rounding mode in force
(R165). -/

namespace Sys2Proof.Machine

/-- Cond(cc, a, y) (R144). -/
def cond (cc : BitVec 4) (a y : Dword) : Bool :=
  match cc.toNat with
  | 0 => a == y
  | 1 => a != y
  | 2 => a.slt y
  | 3 => !a.slt y
  | 4 => !y.slt a
  | 5 => y.slt a
  | 6 => a.ult y
  | 7 => !a.ult y
  | 8 => !y.ult a
  | 9 => y.ult a
  | 10 => (a &&& y) != 0
  | _ => (a &&& y) == 0

/-- The five sticky flags, in cw.fpctl's order from bit 4 (R60). -/
structure FpFlags where
  nv : Bool
  dz : Bool
  of : Bool
  uf : Bool
  nx : Bool
  deriving DecidableEq, Repr

/-- No flag. -/
def noFlags : FpFlags := { nv := false, dz := false, of := false, uf := false, nx := false }
/-- The union of two sets of flags (R114, R166). -/
def FpFlags.union (a b : FpFlags) : FpFlags :=
  { nv := a.nv || b.nv, dz := a.dz || b.dz, of := a.of || b.of, uf := a.uf || b.uf, nx := a.nx || b.nx }
/-- The flags' bits in cw.fpctl (R60). -/
def FpFlags.word (f : FpFlags) : Dword :=
  .ofNat 64 ((if f.nv then 16 else 0) + (if f.dz then 32 else 0) + (if f.of then 64 else 0) + (if f.uf then 128 else 0) +
    (if f.nx then 256 else 0))

/-- FP instructions set flags and never clear them (R60). -/
def Ctx.raiseFlags (c : Ctx) (f : FpFlags) : Ctx := { c with cw := { c.cw with fpctl := c.cw.fpctl ||| f.word } }

/-- Rounding modes (R60, R165). -/
inductive Rm where
  | rne
  | rtz
  | rup
  | rdn
  | rmm
  deriving DecidableEq, Repr

/-- The mode a code selects; cw.fpctl.rm never holds 5 to 7 (R60). -/
def Rm.ofCode (n : Nat) : Rm :=
  match n with
  | 1 => .rtz
  | 2 => .rup
  | 3 => .rdn
  | 4 => .rmm
  | _ => .rne

/-- cw.fpctl.rm. -/
def Ctx.rm (c : Ctx) : Rm := Rm.ofCode (c.cw.fpctl.toNat % 8)
/-- A static rounding field; 7 selects cw.fpctl.rm (R165). -/
def Ctx.rmOf (c : Ctx) (r : BitVec 3) : Rm := if r = 7 then c.rm else Rm.ofCode r.toNat

end Sys2Proof.Machine
end

