-- ==== Sys2Proof/Machine/Control.lean ====
section
/-! DEFINITION. Padding, prepares, transfers, traps and returns, waits, time, IFENCE (R90, R130-R136, R146-R154). -/

namespace Sys2Proof.Machine

/-- Step 1 changes the context and names no transfer. -/
def State.doneC (s : State) (f : Ctx → Ctx) : Out := .next ((s.modMe f).endC .next)

/-- A C instruction that needs a mode raises cause 0x02 below it (R51, R93: RequireMode). -/
def State.needMode (s : State) (m : Nat) (k : Out) : Out :=
  if s.me.mode.toNat < m then .next (s.trapC (exc 2 s.me.instrWord)) else k

/-- CNOP (R90). -/
def execCnop (s : State) : Out := .next (s.endC .next)

/-- PAUSE (R146, R282): the context ranks last in its class for the next 16 cycles. -/
def execPause (s : State) : Out := s.doneC fun c => { c with pausedTill := s.cyc + 16 }

/-- PREP (R130, R84, R131). -/
def execPrep (b : BitVec 3) (o : BitVec 20) (h : BitVec 2) (s : State) : Out :=
  let target := s.me.pc + sext o * 8
  (s.prefetchCode h target).doneC fun c => c.setB b (.to target true)

/-- LPREP (R130): SignExtend(imm48 × 8, 51). -/
def execLprep (b : BitVec 3) (h : BitVec 2) (i : BitVec 48) (s : State) : Out :=
  let target := sext (i ++ (0 : BitVec 3))
  .next ((s.prefetchCode h target).modMe fun c => c.setB b (.to target true)).endLong

/-- PREPX (R130). -/
def execPrepx (d a : Reg) (h : BitVec 2) (s : State) : Out :=
  (s.prefetchCode h (bundleAddr (s.getX a))).doneC fun c => c.setB (low3 d) (.to (c.getX a) true)

/-- BCLR (R130). -/
def execBclr (d a : Reg) (s : State) : Out := s.doneC fun c => c.setB (low3 d) (.to (c.getX a) false)

/-- MOVXB (R130). -/
def execMovxb (d a : Reg) (s : State) : Out := s.doneC fun c => c.setX d (c.getB (low3 a)).image

/-- BR: step 1 checks the valid bit, step 3 transfers (R77, R132). -/
def execBr (b p : BitVec 3) (n : BitVec 1) (s : State) : Out :=
  if (s.me.getB b).valid then .next (s.endC (.br b p n)) else .next (s.trapC (exc 3 (zext b)))

/-- CALL (R77, R132). -/
def execCall (b p : BitVec 3) (n : BitVec 1) (s : State) : Out :=
  if (s.me.getB b).valid then .next (s.endC (.call b p n)) else .next (s.trapC (exc 3 (zext b)))

/-- TRAP completes in step 1 and then raises the system call at slot A (R79, R147). -/
def execTrap (code : BitVec 15) (s : State) : Out := .next (s.trapA (exc 0x0F (zext code)))

/-- BRK raises the breakpoint at slot C (R147). -/
def execBrk (code : BitVec 15) (s : State) : Out := .next (s.trapC (exc 0x0E (zext code)))

/-- ERET: supervisor (R51); the return is made in step 3 (R148). -/
def execEret (s : State) : Out := s.needMode 1 (.next (s.endC .eret))

/-- URET: user mode with an upcall active; the return is made in step 3 (R149). -/
def execUret (s : State) : Out :=
  if s.me.mode ≠ 0 ∨ ¬s.me.cw.upctl.getLsbD 1 then .next (s.trapC (exc 1 s.me.instrWord)) else .next (s.endC .uret)

/-- Park the running context; its bundle waits in step 1 (R27). A fused group is left (R35). -/
def State.park (s : State) (p : Park) : State :=
  ((s.modMe fun c => { c with st := .parked, park := some p }).leaveFused s.cur).yieldTurn

/-- Completion of WAIT and HALT clears the wake-event latch (R150, R151). -/
def Ctx.endWait (c : Ctx) : Ctx := { c with latch := false, phase := .second, xfer := .next }

/-- What an instruction asks of the bundle's address space at a fetch: the instructions the core holds are dropped
(R22, R135). DEDUCED, log 55. -/
def State.dropCode (s : State) (core : CoreId) (asn : BitVec 16) : State :=
  s.modCore core fun k => { k with icache := k.icache.filter fun e => e.asn != asn }

/-- Posted fabric stores of a resident thread, still unacknowledged (R189). -/
def State.posted (s : State) (c : CtxId) : List (Nat × TkEntry) :=
  (s.core (coreOf c)).tk.filter fun e => e.2.kind == .posted && e.2.ctx == ctxInCore c

/-- Every store of the thread has been performed: its queue is empty and no posted store is outstanding. -/
def State.allPerformed (s : State) (c : CtxId) : Bool := (s.ctx c).stores.isEmpty && (s.posted c).isEmpty

/-- WAIT (R151): it completes, or the thread parks. -/
def execWait (s : State) : Out :=
  if s.waitOver s.cur then .next (s.modMe Ctx.endWait) else .next (s.park .wait)

/-- HALT: firmware mode; it waits as WAIT does (R152). -/
def execHalt (s : State) : Out :=
  s.needMode 3 (if s.waitOver s.cur then .next (s.modMe Ctx.endWait) else .next (s.park .wait))

/-- IFENCE: older stores of the thread are performed, then the core drops what it holds of the address space (R135). -/
def execIfence (s : State) : Out :=
  let s := s.drain s.cur
  if ¬(s.posted s.cur).isEmpty then .next s.stall
  else .next (((s.dropCode (coreOf s.cur) s.me.cw.asn).leaveFused s.cur).endC .next)

/-- RDTIME (R153). -/
def execRdtime (d : Reg) (s : State) : Out := s.doneC fun c => c.setX d s.dev.time

/-- WAITUNTIL (R154). -/
def execWaituntil (d a : Reg) (s : State) : Out :=
  if s.dev.time.ult (s.me.getX a) then .next (s.park (.until (s.me.getX a)))
  else s.doneC fun c => c.setX d s.dev.time

end Sys2Proof.Machine
end

