-- ==== Sys2Proof/Machine/Fabric.lean ====
section
/-! DEFINITION. The source side of a fabric access: addresses (R188), routes (R347, R348, R351), sending (R189, R254,
R345, R352), and what the issuing thread does until its access is answered (R29, R63, R189). -/

namespace Sys2Proof.Machine

/-! ## Addresses (R188) -/

/-- Bit 63 marks a fabric address; firmware mode has none (R52, R94). -/
def Ctx.isFabric (c : Ctx) (va : Dword) : Bool := va.getLsbD 63 && c.mode != 3

/-- Bits [62:50]: the package (R347). -/
def fabPkg (va : Dword) : PkgId := va.extractLsb' 50 13
/-- Bits [49:0]: the window offset (R339). -/
def fabOff (va : Dword) : BitVec 50 := va.extractLsb' 0 50
/-- The whole access lies in one 128-byte line (R188). -/
def inOneLine (va : Dword) (len : Nat) : Bool := va.toNat % 128 + len ≤ 128

/-- The fabric access fault (R188). -/
def fabricFault (va : Dword) : Exc := excD 9 2 va

/-! ## Routes (R347, R348, R351) -/

def coordA (n : Nat) : Nat := n % 2
def coordB (n : Nat) : Nat := n / 2 % 4
def coordC (n : Nat) : Nat := n / 8 % 32
def coordD (n : Nat) : Nat := n / 256 % 32
def mkPkg (a b c d : Nat) : Nat := a + 2 * b + 8 * c + 256 * d

/-- One leg round a ring, the shorter way, the positive way on a tie. -/
def legRing (at_ : Nat → Nat) (ring a b plus : Nat) : List (Nat × Nat) :=
  let d := (b + ring - a) % ring
  if 2 * d ≤ ring then (List.range d).map fun i => (at_ ((a + i) % ring), plus)
  else (List.range (ring - d)).map fun i => (at_ ((a + ring - i) % ring), plus + 1)

/-- One leg along the line of dimension B. -/
def legLine (at_ : Nat → Nat) (a b plus : Nat) : List (Nat × Nat) :=
  if a ≤ b then (List.range (b - a)).map fun i => (at_ (a + i), plus)
  else (List.range (a - b)).map fun i => (at_ (a - i), plus + 1)

/-- The minimal path in dimension order C, D, B, A: the hops, each a package and the port it leaves by (R351). -/
def minPath (ringC ringD a b : Nat) : List (Nat × Nat) :=
  legRing (fun c => mkPkg (coordA a) (coordB a) c (coordD a)) ringC (coordC a) (coordC b) 4 ++
  legRing (fun d => mkPkg (coordA a) (coordB a) (coordC b) d) ringD (coordD a) (coordD b) 6 ++
  legLine (fun x => mkPkg (coordA a) x (coordC b) (coordD b)) (coordB a) (coordB b) 2 ++
  (if coordA a = coordA b then [] else [(mkPkg (coordA a) (coordB b) (coordC b) (coordD b), 0)])

/-- The package across the A port. -/
def acrossA (n : Nat) : Nat := if n % 2 = 0 then n + 1 else n - 1

/-- A package number of the fabric: its ring coordinates lie within the configured sizes (R348, R351). -/
def Niu.names (u : Niu) (n : Nat) : Bool := coordC n < u.ringC && coordD n < u.ringD

/-- The package beside one: the one that its port p leads to (R347, R348). PRESUMED, log 39. -/
def beside (ringC ringD n p : Nat) : Nat :=
  let (a, b, c, d) := (coordA n, coordB n, coordC n, coordD n)
  match p with
  | 0 => mkPkg (1 - a) b c d
  | 1 => mkPkg (1 - a) b c d
  | 2 => mkPkg a (b + 1) c d
  | 3 => mkPkg a (b - 1) c d
  | 4 => mkPkg a b ((c + 1) % ringC) d
  | 5 => mkPkg a b ((c + ringC - 1) % ringC) d
  | 6 => mkPkg a b c ((d + 1) % ringD)
  | _ => mkPkg a b c ((d + ringD - 1) % ringD)

/-- The port of the other direction of a dimension. -/
def otherWay (p : Nat) : Nat := if p % 2 = 0 then p + 1 else p - 1

/-- The receiving end of a hop: the package it leads to, and the port it comes in by. -/
def Niu.farEnd (u : Niu) (h : PkgId × BitVec 3) : PkgId × BitVec 3 :=
  (.ofNat 13 (beside u.ringC u.ringD h.1.toNat h.2.toNat), .ofNat 3 (otherWay h.2.toNat))

/-- A route crosses a port, at either end of a link (R356). -/
def Niu.crosses (u : Niu) (route : List (PkgId × BitVec 3)) (n : PkgId) (p : BitVec 3) : Bool :=
  route.any fun h => h == (n, p) || u.farEnd h == (n, p)

/-- The route of a response: its request's, backwards (R350). -/
def Niu.reverse (u : Niu) (route : List (PkgId × BitVec 3)) : List (PkgId × BitVec 3) := route.reverse.map u.farEnd

/-- A hop can be taken: neither end of its link is known Failed, and a port of this package is connected (R351); a port that trains holds
what is queued for it. -/
def Niu.usable (u : Niu) (h : Nat × Nat) : Bool :=
  !(u.failedPorts.any fun e => u.crosses [(.ofNat 13 h.1, .ofNat 3 h.2)] e.1 e.2.1) &&
  (h.1 != u.pkgNum.toNat || ((u.port h.2).state != .absent && (u.port h.2).state != .failed))

/-- A package drawn from a partition's (R351). -/
def drawnFrom (l : List PkgId) (me : PkgId) (draw : Nat) : PkgId := l.getD (Config.valiant draw % l.length) me

/-- The candidates of R351 in their order; draw numbers the Valiant draws from the partition, of which there are none without one. -/
def Niu.candidates (u : Niu) (part : List PkgId) (dest : Nat) (tt : Bool) (draw : Nat) : List (List (Nat × Nat)) :=
  let me := u.pkgNum.toNat
  let go := minPath u.ringC u.ringD
  let one := [go me dest]
  if tt then one
  else
    one ++ ((List.range (if part.isEmpty then 0 else 4)).map fun i =>
      let v := (drawnFrom part u.pkgNum (draw + i)).toNat
      go me v ++ go v dest) ++
    [(me, 0) :: go (acrossA me) (acrossA dest) ++ [(acrossA dest, 1)]]

/-- The first of the cheapest paths; packets leave at once, so the cost is the hop count (R351). DESIGN CHOICE, log 51. -/
def cheapest : List (List (Nat × Nat)) → Option (List (Nat × Nat))
  | [] => none
  | a :: r =>
    match cheapest r with
    | some b => if b.length < a.length then some b else some a
    | none => some a

/-- The packages of this one's partition: none, where it belongs to none (R338). -/
def State.partition (s : State) : List PkgId := if s.dev.partId = 0 then [] else Config.partition s.dev.partId

/-- Choose a route (R351). -/
def State.chooseRoute (s : State) (dest : PkgId) (tt : Bool) : Option (List (PkgId × BitVec 3)) :=
  let u := s.niu
  if ¬u.names dest.toNat then none
  else
    let ok := (u.candidates s.partition dest.toNat tt s.free).filter fun p => p.all u.usable
    (cheapest ok).map fun p => p.map fun h => (.ofNat 13 h.1, .ofNat 3 h.2)

/-! ## Flows -/

/-- Fabric accesses of a core: its ticket table's entries and its copy queues' units, with their owners; a unit of a queue that was
emptied stands before its queue's. -/
def CoreSt.accesses (k : CoreSt) : List (FabOwner × TkEntry) :=
  (k.tk.map fun e => (FabOwner.entry (.ofNat 5 e.1), e.2)) ++ (k.ghosts.map fun e => (FabOwner.queue e.1, e.2)) ++
  (List.range 4).filterMap fun q =>
    match (k.cq.toList.getD q []).head? with
    | some (.cmd c) => c.unit.map fun u => (.queue (.ofNat 2 q), u)
    | _ => none

/-- An access is outstanding: sent, or replayed, and not answered. -/
def TkEntry.outstanding (e : TkEntry) : Bool := e.state == .sent || e.replaying

/-- The outstanding packets of a flow. -/
def State.outstanding (s : State) (core : CoreId) (dest : PkgId) : List Packet :=
  ((s.core core).accesses.filter fun e => e.2.outstanding && e.2.packet.dest == dest).map (·.2.packet)

def State.flow (s : State) (core : CoreId) (dest : PkgId) : Option Flow :=
  s.niu.flows.find? fun f => f.core == core && f.dest == dest
def State.setFlow (s : State) (f : Flow) : State :=
  s.modNiu fun u => { u with flows := f :: u.flows.filter fun g => !(g.core == f.core && g.dest == f.dest) }
/-- A flow with nothing yet known of it. -/
def Flow.new (core : CoreId) (dest : PkgId) : Flow := { core := core, dest := dest, route := [], notes := [], served := [], lost := [] }
def State.flowOr (s : State) (core : CoreId) (dest : PkgId) : Flow := (s.flow core dest).getD (Flow.new core dest)

/-- An offset lies in a valid TTWIN range (R340, R352). -/
def State.inTtwin (s : State) (off : Nat) : Bool :=
  (List.range 8).any fun w =>
    let a := (s.dev.ttwin.toList.getD (2 * w) 0).toNat
    let size := (s.dev.ttwin.toList.getD (2 * w + 1) 0).toNat
    let base := a / 4096 * 4096 % 2 ^ 50
    a % 2 == 1 && base ≤ off && off < base + size

/-- Whether a core may send a request to a package now: no BUSY holds it (R345), its flow's outstanding requests have its
class (R352), and no lost request of the flow waits for the loss log (R357, R358). -/
def State.maySend (s : State) (core : CoreId) (dest : PkgId) (tt : Bool) : Bool :=
  !(s.niu.busy.any fun b => b.core == core && b.dest == dest && (b.held || b.backoff)) &&
  (s.outstanding core dest).all (·.tt == tt) && (s.flowOr core dest).lost.isEmpty

/-- Count a packet injected for a core (R315). -/
def State.countSent (s : State) (core : CoreId) : State := s.modCore core fun k => { k with sent := k.sent + 1 }

/-- The route of a flow's next packet: the one it holds while it has requests outstanding, else one newly chosen; with none left the flow
holds none (R351). -/
def State.routeFor (s : State) (q : Packet) : State × Option (List (PkgId × BitVec 3)) :=
  let f := s.flowOr q.srcCore q.dest
  let fresh := (s.outstanding q.srcCore q.dest).isEmpty || f.route.isEmpty
  let route := if fresh then s.chooseRoute q.dest q.tt else some f.route
  let s := if fresh && !q.tt then { s with free := s.free + 4 } else s
  match route with
  | none => (s.setFlow { f with route := [] }, none)
  | some r => (s.setFlow { f with route := r }, some r)

/-- Put a request or a replay on its way: to the package's own NIU, to the fabric along the flow's route, or, where no route is left,
answered REFUSED here (R351). Answers the packet as sent, which has no route where it was not. -/
def State.inject (s : State) (q : Packet) (own : Packet → Event) (far : Packet → Output) : State × Packet :=
  if q.dest = s.niu.pkgNum then ((s.countSent q.srcCore).post (own q), q)
  else match s.routeFor q with
  | (s, none) => (s.post (.fabricResponse q.srcCore q.owner .refused), { q with route := [] })
  | (s, some r) =>
    let q := { q with route := r }
    ((s.countSent q.srcCore).emit (far q), q)

/-- A request on its way. -/
def State.sendRequest (s : State) (q : Packet) : State × Packet := s.inject q .fabricRequest .request

/-! ## The ticket table (R189, R311) -/

/-- The lowest-numbered free entry. -/
def CoreSt.freeEntry (k : CoreSt) : Option Nat :=
  (List.range Config.ticketEntries).find? fun n => !(k.tk.any fun e => e.1 == n)

/-- A new access, sent. -/
def TkEntry.new (kind : TkKind) (ctx : BitVec 3) (pc addr : Dword) (q : Packet) (seq : Nat) : TkEntry :=
  { kind := kind, ctx := ctx, pc := pc, state := .sent, fwd := none, ticket := 0, addr := addr, packet := q, answer := none
    replaying := false, told := false, squashed := false, noted := none, seq := seq }

def State.setTk (s : State) (core : CoreId) (n : Nat) (e : TkEntry) : State :=
  s.modCore core fun k => { k with tk := tableSet k.tk n e }
def State.freeTk (s : State) (core : CoreId) (n : Nat) : State :=
  s.modCore core fun k => { k with tk := k.tk.filter fun e => e.1 != n }

/-- The packet of an access of a context. -/
def State.packet (s : State) (c : CtxId) (kind : FabKind) (va : Dword) (len : Nat) (mask : KReg) (data : VReg)
    (op : BitVec 4) : Packet :=
  { srcPkg := s.niu.pkgNum, srcCore := coreOf c, owner := .entry 0, dest := fabPkg va, off := fabOff va, kind := kind
    len := .ofNat 8 len, mask := mask, data := data, op := op, partId := s.dev.partId
    tt := s.inTtwin (fabOff va).toNat, poison := false, route := [] }

/-- Take an entry and send (R189); none where no entry is free or the flow may not send now. -/
def State.launchAccess (s : State) (c : CtxId) (kind : TkKind) (va : Dword) (q : Packet) : Option State :=
  let core := coreOf c
  let k := s.core core
  match k.freeEntry with
  | none => none
  | some n =>
    if s.maySend core q.dest q.tt then
      let q := { q with owner := .entry (.ofNat 5 n) }
      let (s, q) := s.sendRequest q
      some ((s.setTk core n (.new kind (ctxInCore c) (s.ctx c).pc va q k.tkSeq)).modCore core fun k => { k with tkSeq := k.tkSeq + 1 })
    else none

/-- The entry of a context's read-type access that is being executed again (R29, R211): of the same bundle address, with the same address,
kind, length, mask, data and operation. The manual does not say how it is matched: DESIGN CHOICE, log 79. -/
def State.ownEntry (s : State) (c : CtxId) (va : Dword) (q : Packet) : Option (Nat × TkEntry) :=
  (s.core (coreOf c)).tk.find? fun e =>
    e.2.kind == .read && e.2.ctx == ctxInCore c && !e.2.squashed && e.2.pc == (s.ctx c).pc && e.2.addr == va &&
      e.2.packet.kind == q.kind && e.2.packet.len == q.len && e.2.packet.mask == q.mask && e.2.packet.data == q.data && e.2.packet.op == q.op

/-! ## The upcall (R63) -/

/-- Upcall entry: cw.uepc, cw.uinfo, uact, and on to cw.uvec. -/
def Ctx.upcall (c : Ctx) (t : BitVec 16) : Ctx :=
  { c with cw := { c.cw with uepc := resumeAt c.pc false, uinfo := zext t, upctl := c.cw.upctl ||| 2 } }.goto c.cw.uvec

/-- Upcalls are made from user mode, where asked for and not nested (R63). -/
def Ctx.upcalls (c : Ctx) : Bool := c.mode = 0 ∧ c.cw.upctl.getLsbD 0 ∧ ¬c.cw.upctl.getLsbD 1

/-- cw.tval2 of kind 2 (R59). -/
def ticketInfo (t : BitVec 16) : Dword := zext t ||| 0x8000000000000000

/-- The remote access fault (R65, R189). -/
def remoteFault (va : Dword) (t : BitVec 16) : Exc :=
  { code := 0x0A, detail := 0, tval := va, tval2 := ticketInfo t, intr := false }

/-- The thread has still to learn that its access was given a ticket; what has come since waits in the entry. -/
def TkEntry.untold (e : TkEntry) : Bool := !e.told && (e.noted.isSome || e.state == .ticket || e.state == .blocked)

/-- The thread is called up for its ticket (R63, R189). -/
def State.callUp (s : State) (c : CtxId) (n : Nat) (e : TkEntry) : State :=
  ((s.setTk (coreOf c) n { e with told := true }).modCtx c fun x => x.upcall e.ticket).yieldTurn

/-- The thread parks on its ticket, the first time or when it executes the access again (R29, R189). -/
def State.ticketed (s : State) (c : CtxId) (n : Nat) (e : TkEntry) : State :=
  (((s.setTk (coreOf c) n { e with told := true }).modCtx c fun x => { x with st := .parked, park := some (.ticket n) }).leaveFused c).yieldTurn

/-! ## Read-type and posted accesses -/

/-- A read-type fabric access of the running context: send it, wait, go on with its answer, or be told of its ticket. -/
def State.fabRead (s : State) (kind : FabKind) (va : Dword) (len : Nat) (mask : KReg) (data : VReg) (op : BitVec 4)
    (k : State → VReg → Out) : Out :=
  let c := s.cur
  let core := coreOf c
  let q := s.packet c kind va len mask data op
  if ¬inOneLine va len then .next (s.trapC (fabricFault va))
  else match s.ownEntry c va q with
  | none =>
    match s.launchAccess c .read va q with
    | some s => .next s.stall
    | none => .next s.stall
  | some (n, e) =>
    if e.untold ∧ (s.ctx c).upcalls then .next (s.callUp c n e)
    else match e.state with
    | .done =>
      let s := s.freeTk core n
      match e.answer with
      | some (.ok d) => k s d
      | some .poison => .next (s.trapC (exc 0x0C (va &&& ~~~(127 : Dword))))
      | _ => .next (s.trapC (remoteFault va 0xFFFF))
    | .noticeFail => if e.replaying then .next (s.ticketed c n e)
                     else .next ((s.freeTk core n).trapC (remoteFault va e.ticket))
    | .noticeOk => .next (s.ticketed c n e)
    | .ticket => .next (s.ticketed c n e)
    | .blocked => .next (s.ticketed c n e)
    | .sent => .next s.stall

/-- A posted store (R189): it retires when sent. -/
def State.fabWrite (s : State) (va : Dword) (len : Nat) (mask : KReg) (data : VReg) (k : State → Out) : Out :=
  let c := s.cur
  let q := s.packet c .store va len mask data 0
  if ¬inOneLine va len then .next (s.trapC (fabricFault va))
  else match s.launchAccess c .posted va q with
  | some s => k s
  | none => .next s.stall

/-- The mask of an access of len bytes. -/
def lenMask (len : Nat) : KReg := .ofNat 128 (2 ^ len - 1)

end Sys2Proof.Machine
end

