-- ==== Sys2Proof/Machine/LoadStore.lean ====
section
/-! DEFINITION. Loads and stores: scalar, vector, strided and indexed, and loads from home (R190-R193). -/

namespace Sys2Proof.Machine

/-! ## One access of the running thread -/

/-- Go on with a value read, or stop. An access that stops leaves no A or D bit set for an earlier page of it: R79 and R95 give it no
effect, R323 sets the bits page by page. DESIGN CHOICE, log 71. -/
def State.after {α : Type} (s : State) (r : Except Stop α) (k : α → Out) : Out :=
  match r with
  | .ok a => k a
  | .error e => s.stop e

/-- Mem[va], size bytes, plain: local or fabric (R188). -/
def State.readThen (s : State) (va : Dword) (size : Nat) (k : State → Nat → Out) : Out :=
  if s.me.isFabric va then
    (s.drainFabric s.cur).fabRead .load va size (lenMask size) 0 0 fun s d => k s (d.toNat % 2 ^ (8 * size))
  else s.after (s.load s.cur va size) fun r => k r.1 r.2

/-- Mem[va] = v, size bytes, plain: local or fabric; a fabric store comes after what a release fence ordered before it. -/
def State.writeThen (s : State) (va : Dword) (size v : Nat) (k : State → Out) : Out :=
  if s.me.isFabric va then
    (s.drainFabric s.cur).fabWrite va size (lenMask size) (.ofNat 1024 (v % 2 ^ (8 * size))) k
  else s.after (s.store s.cur va size v) k

/-! ## Scalar loads and stores (R190) -/

/-- A scalar load into x[d]. -/
def loadX (size : Nat) (f : Nat → Dword) (d b : Reg) (e : BitVec 12) (s : State) : Out :=
  s.readThen (s.me.cmAddr b e size) size fun s v => s.doneC fun c => c.setX d (f v)

/-- Sign extension from a width. -/
def signed (w v : Nat) : Dword := .ofInt 64 (toSigned w v)

/-- LDB (R190). -/
def execLdb (d b : Reg) (e : BitVec 12) (s : State) : Out := loadX 1 (signed 8) d b e s
/-- LDBU (R190). -/
def execLdbu (d b : Reg) (e : BitVec 12) (s : State) : Out := loadX 1 (.ofNat 64) d b e s
/-- LDH (R190). -/
def execLdh (d b : Reg) (e : BitVec 12) (s : State) : Out := loadX 2 (signed 16) d b e s
/-- LDHU (R190). -/
def execLdhu (d b : Reg) (e : BitVec 12) (s : State) : Out := loadX 2 (.ofNat 64) d b e s
/-- LDW (R190). -/
def execLdw (d b : Reg) (e : BitVec 12) (s : State) : Out := loadX 4 (signed 32) d b e s
/-- LDWU (R190). -/
def execLdwu (d b : Reg) (e : BitVec 12) (s : State) : Out := loadX 4 (.ofNat 64) d b e s
/-- LDD (R190). -/
def execLdd (d b : Reg) (e : BitVec 12) (s : State) : Out := loadX 8 (.ofNat 64) d b e s

/-- A scalar store of x[r]. -/
def storeX (size : Nat) (r b : Reg) (e : BitVec 12) (s : State) : Out :=
  s.writeThen (s.me.cmAddr b e size) size (s.getX r).toNat fun s => .next (s.endC .next)

/-- STB (R190). -/
def execStb (r b : Reg) (e : BitVec 12) (s : State) : Out := storeX 1 r b e s
/-- STH (R190). -/
def execSth (r b : Reg) (e : BitVec 12) (s : State) : Out := storeX 2 r b e s
/-- STW (R190). -/
def execStw (r b : Reg) (e : BitVec 12) (s : State) : Out := storeX 4 r b e s
/-- STD (R190). -/
def execStd (r b : Reg) (e : BitVec 12) (s : State) : Out := storeX 8 r b e s

/-! ## Vector loads and stores (R191) -/

/-- The addresses of the bytes a mask picks, from va upward. -/
def maskedAddrs (va : Nat) (k : KReg) : List Nat := ((List.range 128).filter (active k)).map fun i => va + i

/-- Byte i of the register comes from the list of bytes read for a mask. -/
def mergeBytes (k : KReg) (old : VReg) (d : List Byte) : VReg :=
  let at_ := (List.range 128).filter (active k)
  maskedBuild 8 128 k old fun i => (d.getD (at_.idxOf i) 0).toNat

/-- LDV (R191): only active bytes are translated and read. At a fabric address that is no multiple of 128 an all-zero mask does not
spare it the fault: DESIGN CHOICE, log 64 (R188 leaves it open), for STV too. -/
def execLdv (d b : Reg) (m : BitVec 3) (e : BitVec 12) (s : State) : Out :=
  let va := s.me.cmAddr b e 128
  let k := s.me.getK m
  let put (s : State) (l : List Byte) : Out := s.doneC fun c => c.setV d (mergeBytes k (c.getV d) l)
  if s.me.isFabric va then
    if va.toNat % 128 ≠ 0 then .next (s.trapC (fabricFault va))
    else if k = 0 then .next (s.endC .next)
    else (s.drainFabric s.cur).fabRead .load va 128 k 0 0 fun s v =>
      s.doneC fun c => c.setV d (maskedBuild 8 128 k (c.getV d) (elemNat 8 v))
  else
    let at_ := maskedAddrs va.toNat k
    if at_.isEmpty then .next (s.endC .next)
    else s.after (s.mapBytes (s.who s.cur) .load va at_) fun r =>
      s.after (r.1.readMem s.cur r.2) fun q => put q.1 q.2

/-- STV (R191): only active bytes are translated and written; with all 128 bits it is a whole-line write (R187). -/
def execStv (r b : Reg) (m : BitVec 3) (e : BitVec 12) (s : State) : Out :=
  let va := s.me.cmAddr b e 128
  let k := s.me.getK m
  let v := s.me.getV r
  if s.me.isFabric va then
    if va.toNat % 128 ≠ 0 then .next (s.trapC (fabricFault va))
    else if k = 0 then .next (s.endC .next)
    else (s.drainFabric s.cur).fabWrite va 128 k v fun s => .next (s.endC .next)
  else
    let at_ := maskedAddrs va.toNat k
    if at_.isEmpty then .next (s.endC .next)
    else s.after (s.mapBytes (s.who s.cur) .store va at_) fun q =>
      s.after (q.1.writeMemBytes s.cur true q.2 (at_.map fun a => elem 8 v (a - va.toNat))) fun s => .next (s.endC .next)

/-! ## Strided and indexed accesses (R192) -/

/-- The active elements with their addresses, lowest first. -/
def activeElements (w : Nat) (k : KReg) (addr : Nat → Dword) : List (Nat × Dword) :=
  ((List.range (countOf w)).filter (active k)).map fun i => (i, addr i)

/-- Translate the pages of every element, in order. -/
def State.elementPages (s : State) (kind : Kind) (size : Nat) :
    List (Nat × Dword) → Except Stop (State × List (Nat × List PageAt))
  | [] => .ok (s, [])
  | (i, va) :: r => do
    let (s, l) ← s.translate (s.who s.cur) kind va (upFrom va.toNat size)
    let (s, rest) ← s.elementPages kind size r
    return (s, (i, l) :: rest)

/-- The bytes of every element, all translated. -/
def State.elementBytes (s : State) : List (Nat × List PageAt) → Except Stop (List (Nat × List ByteAt))
  | [] => .ok []
  | (i, l) :: r => do
    let here ← s.bytesOfPages (s.me.mode == 3) l
    return (i, here) :: (← s.elementBytes r)

/-- Translate every element, in order, before the memory of any is reached (R96). -/
def State.mapElements (s : State) (kind : Kind) (size : Nat) (l : List (Nat × Dword)) :
    Except Stop (State × List (Nat × List ByteAt)) := do
  let (s, pages) ← s.elementPages kind size l
  return (s, ← s.elementBytes pages)

/-- Read every element, in order. -/
def State.readElements (s : State) : List (Nat × List ByteAt) → Except Stop (State × List (Nat × Nat))
  | [] => .ok (s, [])
  | (i, l) :: r => do
    let (s, d) ← s.readBytes s.cur l
    let (s, rest) ← s.readElements r
    return (s, (i, ofBytes d) :: rest)

/-- Write every element, in order. -/
def State.writeElements (s : State) (size : Nat) (v : VReg) : List (Nat × List ByteAt) → Except Stop State
  | [] => .ok s
  | (i, l) :: r => do
    let s ← s.writeBytes s.cur false l (toBytes size (elemNat (8 * size) v i))
    s.writeElements size v r

/-- A load of the active elements, all or nothing. -/
def gather (d : Reg) (w : Nat) (k : KReg) (addr : Nat → Dword) (s : State) : Out :=
  s.after (do
    let (s, l) ← s.mapElements .load (w / 8) (activeElements w k addr)
    s.readElements l) fun r =>
    r.1.doneC fun c => c.setV d (maskedBuild w (countOf w) k (c.getV d) fun i => (r.2.lookup i).getD 0)

/-- A store of the active elements, all or nothing. -/
def scatter (r : Reg) (w : Nat) (k : KReg) (addr : Nat → Dword) (s : State) : Out :=
  s.after (do
    let (s, l) ← s.mapElements .store (w / 8) (activeElements w k addr)
    s.writeElements (w / 8) (s.me.getV r) l) fun s => .next (s.endC .next)

/-- The width a two-bit code names: .b, .h, .w, .d. -/
def widthOf2 (w : BitVec 2) : Nat := 8 * 2 ^ w.toNat

/-- x[a] + i × x[b]. -/
def Ctx.strided (c : Ctx) (a b : Reg) (i : Nat) : Dword := c.getX a + .ofNat 64 i * c.getX b
/-- x[a] + ZeroExtend(v[b].elem[i], w) × 2^c. -/
def Ctx.indexed (c : Ctx) (a b : Reg) (w : Nat) (sc : BitVec 2) (i : Nat) : Dword :=
  c.getX a + .ofNat 64 (elemNat w (c.getV b) i * 2 ^ sc.toNat)

/-- LDVS (R192). -/
def execLdvs (d a b : Reg) (k : Reg3) (w : BitVec 2) (s : State) : Out :=
  gather d (widthOf2 w) (s.me.getK k) (s.me.strided a b) s
/-- STVS (R192). -/
def execStvs (r a b : Reg) (k : Reg3) (w : BitVec 2) (s : State) : Out :=
  scatter r (widthOf2 w) (s.me.getK k) (s.me.strided a b) s
/-- LDVG (R192). -/
def execLdvg (d a b : Reg) (c : BitVec 2) (k : Reg3) (w : BitVec 2) (s : State) : Out :=
  gather d (widthOf2 w) (s.me.getK k) (s.me.indexed a b (widthOf2 w) c) s
/-- STVX (R192). -/
def execStvx (r a b : Reg) (c : BitVec 2) (k : Reg3) (w : BitVec 2) (s : State) : Out :=
  scatter r (widthOf2 w) (s.me.getK k) (s.me.indexed a b (widthOf2 w) c) s

/-! ## Loads from home (R193) -/

/-- A byte as LDNC sees it: the thread's own retired stores, what the core's L1 holds dirty, else home (R193, R241). -/
def State.homeByte (s : State) (c : CtxId) (b : ByteAt) : Byte :=
  if b.isDev then 0
  else match forwarded (s.ctx c).stores b.loc with
    | some v => v
    | none => s.homeSeen (coreOf c) b.t b.loc

/-- The line of a read from home: HBM's comes into the memory-side cache (R264). -/
def State.readLine (s : State) (line : Nat) : State := ((s.settlePin line).share none line).mscPut line false

/-- The lines of a read that LDNC makes: an S line is read at home and neither fills the L1 nor leaves it; any other as a load reads it
(R193, R242). -/
def State.homeLines (s : State) (core : CoreId) (l : List (Nat × Treat)) : State :=
  l.foldl (fun s e => match e.2 with
    | .S => s.readLine e.1
    | .D => (s.askLines core [e]).touchLines core [e]
    | .U => s.settlePin e.1) s

/-- Read bytes from home: no S line of the L1 is filled or dropped. -/
def State.readHome (s : State) (c : CtxId) (l : List ByteAt) : Except Stop (State × List Byte) :=
  match devReg l with
  | some off => .ok (s, bytesOf 8 (s.devRead off))
  | none =>
    if l.all fun b => b.t != .S then s.readMem c l
    else
      let s := if s.mustDrain c l then s.drainFor c (l.map (·.loc)) else s
      let s := s.homeLines (coreOf c) (linesOf (inMemory l))
      match l.find? fun b => s.poisoned b.loc && !(s.core (coreOf c)).wroteWhole (b.loc / 128) with
      | some b => .error (poisonAt b.va)
      | none => .ok (s, l.map (s.homeByte c))

/-- Size and extension of a load's sz code (R190). -/
def loadForm (z : BitVec 3) : Nat × (Nat → Dword) :=
  match z.toNat with
  | 0 => (1, signed 8) | 1 => (1, .ofNat 64) | 2 => (2, signed 16) | 3 => (2, .ofNat 64) | 4 => (4, signed 32)
  | 5 => (4, .ofNat 64) | _ => (8, .ofNat 64)

/-- LDNC (R193). -/
def execLdnc (d b : Reg) (z : BitVec 3) (e : BitVec 12) (s : State) : Out :=
  let size := (loadForm z).1
  let va := s.me.cmAddr b e size
  if s.me.isFabric va then
    (s.drainFabric s.cur).fabRead .load va size (lenMask size) 0 0 fun s v =>
      s.doneC fun c => c.setX d ((loadForm z).2 (v.toNat % 2 ^ (8 * size)))
  else
    s.after (do
      let (s, l) ← s.mapRange (s.who s.cur) .load va size
      s.readHome s.cur l) fun r => r.1.doneC fun c => c.setX d ((loadForm z).2 (ofBytes r.2))

end Sys2Proof.Machine
end

