-- ==== Sys2Proof/Machine/Atomic.lean ====
section
/-! DEFINITION. Acquire loads, release stores, atomics, fences, token waits and cache maintenance (R194-R200, R241-R256). -/

namespace Sys2Proof.Machine

/-! ## Orders and scopes (R85, R251, R256) -/

/-- ACQ, REL, AR, SC are 0 to 3. -/
def isAcquire (o : BitVec 2) : Bool := o != 1
def isRelease (o : BitVec 2) : Bool := o != 0

/-- PARTITION, FABRIC and SYSTEM wait for the thread's fabric accesses (R197, R256). -/
def fabricScope (scope : BitVec 4) : Bool := 7 ≤ scope.toNat

/-- A release of the thread at a scope still waits for a fabric acknowledgment (R256). An acquire at such a scope waits for it too, so that
a later access by local address agrees with the thread's earlier fabric stores (R245): DESIGN CHOICE, log 101. -/
def State.releaseWaits (s : State) (c : CtxId) (scope : BitVec 4) : Bool := fabricScope scope && !(s.posted c).isEmpty

/-- A release at PARTITION scope or wider also gives up the core's S lines, written back, so that a later load of the thread by local
address agrees with its earlier fabric stores (R245): DESIGN CHOICE, log 101. -/
def State.forgetS (s : State) (core : CoreId) (scope : BitVec 4) : State := if fabricScope scope then s.acquireS core scope else s

/-- A release of the running thread, performed now: its retired stores, then the S write-back (R241, R248). -/
def State.releaseNow (s : State) (c : CtxId) (scope : BitVec 4) : State :=
  ((s.drain c).releaseS (coreOf c) scope).forgetS (coreOf c) scope

/-- Release if there is a release part. -/
def State.releaseIf (s : State) (b : Bool) (c : CtxId) (scope : BitVec 4) : State := if b then s.releaseNow c scope else s
/-- An acquire of a thread: the S-page action (R241), and at PARTITION scope or wider its place among the thread's stores, which a later
fabric access to a byte of theirs has to come after (R245). -/
def State.acquire (s : State) (c : CtxId) (scope : BitVec 4) : State :=
  (s.acquireS (coreOf c) scope).modCtx c fun x =>
    if fabricScope scope ∧ x.stores ≠ [] then { x with stores := x.stores ++ [.seen] } else x

/-- Acquire if there is an acquire part. -/
def State.acquireIf (s : State) (b : Bool) (c : CtxId) (scope : BitVec 4) : State := if b then s.acquire c scope else s

/-! ## LDAQ and STRL (R194) -/

/-- LDAQ (R194): zero-extends; an SC load comes after the thread's earlier stores (R251, R252). -/
def execLdaq (scope : BitVec 4) (o : BitVec 2) (k : BitVec 3) (a b : Reg) (s : State) : Out :=
  let size := 2 ^ k.toNat
  let va := s.getX b
  let put (s : State) (v : Nat) : Out := s.doneC fun c => c.setX a (.ofNat 64 v)
  if s.me.isFabric va then
    let q := s.packet s.cur .load va size (lenMask size) 0 0
    if o = 3 ∧ s.releaseWaits s.cur scope ∧ (s.ownEntry s.cur va q).isNone then .next s.stall
    else ((s.releaseIf (o == 3) s.cur scope).drainFabric s.cur).fabRead .load va size (lenMask size) 0 0 fun t d =>
      if s.releaseWaits s.cur scope then .next s.stall
      else put (t.acquire t.cur scope) (d.toNat % 2 ^ (8 * size))
  else if s.releaseWaits s.cur scope then .next s.stall
  else
    s.after (do
      let (s, l) ← s.mapRange (s.who s.cur) .load va size
      ((s.releaseIf (o == 3) s.cur scope).acquire s.cur scope).readBytes s.cur l) fun r => put r.1 (ofBytes r.2)

/-- Retire a release store: one line waits in the queue behind every older store (R185, R248); a wider or uncached one is
performed now, after the release. -/
def State.retireRelease (s : State) (c : CtxId) (scope : BitVec 4) (g : List LineStore) : State :=
  match g with
  | [⟨_, .D, cells, whole⟩] => s.modCtx c fun x => { x with stores := x.stores ++ [Retired.release scope .D cells whole] }
  | [⟨_, .S, cells, whole⟩] => s.modCtx c fun x => { x with stores := x.stores ++ [Retired.release scope .S cells whole] }
  | g => (g.foldl (fun s l => s.performRetired (coreOf c) (.release scope l.t l.cells l.whole)) (s.releaseNow c scope))

/-- STRL (R194). -/
def execStrl (scope : BitVec 4) (o : BitVec 2) (k : BitVec 3) (a b : Reg) (s : State) : Out :=
  let _order := o
  let size := 2 ^ k.toNat
  let va := s.getX b
  let v := (s.getX a).toNat % 2 ^ (8 * size)
  if s.releaseWaits s.cur scope then .next s.stall
  else if s.me.isFabric va then
    (s.releaseNow s.cur scope).fabWrite va size (lenMask size) (.ofNat 1024 v) fun s => .next (s.endC .next)
  else
    s.after (s.mapRange (s.who s.cur) .store va size) fun r =>
      match devWriteOf s.me.mode r.2 (toBytes size v) with
      | some e => .next (((r.1.releaseNow s.cur scope).postFirst e).endC .next)
      | none =>
        let g := lineStores false r.2 (toBytes size v)
        s.after ((r.1.forgetS (coreOf s.cur) scope).checkLines s.cur g) fun t => .next ((t.retireRelease s.cur scope g).endC .next)

/-! ## Atomics (R195, R196, R244) -/

/-- F(old, y) (R195), on w bits. -/
def amoFn (w : Nat) (f : Nat) (old y : Nat) : Nat :=
  match f with
  | 0 => y
  | 1 => (old + y) % 2 ^ w
  | 2 => old &&& y
  | 3 => old ||| y
  | 4 => old ^^^ y
  | 5 => if toSigned w y < toSigned w old then y else old
  | 6 => if toSigned w old < toSigned w y then y else old
  | 7 => if y < old then y else old
  | _ => if old < y then y else old

/-- The bytes of an atomic hold a poisoned line, as its home sees it (R187). -/
def State.atomicPoison (s : State) (l : List ByteAt) : Option ByteAt := l.find? fun b => s.poisoned b.loc

/-- The line of an atomic's word is asked for: older stores to the word are performed, an S line of the core goes home, and poison traps
(R187, R241). -/
def State.askWord (s : State) (c : CtxId) (l : List ByteAt) : Except Stop State :=
  match l with
  | [] => .ok s
  | b :: _ =>
    let s := s.drainFor c (l.map (·.loc))
    let s := if b.t = .S then s.returnLine (coreOf c) (b.loc / 128) else s
    let s := s.askLines (coreOf c) (linesOf l)
    match s.atomicPoison l with
    | some x => .error (poisonAt x.va)
    | none => .ok s

/-- Read-modify-write of a translated word (R195): the new state and the old value. An aligned doubleword of device register
space is read and written as one; any other access of it reads zero and writes nothing (R318). -/
def State.rmw (s : State) (c : CtxId) (l : List ByteAt) (f : Nat → Nat) : Except Stop (State × Nat) :=
  match l with
  | [] => .ok (s, 0)
  | b :: _ =>
    if b.isDev then
      match devReg l with
      | some off =>
        let old := (s.devRead off).toNat
        .ok ((s.drainBarriers c).postFirst (.registerWrite (accessor (s.ctx c).mode) (.ofNat 28 off) (.ofNat 64 (f old))), old)
      | none => .ok (s, 0)
    else
      match (s.drainBarriers c).askWord c l with
      | .error e => .error e
      | .ok s => .ok (s.rmwAt (coreOf c) b.t b.loc l.length f)

/-- The answer to the running thread's atomic on a U page comes: it is performed at its home (R242). -/
def State.answered (s : State) : State := if s.me.asked then s.modMe fun x => { x with asked := false } else s

/-- An atomic of the running thread on a U page is sent to its home; the answer comes at the thread's next turn: DESIGN CHOICE, log 102. -/
def State.askHome (s : State) : State := (s.modMe fun x => { x with asked := true }).stall

/-- An atomic of the running thread on one aligned word or doubleword; k takes the old value. -/
def State.atomic (s : State) (kind : FabKind) (scope : BitVec 4) (order : Option (BitVec 2)) (va : Dword) (size : Nat)
    (data : VReg) (op : BitVec 4) (f : Nat → Nat) (k : State → Nat → Out) : Out :=
  let c := s.cur
  let rel : Bool := match order with | some o => isRelease o | none => false
  let acq : Bool := match order with | some o => isAcquire o | none => false
  if va.toNat % size ≠ 0 then .next (s.trapC (exc 4 va))
  else if s.me.isFabric va then
    let q := s.packet c kind va size (lenMask size) data op
    if (rel ∨ acq) ∧ s.releaseWaits c scope ∧ (s.ownEntry c va q).isNone then .next s.stall
    else ((s.releaseIf rel c scope).drainFabric c).fabRead kind va size (lenMask size) data op fun s d =>
      k (s.acquireIf acq c scope) (d.toNat % 2 ^ (8 * size))
  else if (rel ∨ acq) ∧ s.releaseWaits c scope then .next s.stall
  else
    let t := s.answered
    t.after (t.mapRange (t.who c) .rmw va size) fun (u, l) =>
      if !s.me.asked && l.any (·.t == .U) then .next u.askHome
      else t.after ((u.releaseIf rel c scope).rmw c l f) fun (u, old) => k (u.acquireIf acq c scope) old

/-- The order field applies when the ordered bit is 1 (R195). -/
def orderOf (o : BitVec 2) (r : BitVec 1) : Option (BitVec 2) := if r = 1 then some o else none

/-- The old value as x[a] receives it: sign-extended from 32 bits for .w (R195). -/
def atomicOld (size old : Nat) : Dword := if size = 4 then signed 32 old else .ofNat 64 old

/-- Bytes of an atomic. -/
def atomicSize (w : BitVec 1) : Nat := if w = 1 then 8 else 4

/-- The value of a register that an atomic uses. -/
def Ctx.atomicVal (x : Ctx) (w : BitVec 1) (a : Reg) : Nat := (x.getX a).toNat % 2 ^ (8 * atomicSize w)

/-- What the packet of an AMO carries, and of a CAS: the expected value, then the new one. -/
def Ctx.amoData (x : Ctx) (w : BitVec 1) (a : Reg) : VReg := .ofNat 1024 (x.atomicVal w a)
def Ctx.casData (x : Ctx) (w : BitVec 1) (a : Reg) : VReg := .ofNat 1024 (x.atomicVal w a + x.atomicVal w (a + 1) * 2 ^ 64)

/-- AMO (R195). -/
def execAmo (scope : BitVec 4) (o : BitVec 2) (w : BitVec 1) (a b : Reg) (r : BitVec 1) (f : BitVec 4) (s : State) : Out :=
  let size := atomicSize w
  let y := s.me.atomicVal w a
  s.atomic .amo scope (orderOf o r) (s.getX b) size (s.me.amoData w a) f (fun old => amoFn (8 * size) f.toNat old y)
    fun s old => s.doneC fun c => c.setX a (atomicOld size old)

/-- CAS: x[a] is the expected value, x[a + 1] the new one (R196). A failed comparison writes the old value again. -/
def execCas (scope : BitVec 4) (o : BitVec 2) (w : BitVec 1) (a b : Reg) (r : BitVec 1) (s : State) : Out :=
  let size := atomicSize w
  let y := s.me.atomicVal w a
  let n := s.me.atomicVal w (a + 1)
  s.atomic .cas scope (orderOf o r) (s.getX b) size (s.me.casData w a) 0
    (fun old => if old = y then n else old) fun s old => s.doneC fun c => c.setX a (atomicOld size old)

/-! ## Fences (R197, R198) -/

/-- The trap of the oldest unreported failure: the deferred remote-store trap (R65, R197), or data poison for a store that met a
poisoned line at its home (R187, R362). -/
def failTrap (f : Fail) : Exc :=
  if f.poison then exc 0x0C (f.addr &&& ~~~(127 : Dword))
  else { code := 0x0B, detail := 0, tval := f.addr, tval2 := ticketInfo f.ticket, intr := false }

/-- Report the oldest failure: it is removed. -/
def State.reportFail (s : State) (f : Fail) : State := (s.modMe fun x => { x with fails := x.fails.drop 1 }).trapC (failTrap f)

/-- The fence delivery failure of a loss-log entry; its stores then count as acknowledged (R197). -/
def State.reportLost (s : State) (i : Nat) : State :=
  (s.modMe fun x => { x with lost := x.lost.drop 1 }).trapC (exc 0x10 (.ofNat 64 i))

/-- What a FENCE orders (R251): SC drains, an acquire part takes the S-page action, a release part stands in the queue before
every younger store. -/
def State.fenceOrder (s : State) (scope : BitVec 4) (o : BitVec 2) : State :=
  let c := s.cur
  let s := if o = 3 then s.releaseNow c scope
    else if isRelease o then
      (s.forgetS (coreOf c) scope).modCtx c fun x => { x with stores := x.stores ++ [Retired.barrier scope] }
    else s
  s.acquireIf (isAcquire o) c scope

/-- FENCE (R197): with a release part it waits for acknowledgments; it reports failures, then lost stores; an acquire then waits for
acknowledgments (R245); it completes. -/
def execFence (scope : BitVec 4) (o : BitVec 2) (s : State) : Out :=
  let c := s.cur
  if isRelease o ∧ s.releaseWaits c scope then .next s.stall
  else match fabricScope scope, s.me.fails, isRelease o, s.me.lost with
    | true, f :: _, _, _ => .next (s.reportFail f)
    | true, [], true, i :: _ => .next (s.reportLost i)
    | _, _, _, _ => if s.releaseWaits c scope then .next s.stall else .next ((s.fenceOrder scope o).endC .next)

/-- The queues a mask names. -/
def queuesOf (m : Dword) : List (BitVec 2) :=
  ((List.range 4).filter fun i => m.getLsbD i).map fun i => .ofNat 2 i

/-- A barrier behind no command is gone at once (R198, R290). DEDUCED, log 57. -/
def CoreSt.putBarrier (k : CoreSt) (q : BitVec 2) : CoreSt :=
  if (k.queue q).isEmpty then k else k.setQueue q (k.queue q ++ [.barrier])

/-- AFENCE (R198): a barrier in each named queue; a full one makes it wait in step 1, as COPY and CPFL do (R31, R290): DESIGN CHOICE, log 108. -/
def execAfence (a : Reg) (s : State) : Out :=
  let qs := queuesOf (s.getX a)
  let k := s.myCore
  if qs.any fun q => Config.copyQueueDepth ≤ (k.queue q).length then .next s.stall
  else .next ((s.modCore (coreOf s.cur) fun k => qs.foldl CoreSt.putBarrier k).endC .next)

/-! ## Token waits (R200) -/

/-- TOKWAIT (R200): each read is an acquire at the scope, and the satisfying one waits as an acquire does. -/
def execTokwait (scope : BitVec 4) (kind : BitVec 3) (a b : Reg) (s : State) : Out :=
  let va := s.getX b
  let y := s.getX a
  if va.toNat % 8 ≠ 0 then .next (s.trapC (exc 4 va))
  else
    s.after (do
      let (s, l) ← s.mapRange (s.who s.cur) .load va 8
      let (s, d) ← (s.acquire s.cur scope).readBytes s.cur l
      return (s, ofBytes d)) fun r =>
      if tokenHolds kind (.ofNat 64 r.2) y then
        if s.releaseWaits s.cur scope then .next s.stall else .next (r.1.endC .next)
      else .next (r.1.park (.token va (scope < 2) kind y))

/-! ## Cache maintenance (R199) -/

/-- Write a line back from every cache of the package; copies stay, clean. A pin's unit is written first (R276), and what an L1 or a
skein cache holds modified goes through the memory-side cache, which then writes it to HBM (R264). -/
def State.cleanLine (s : State) (line : Nat) : State :=
  let s := s.settlePin line
  let s := s.cores.foldl (fun s e => s.writeBackS (.ofNat 10 e.1) fun l => l.line == line) s
  let dirty : Bool := (s.cores.any fun e => e.2.l1.any fun l => l.line == line && !l.s && l.state == .modified) ||
    s.skeins.any fun e => e.2.sc.any fun l => l.line == line && l.state == .modified
  let s := if dirty then s.mscPut line true else s
  { s with
    cores := s.cores.map fun (n, k) =>
      (n, { k with l1 := k.l1.map fun l => if l.line == line && !l.s then { l with state := .shared } else l })
    skeins := s.skeins.map fun (n, k) =>
      (n, { k with sc := k.sc.map fun l => if l.line == line then { l with state := .shared } else l })
    msc := s.msc.map fun e => { e with modified := e.modified && e.line != line } }

/-- Remove a clean line from every cache of the package; a pinned one stays until its accesses end (R274). -/
def State.removeLine (s : State) (line : Nat) : State :=
  { s with
    cores := s.cores.map fun (n, k) => (n, { k with l1 := k.l1.filter fun l => l.line != line })
    skeins := s.skeins.map fun (n, k) => (n, { k with sc := k.sc.filter fun l => l.line != line || l.pins != 0 })
    msc := s.msc.filter fun e => e.line != line || e.pins != 0 }

/-- The line that contains x[a]. -/
def lineAddr (v : Dword) : Dword := v &&& ~~~(127 : Dword)

/-- A cache operation on the line of x[a], after every older store of the thread to it. Its faults name the line's first address:
DESIGN CHOICE, log 65 (R199 names only the line). -/
def cacheOp (a : Reg) (f : State → Nat → Treat → State) (s : State) : Out :=
  s.after (s.mapRange (s.who s.cur) .load (lineAddr (s.getX a)) 128) fun r =>
    match r.2 with
    | b :: _ =>
      if b.isDev then .next (r.1.endC .next)
      else .next ((f ((r.1.drainBarriers s.cur).drainFor s.cur (r.2.map (·.loc))) (b.loc / 128) b.t).endC .next)
    | [] => .next (r.1.endC .next)

/-- CFLUSH (R199). -/
def execCflush (a : Reg) (s : State) : Out := cacheOp a (fun s l _ => (s.cleanLine l).removeLine l) s
/-- CCLEAN (R199). -/
def execCclean (a : Reg) (s : State) : Out := cacheOp a (fun s l _ => s.cleanLine l) s
/-- CINV (R199): S pages only. -/
def execCinv (a : Reg) (s : State) : Out :=
  cacheOp a (fun s l t =>
    if t = .S then (s.writeBackS (coreOf s.cur) fun e => e.line == l).dropS (coreOf s.cur) fun e => e.line == l else s) s

/-- CZERO: 128 zero bytes, a whole-line write (R187, R199). -/
def execCzero (a : Reg) (s : State) : Out :=
  let va := lineAddr (s.getX a)
  if s.me.isFabric va then
    (s.drainFabric s.cur).fabWrite va 128 (BitVec.allOnes 128) 0 fun s => .next (s.endC .next)
  else
    s.after (do
      let (s, l) ← s.mapRange (s.who s.cur) .store va 128
      s.writeMemBytes s.cur true l (toBytes 128 0)) fun s => .next (s.endC .next)

/-- Bring a line into the level that PREF names, unless it is there (R199, R271): b = 1 asks for a D line with write permission;
an S line is filled in either case. -/
def State.prefetch (s : State) (level : Nat) (b : ByteAt) : State :=
  let line := b.loc / 128
  match level with
  | 1 => if b.t = .S then s.fillS (coreOf s.cur) line false
         else if ((s.core (coreOf s.cur)).findLine line).isSome then s
         else s.holdD (coreOf s.cur) line .exclusive false
  | 2 => if (s.skein (skeinOf s.cur)).sc.any (·.line == line) then s
         else (((s.settlePin line).share (coreOf s.cur) line).mscPut line false).scPut (skeinOf s.cur) line false false
  | 3 => if 2 ^ 56 ≤ b.loc ∨ s.msc.any (·.line == line) then s else ((s.settlePin line).share (coreOf s.cur) line).mscPut line false
  | _ => s.touchLines (coreOf s.cur) [(line, b.t)]

/-- A hint's line is asked for, unless it is dropped: at a U page or a device register, at a line the level holds, and where the core's
tracking of outstanding misses is full (R271), which is a free value. DESIGN CHOICE, log 62. -/
def State.hint (s : State) (level : Nat) (b : ByteAt) : State :=
  if b.isDev ∨ b.t = .U then s
  else
    let full := Config.missesFull s.free
    let s := { s with free := s.free + 1 }
    if full then s else s.prefetch level b

/-- PREF (R199, R271): never faults; dropped at an address that cannot be translated. -/
def execPref (a l : Reg) (s : State) : Out :=
  match s.mapRange (s.who s.cur) .load (lineAddr (s.getX a)) 128 with
  | .ok (s, b :: _) => .next ((s.hint l.toNat b).endC .next)
  | _ => .next (s.endC .next)

end Sys2Proof.Machine
end

