-- ==== Sys2Proof/Machine/Mailbox.lean ====
section
/-! DEFINITION. Version words (R346) and mailboxes: posting to a host (R201, R330, R334, R335), receiving from one
(R332, R333), opening and resetting (R331, R336). -/

namespace Sys2Proof.Machine

/-! ## The registers of a mailbox (R331) -/

/-- The context that service entries interrupt (R331). -/
def H2d.target (b : H2d) : CtxId := (b.cfg.extractLsb' 2 10) ++ (b.cfg.extractLsb' 12 3)

/-! ## Device to host (R334, R335) -/

/-- Post an entry: bytes 4-63, then the sequence number; then MSI-X where asked (R331, R334). Its version byte is the agreed version, 0 where
there is none: DESIGN CHOICE, log 97. -/
def State.postEntry (s : State) (m : BitVec 6) (type : Nat) (source : BitVec 16) (body : List Byte) : State :=
  let b := s.d2h m
  let at_ := b.base.toNat + 64 * (b.posted.toNat % 256)
  let s := s.physWrite true (at_ + 4) ([.ofNat 8 type, .ofNat 8 (s.agreed 0)] ++ bytesOf 2 source ++ body)
  let s := s.physWrite true at_ (bytesOf 4 b.posted)
  let s := s.setD2h m { b with posted := b.posted + 1 }
  if b.cfg.getLsbD 1 then s.emit (.msix s.linkIo m) else s

/-- A message is dropped and counted in lost (R335). -/
def State.dropMessage (s : State) (m : BitVec 6) : State := s.setD2h m { s.d2h m with lost := (s.d2h m).lost + 1 }

/-- A completion message: posted, waiting for a slot, or dropped (R335). -/
def State.sendMessage (s : State) (g : Message) : State :=
  let b := s.d2h g.mailbox
  if ¬b.isOpen then s.dropMessage g.mailbox
  else if b.free = 0 ∨ s.dev.msgs.any (·.mailbox == g.mailbox) then s.modDev fun d => { d with msgs := d.msgs ++ [g] }
  else s.postEntry g.mailbox 2 (g.source.setWidth 16) g.body

/-- Post the waiting messages of a mailbox that now find room, oldest first. -/
def State.flushMessages (s : State) (m : BitVec 6) : List Message → State
  | [] => s
  | g :: r =>
    if g.mailbox = m ∧ (s.d2h m).isOpen ∧ 0 < (s.d2h m).free then
      ((s.postEntry m 2 (g.source.setWidth 16) g.body).modDev fun d =>
        { d with msgs := dropFirst (· == g) d.msgs }).flushMessages m r
    else s.flushMessages m r

/-- A completion message's body (R330): tag, ASN, package core number. -/
def messageBody (tag : BitVec 32) (asn : BitVec 16) (core : CoreId) : List Byte :=
  bytesOf 4 tag ++ bytesOf 2 asn ++ toBytes 2 core.toNat ++ List.replicate 48 0

/-- The mailbox is allowed to an address space (R320, R321: dmask). -/
def AsEntry.posts (e : AsEntry) (m : BitVec 6) : Bool := e.dmask.getLsbD m.toNat

/-- The status MSEND writes (R201, R334). An open mailbox takes the message while the mailbox interface has no agreed version too:
DESIGN CHOICE, log 97. -/
def State.msendStatus (s : State) (as : Option AsEntry) (v : Dword) : Nat :=
  let m : BitVec 6 := slice 0 6 v
  let allowed : Bool := match as with | some e => e.posts m | none => false
  if v.toNat / 64 ≠ 0 ∨ ¬allowed ∨ ¬(s.d2h m).isOpen then 2
  else if (s.d2h m).free = 0 ∨ s.dev.msgs.any (·.mailbox == m) then 1 else 0

/-- MSEND (R201): a post is a release at HOSTED scope. -/
def execMsend (d a b : Reg) (s : State) : Out :=
  let c := s.cur
  let m : BitVec 6 := slice 0 6 (s.getX b)
  s.after (do
    let (s, l) ← s.mapRange (s.who c) .load (s.getX a &&& ~~~(63 : Dword)) 64
    let (s, data) ← s.readBytes c l
    let (s, as) ← s.asEntry (coreOf c) (s.ctx c).cw.asn
    return (s, data, as)) fun r =>
    let status := r.1.msendStatus r.2.2 (s.getX b)
    let t := if status = 0 then (r.1.releaseNow c 5).postEntry m 1 (c.setWidth 16) (r.2.1.drop 8) else r.1
    .next ((t.setX d (.ofNat 64 status)).endC .next)

/-- COMPLETION_MESSAGE_TIMEOUT (R335): the n-th waiting message is dropped. -/
def execCompletionMessageTimeout (s : State) : Out :=
  match s.now with
  | some (.completionMessageTimeout n) =>
    match s.dev.msgs[n]? with
    | some g => .next ((s.modDev fun d => { d with msgs := d.msgs.eraseIdx n }).dropMessage g.mailbox)
    | none => .next s
  | _ => .next s

/-! ## Host to device (R332, R333) -/

/-- Write the acknowledgment slot of an entry (R332). DEDUCED, log 36. -/
def State.writeAck (s : State) (m : BitVec 6) (n : BitVec 32) (state reason core : Nat) : State :=
  let b := s.h2d m
  s.physWrite true (b.ack.toNat + 16 * (n.toNat % 256))
    (bytesOf 4 n ++ [.ofNat 8 state, .ofNat 8 reason] ++ toBytes 2 b.free ++ toBytes 2 core ++ toBytes 6 0)

/-- A field of an entry: n bytes at an offset. -/
def entryNat (e : BitVec 512) (off n : Nat) : Nat := e.toNat / 2 ^ (8 * off) % 2 ^ (8 * n)

/-- The event that the head entry calls for: a launch, service or wake entry; any other type goes the launch entry's way
to be refused. -/
def headEvent (m : BitVec 6) (e : BitVec 512) : Event :=
  match entryNat e 4 1 with
  | 2 => .serviceEntry m
  | 3 => .wakeEntry m
  | _ => .launchEntry m

/-- The head of an open mailbox is served next, unless it already waits (R333). -/
def State.serveHead (s : State) (m : BitVec 6) : State :=
  let b := s.h2d m
  match b.entries with
  | (_, e) :: _ => if b.isOpen ∧ ¬b.waiting ∧ ¬b.svc then s.postOnce (headEvent m e) else s
  | [] => s

/-- A host-to-device mailbox reads entries: it is open, and so is the mailbox interface (R331, R346). -/
def State.reads (s : State) (m : BitVec 6) : Bool := (s.h2d m).isOpen && s.agreed 0 != 0

/-- Receive entries up to the doorbell, at most n (R332): they are read coherently, and a poisoned one is no value that could be delivered,
so it is left unread (R362). DEDUCED, log 36. -/
def State.receive (s : State) (m : BitVec 6) : Nat → State
  | 0 => s
  | n + 1 =>
    let b := s.h2d m
    let at_ := b.base.toNat + 64 * (b.next.toNat % 256)
    if ¬s.reads m ∨ b.stale ∨ b.next = b.db ∨ 256 ≤ (b.next - b.consumed).toNat ∨ ¬s.agentReaches true at_ ∨ s.physPoisoned at_ then s
    else
      let e := s.physRead at_ 64
      let s := s.agentRead at_
      if ofBytes (e.take 4) ≠ b.next.toNat then s.setH2d m { b with stale := true }
      else
        let s := s.setH2d m { b with next := b.next + 1, entries := b.entries ++ [(b.next, .ofNat 512 (ofBytes e))] }
        (s.writeAck m b.next 1 0 0).receive m n

/-- Consume the head (R332, R333): its acknowledgment slot, then the next entry, which may now be received. -/
def State.consume (s : State) (m : BitVec 6) (state reason core : Nat) : State :=
  let b := s.h2d m
  match b.entries with
  | [] => s
  | (n, _) :: r =>
    let s := s.setH2d m { b with entries := r, consumed := b.consumed + 1, waiting := false, svc := false }
    (((s.writeAck m n state reason core).receive m 256)).serveHead m

/-- A doorbell value that names no entry received already is the latest; any other starts nothing new and changes nothing (R332).
DEDUCED, log 73. -/
def H2d.takes (b : H2d) (v : BitVec 32) : Bool := 0 ≤ (v - b.next).toInt

/-- MAILBOX_DOORBELL (R331, R332): ignored while the mailbox is closed. One rung while the interface has no agreed version is kept, and its
entries are read at the next doorbell after a version is agreed: DESIGN CHOICE, log 96. -/
def execMailboxDoorbell (s : State) : Out :=
  match s.now with
  | some (.mailboxDoorbell m v) =>
    let b := s.h2d m
    if ¬b.isOpen then .next s
    else
      let db := if b.takes (v.setWidth 32) then v.setWidth 32 else b.db
      let b := { b with db := db, stale := false, ovr := b.ovr || decide (256 < (db - b.consumed).toNat) }
      .next (((s.setH2d m b).receive m 256).serveHead m)
  | _ => .next s

/-- The first checks of an entry (R333): the version, then the header's zero bytes; zero where they pass. -/
def State.headReason (s : State) (e : BitVec 512) (type : Nat) : Nat :=
  if entryNat e 5 1 ≠ s.agreed 0 then 6
  else if entryNat e 4 1 ≠ type ∨ entryNat e 6 2 ≠ 0 then 4
  else 0

/-- The head of a mailbox that is open and not yet in service, where it calls for the event in hand. -/
def State.headOf (s : State) (m : BitVec 6) : Option (BitVec 512) :=
  let b := s.h2d m
  if b.isOpen ∧ ¬b.waiting ∧ ¬b.svc then
    (b.entries.head?.map (·.2)).filter fun e => s.now == some (headEvent m e)
  else none

/-- A launch request of an entry (R330): the target, token and completion doublewords as SPAWN's. -/
def requestOf (pc arg0 arg1 t token comp : Dword) : LaunchReq :=
  { target := (t.extractLsb' 10 1) ++ (t.extractLsb' 0 10), pc := pc, arg0 := arg0, arg1 := arg1, asn := slice 16 16 t
    tag := slice 32 32 t, prio := slice 11 2 t, fence := t.getLsbD 13, token := token, comp := comp }

/-- Zero fields and the target's limits of R16 (R202, R333: reason 4). -/
def fieldsBad (t comp : Dword) : Bool :=
  slice 14 2 t != 0 || comp.toNat / 2 ^ 12 != 0 || (t.getLsbD 10 && decide (127 < t.toNat % 1024))

def entryDword (e : BitVec 512) (off : Nat) : Dword := .ofNat 64 (entryNat e off 8)

/-- LAUNCH_ENTRY (R333): checked and sent to the router, or refused. -/
def execLaunchEntry (s : State) : Out :=
  match s.now with
  | some (.launchEntry m) =>
    match s.headOf m with
    | none => .next s
    | some e =>
      let reason := s.headReason e 1
      let reason := if reason = 0 ∧ (m = 0 ∨ fieldsBad (entryDword e 32) (entryDword e 48) ∨ entryNat e 56 8 ≠ 0) then 4
        else reason
      if reason ≠ 0 then .next (s.consume m 3 reason 0)
      else .next ((s.setH2d m { s.h2d m with waiting := true }).post (.launchRoute (.mailbox m)
        (requestOf (entryDword e 8) (entryDword e 16) (entryDword e 24) (entryDword e 32) (entryDword e 40) (entryDword e 48))))
  | _ => .next s

/-- The Darkroom command of a mailbox 0 entry (R372). -/
def darkroomEvent (e : BitVec 512) : Event :=
  match entryNat e 8 2 with
  | 0x101 => .recover (.ofNat 64 (entryNat e 16 8))
  | 0x102 => .commit (.ofNat 8 (entryNat e 16 1))
  | 0x103 => .attest (.ofNat 256 (entryNat e 16 32))
  | 0x104 => .lcadv (.ofNat 8 (entryNat e 16 1))
  | 0x105 => .revoke (.ofNat 8 (entryNat e 16 1))
  | c => .darkroomUnknownCommand (.ofNat 16 c)

/-- SERVICE_ENTRY (R333): the interrupt, and the wait for MBSVC; in mailbox 0 the Darkroom takes the command (R372). -/
def execServiceEntry (s : State) : Out :=
  match s.now with
  | some (.serviceEntry m) =>
    match s.headOf m with
    | none => .next s
    | some e =>
      let reason := s.headReason e 2
      if reason ≠ 0 then .next (s.consume m 3 reason 0)
      else
        let b := s.h2d m
        let s := s.setH2d m { b with svc := true }
        if m = 0 then .next (s.post (darkroomEvent e))
        else if b.cfg.getLsbD 1 then .next (s.raise b.target 1 (m.setWidth 64))
        else .next s
  | _ => .next s

/-- A context holds a thread in an address space (R333). -/
def State.holds (s : State) (c : CtxId) (asn : BitVec 16) : Bool := (s.ctx c).st != .idle && (s.ctx c).cw.asn == asn

/-- WAKE_ENTRY (R333, R150); one whose address-space entry cannot be read is refused with reason 3: DESIGN CHOICE, log 98. -/
def execWakeEntry (s : State) : Out :=
  match s.now with
  | some (.wakeEntry m) =>
    match s.headOf m with
    | none => .next s
    | some e =>
      let reason := s.headReason e 3
      let c : CtxId := .ofNat 13 (entryNat e 8 2)
      let asn : BitVec 16 := .ofNat 16 (entryNat e 10 2)
      let reason := if reason = 0 ∧ (m = 0 ∨ 2 ^ 13 ≤ entryNat e 8 2 ∨ entryNat e 12 52 ≠ 0) then 4 else reason
      if reason ≠ 0 then .next (s.consume m 3 reason 0)
      else match s.asLookup asn with
      | .error (.fault f) => .fault f
      | .error _ => .next (s.consume m 3 3 0)
      | .ok (s, as) =>
        let allowed : Bool := match as with | some a => a.lmask.getLsbD m.toNat | none => false
        if allowed ∧ s.holds c asn then .next ((s.modCtx c fun x => { x with latch := true }).consume m 4 0 0)
        else .next (s.consume m 3 3 0)
  | _ => .next s

/-- MBSVC (R333): consumes the service entry at the head whose seq it names. -/
def execMbsvc (s : State) : Out :=
  match s.now with
  | some (.mbsvc m v) =>
    let b := s.h2d m
    match b.entries with
    | (n, _) :: _ => if b.isOpen ∧ b.svc ∧ v = n.setWidth 64 then .next (s.consume m 4 0 0) else .next s
    | [] => .next s
  | _ => .next s

/-! ## Opening and resetting (R331, R336, R378) -/

/-- Locking the server mask: the default bit of every die that has no server core (R378). -/
def lockMask (v : Vector Dword 16) : Vector Dword 16 :=
  Vector.ofFn fun (i : Fin 16) =>
    let d := i.val / 2 * 2
    if i.val = d ∧ (v.toList.getD d 0 ||| v.toList.getD (d + 1) 0) = 0 then 1 else v[i]

/-- Set the lock of the server mask (R378). -/
def State.lockServers (s : State) : State :=
  if s.boot.srvlock then s
  else { s with boot := { s.boot with srvlock := true, srvmask := lockMask s.boot.srvmask } }

/-- A device-to-host mailbox is closed: the messages that wait for a slot of it are dropped and counted in lost (R335). -/
def State.dropMessages (s : State) (m : BitVec 6) : State :=
  let n := (s.dev.msgs.filter (·.mailbox == m)).length
  (s.setD2h m { s.d2h m with lost := (s.d2h m).lost + .ofNat 16 n }).modDev fun d =>
    { d with msgs := d.msgs.filter (·.mailbox != m) }

/-- MAILBOX_OPEN: MBCFG is written (R331); a mailbox that opens acts only on doorbells written from then on; the first mailbox other
than 0 to open locks the server mask (R378). A host-to-device mailbox closed without a reset keeps its entries, the index of its next one
and a launch that waits for it: DESIGN CHOICE, log 112. -/
def execMailboxOpen (s : State) : Out :=
  match s.now with
  | some (.mailboxOpen true m v) =>
    let s := s.setD2h m { s.d2h m with cfg := v &&& 3 }
    let s := if v.getLsbD 0 then s else s.dropMessages m
    .next (if v.getLsbD 0 ∧ m ≠ 0 then s.lockServers else s)
  | some (.mailboxOpen false m v) =>
    let b := s.h2d m
    let s := s.setH2d m (if v.getLsbD 0 ∧ ¬b.isOpen then { b with cfg := v &&& 0x7FFF, db := b.next, stale := false }
      else { b with cfg := v &&& 0x7FFF })
    .next ((if v.getLsbD 0 ∧ m ≠ 0 then s.lockServers else s).serveHead m)
  | _ => .next s

/-- MAILBOX_RESET (R336): MBRST is written with 1; a write of any other value changes nothing: DESIGN CHOICE, log 75. -/
def execMailboxReset (s : State) : Out :=
  match s.now with
  | some (.mailboxReset toHost m v) =>
    if v ≠ 1 then .next s
    else if toHost then
      let b := s.d2h m
      .next ((s.setD2h m { b with cfg := b.cfg &&& ~~~(1 : Dword), posted := 0, head := 0 }).dropMessages m)
    else
      let b := s.h2d m
      let s := s.setH2d m { b with
        cfg := b.cfg &&& ~~~(1 : Dword), lost := b.lost + .ofNat 16 b.entries.length, entries := [], next := 0
        consumed := 0, db := 0, waiting := false, stale := false, svc := false }
      .next (s.modDev fun d => { d with router := d.router.filter (·.origin != .mailbox m) })
  | _ => .next s

/-- An image is running (R370: stages 1 and 3). -/
def Boot.running (b : Boot) : Bool := b.stage == 1 || b.stage == 3

/-- Units come up once Safelight is reached and an image runs (R366, R371). -/
def State.bringsUp (s : State) : Bool := s.boot.ready.getLsbD 0 && s.boot.running

/-- A port whose link is being trained is no longer Absent (R349). -/
def Niu.trains (u : Niu) (p : Nat) : Niu :=
  let x := u.port p
  if x.state = .absent then { u with ports := tableSet u.ports p { x with state := .training } } else u

/-- VERSION_WRITE (R346): the partner's versions of VMBX, VSHT or a VLNK; VMBX only while every mailbox but 0 is closed. A doorbell rung
before is not acted on: DESIGN CHOICE, log 96. Link training writes a VLNK, so its port has a neighbour, and trains from Safelight on (R366). -/
def execVersionWrite (s : State) : Out :=
  match s.now with
  | some (.versionWrite n lo hi) =>
    let busy := s.dev.h2d.any (fun e => e.1 != 0 && e.2.isOpen) || s.dev.d2h.any (fun e => e.1 != 0 && e.2.isOpen)
    if n = 0 ∧ busy then .next s
    else
      let s := s.modDev fun d => { d with ver := tableSet d.ver n.toNat (lo, hi) }
      .next (if 2 ≤ n.toNat ∧ n.toNat < 10 ∧ s.bringsUp then s.modNiu fun u => u.trains (n.toNat - 2) else s)
  | _ => .next s

end Sys2Proof.Machine
end

