-- ==== Sys2Proof/Machine/Slots.lean ====
section
/-! DEFINITION. Tile slots (R13, R217, R220, R395): which are in use, what is held back, who obtains new ones; and what waits for the tile
commands of a core or a skein to be done. -/

namespace Sys2Proof.Machine

/-! ## Slots in use (R217, R220, R395) -/

/-- The contexts and the cores of a skein. -/
def ctxsOfSkein (k : SkeinId) : List CtxId := (List.range 64).map fun n => k ++ BitVec.ofNat 6 n
def coresOfSkein (k : SkeinId) : List CoreId := (List.range 8).map fun n => coreInSkein k (.ofNat 3 n)

/-- The engines of the slots in use on a skein: those of its threads' tile registers, and those that an unretired command's registers held
before it and that its retirement frees (R220). -/
def State.usedSlots (s : State) (k : SkeinId) : List Nat :=
  (ctxsOfSkein k).flatMap (fun c => (s.ctx c).tslots) ++ (coresOfSkein k).flatMap fun n => (s.core n).tq.flatMap (·.old)

/-- The engine with the most free slots, the lowest number on a tie, given the slots used on each. -/
def mostFree (used : List Nat) : Nat :=
  (List.range 4).foldl (fun best e => if used.getD e 0 < used.getD best 0 then e else best) 0

/-- Engines of n new slots, taken one at a time. -/
def takeSlots (used : List Nat) : Nat → List Nat
  | 0 => []
  | n + 1 => let e := mostFree used; e :: takeSlots (used.set e (used.getD e 0 + 1)) n

/-- New slots on a skein. -/
def State.newSlots (s : State) (k : SkeinId) (n : Nat) : List Nat :=
  takeSlots ((List.range 4).map fun e => (s.usedSlots k).count e) n

/-- m[d] upward take these slots (R220). -/
def putSlots (slots : List Nat) (d : Nat) : List Nat → List Nat
  | [] => slots
  | e :: r => putSlots (slots.set d e) (d + 1) r

/-! ## Who obtains new slots (R13, R220) -/

/-- The slots of a skein that are free (R217, R395). -/
def State.freeSlots (s : State) (k : SkeinId) : Nat := Config.tileSlots - (s.usedSlots k).length

/-- The oldest unretired tile command of a context of a core. -/
def CoreSt.oldestTile (k : CoreSt) (c : BitVec 3) : Option TileCmd := k.tq.find? fun t => t.ctx == c

/-- What the skein holds back for one thread: eight slots less the new ones that its oldest unretired tile command has. -/
def State.heldBack (s : State) (c : CtxId) : Nat :=
  if (s.ctx c).tile then 8 - (((s.core (coreOf c)).oldestTile (ctxInCore c)).map (·.old.length)).getD 0 else 0

/-- What it holds back for all of them. -/
def State.slotReserve (s : State) (k : SkeinId) : Nat := ((ctxsOfSkein k).map s.heldBack).sum

/-- A tile instruction of a thread obtains n new slots: the thread's oldest unretired one from all that are free, a younger one only from
those beyond the reserve (R220). -/
def State.obtains (s : State) (c : CtxId) (n : Nat) : Bool :=
  n == 0 ||
    if ((s.core (coreOf c)).oldestTile (ctxInCore c)).isNone then decide (n ≤ s.freeSlots (skeinOf c))
    else decide (n + s.slotReserve (skeinOf c) ≤ s.freeSlots (skeinOf c))

/-- One more thread's eight slots are free, with the reserve that a tile-enabled thread brings (R217, R220). -/
def State.enables (s : State) (k : SkeinId) : Bool := 8 + 8 + s.slotReserve k ≤ s.freeSlots k

/-- Tile-enabled threads of a core, and of a skein (R13). -/
def State.tileThreads (s : State) (core : CoreId) : Nat := ((ctxsOfCore core).filter fun c => (s.ctx c).tile).length
def State.tileThreadsSkein (s : State) (k : SkeinId) : Nat := ((coresOfSkein k).map s.tileThreads).sum
/-- The limits of R13 allow one more. -/
def State.tileRoom (s : State) (c : CtxId) : Bool :=
  decide (s.tileThreads (coreOf c) < Config.tileThreadsPerCore) &&
  decide (s.tileThreadsSkein (skeinOf c) < Config.tileThreadsPerSkein)

/-- tr and tc of a shape (R229). -/
def shapeOf (h : Nat) : Nat × Nat :=
  match h with
  | 0 => (1, 2) | 1 => (2, 1) | 2 => (2, 2) | 3 => (1, 4) | 4 => (4, 1) | 5 => (2, 4) | _ => (4, 2)

/-- The new slots that a tile instruction takes: one for each register it writes (R220). -/
def newSlotsOf : Instr → Nat
  | .tzero _ => 1
  | .tld _ _ _ => 1
  | .tmma _ _ _ _ _ _ _ _ _ _ _ => 1
  | .tmmag _ _ h _ _ _ _ _ _ _ => (shapeOf h.toNat).1 * (shapeOf h.toNat).2
  | .tmmap _ _ _ _ _ _ _ _ => 8
  | .tadd _ _ _ => 1
  | .tsclRow _ _ _ => 1
  | .tsclCol _ _ _ => 1
  | .tcvt _ _ _ _ => 1
  | .ttr _ _ _ => 1
  | .tvrow _ _ _ => 1
  | _ => 0

/-- A thread's tile instruction finds too few free slots (R220); TCFG takes its eight where the thread is not tile-enabled and the limits
allow it (R217). -/
def State.lacksSlots (s : State) (c : CtxId) : Instr → Bool
  | .tcfg _ _ _ _ => !(s.ctx c).tile && s.tileRoom c && !s.enables (skeinOf c)
  | i => (s.ctx c).tile && !s.obtains c (newSlotsOf i)

/-! ## Waiting for tile commands (R219, R231, R283) -/

/-- A context of these cores whose TMMAP still waits for a partner. -/
def State.unpairedOn (s : State) (cores : List CoreId) : Option CtxId :=
  cores.findSome? fun k => ((s.core k).tq.find? fun t => t.pair.isSome).map fun t => ctxOf k t.ctx

/-- What waits for tile commands of these cores: a TMMAP among them stops waiting for its partner in time (R231). DESIGN CHOICE, log 23. -/
def State.waitTiles (s : State) (cores : List CoreId) : State :=
  match s.unpairedOn cores with
  | some c => (s.post (.tmmapPairTimeout c)).stall
  | none => s.stall

/-- A context has unretired tile commands. -/
def State.tileBusy (s : State) (c : CtxId) : Bool := ((s.core (coreOf c)).oldestTile (ctxInCore c)).isSome

/-- Commands leave the queue as they retire: their steps are done, and those of every older command of their thread (R220, R283). -/
def retireTiles (waiting : List (BitVec 3)) : List TileCmd → List TileCmd
  | [] => []
  | t :: r =>
    if t.waiting.isEmpty && t.running.isEmpty && !waiting.contains t.ctx then retireTiles waiting r
    else t :: retireTiles (t.ctx :: waiting) r

end Sys2Proof.Machine
end

