-- ==== Sys2Proof/Machine/Launch.lean ====
section
/-! DEFINITION. Launches: the router (R16-R19, R278, R279), the launch queues (R20, R280), starting a thread (R21-R23),
SPAWN (R202), EXIT and what ends a thread (R24, R25, R203), and completion tokens (R393). -/

namespace Sys2Proof.Machine

/-! ## What a request may ask (R16, R17, R321) -/

/-- The die of a core is ready (R367). -/
def State.dieReady (s : State) (core : CoreId) : Bool := s.boot.ready.getLsbD (1 + core.toNat / 128)
/-- The cores of a skein that are no server cores, lowest first. -/
def State.workers (s : State) (k : SkeinId) : List CoreId :=
  ((List.range 8).map fun n => coreInSkein k (.ofNat 3 n)).filter fun c => !s.isServer c

/-- The kind bit: any core of the skein (R16). -/
def anyCore (q : LaunchReq) : Bool := q.target.getLsbD 10
def targetCore (q : LaunchReq) : CoreId := q.target.setWidth 10
def targetSkein (q : LaunchReq) : SkeinId := q.target.setWidth 7

/-- The program counter breaks R16: a bundle address, canonical and local. -/
def pcBad (pc : Dword) : Bool := pc.toNat % 8 != 0 || pc.toNat / 2 ^ 56 != 0

/-- The target is a server core, or a skein of server cores alone (R17). -/
def State.targetServer (s : State) (q : LaunchReq) : Bool :=
  if anyCore q then (s.workers (targetSkein q)).isEmpty else s.isServer (targetCore q)

/-- The token and message of a completion word are not allowed (R202). DEDUCED, log 20. -/
def completionBad (q : LaunchReq) (as : AsEntry) : Bool :=
  (q.comp.getLsbD 0 && (q.token.toNat % 8 != 0 || q.token.getLsbD 63)) || 9 < (slice 1 4 q.comp).toNat ||
  (q.comp.getLsbD 5 && !as.posts (slice 6 6 q.comp))

/-- The origin may launch into the address space (R321); a copy's launch goes where its thread runs (R206). -/
def State.mayLaunch (s : State) (o : LaunchOrigin) (q : LaunchReq) (as : AsEntry) : Bool :=
  match o with
  | .mailbox m => as.lmask.getLsbD m.toNat
  | .spawn c => (s.ctx c).cw.asn == q.asn || as.spawn
  | .copy _ _ _ => true

/-- The reason a request is refused, in the order of R333 from reason 2 on; zero where it is not. -/
def State.refusal (s : State) (o : LaunchOrigin) (q : LaunchReq) (as : Option AsEntry) : Nat :=
  if pcBad q.pc then 2
  else match as with
    | none => 3
    | some a =>
      if ¬s.mayLaunch o q a then 3
      else if s.targetServer q then 1
      else if completionBad q a then 5
      else 0

/-! ## The choice of a core (R19) -/

/-- A core with an Idle context. -/
def State.hasIdle (s : State) (core : CoreId) : Bool := (ctxsOfCore core).any fun c => (s.ctx c).st == .idle

/-- The core with the fewest entries, the lowest number on a tie. -/
def State.fewest (s : State) : List CoreId → Option CoreId
  | [] => none
  | a :: r =>
    match s.fewest r with
    | some b => if (s.core b).lq.length < (s.core a).lq.length then some b else some a
    | none => some a

/-- The target core of a request (R19). -/
def State.chooseCore (s : State) (q : LaunchReq) : CoreId :=
  if anyCore q then
    let w := s.workers (targetSkein q)
    match w.find? s.hasIdle with
    | some c => c
    | none => (s.fewest w).getD 0
  else (targetCore q)

/-! ## The router (R278, R279) -/

/-- Hold entries of a skein in use. -/
def State.holdsUsed (s : State) (k : SkeinId) : Nat := (s.dev.router.filter fun w => w.hold && skeinOfCore w.core == k).length

/-- A core's queue takes a request now: room, and its die ready (R368). -/
def State.queueOpen (s : State) (core : CoreId) : Bool :=
  s.dieReady core && decide ((s.core core).lq.length < Config.launchQueueDepth)

/-- Enter a request in a core's queue; the head may claim (R20). -/
def State.enterQueue (s : State) (core : CoreId) (q : LaunchReq) (o : LaunchOrigin) : State :=
  let e : LqEntry := { req := q, origin := o, seq := s.dev.lqSeq, since := s.cyc }
  (((s.modDev fun d => { d with lqSeq := d.lqSeq + 1 }).modCore core fun k => { k with lq := k.lq ++ [e] })).post
    (.launchClaim core)

/-- What the router does with a request. -/
inductive Routed where
  /-- in the launch queue of a core -/
  | entered (core : CoreId)
  /-- in a hold entry -/
  | held
  /-- waiting without a hold entry: a mailbox head, or a copy's launch -/
  | waits
  /-- not answered: a SPAWN that finds no hold entry -/
  | unanswered
  deriving DecidableEq, Repr

/-- Wait at the router behind those already there; counter 11 (R279, R295). -/
def State.waitAtRouter (s : State) (core : CoreId) (q : LaunchReq) (o : LaunchOrigin) (hold unchecked : Bool) : State :=
  (s.modDev fun d => { d with router := d.router ++ [{ core := core, req := q, origin := o, hold := hold, unchecked := unchecked }] }).modCore
    core fun k => k.count 11 1

/-- Route a request that is not refused to the core chosen for it. -/
def State.route (s : State) (o : LaunchOrigin) (q : LaunchReq) (core : CoreId) : State × Routed :=
  let room : Bool := s.holdsUsed (skeinOfCore core) < Config.holdEntries
  if s.queueOpen core ∧ ¬(s.dev.router.any (·.core == core)) then (s.enterQueue core q o, .entered core)
  else match o with
    | .mailbox _ => (s.waitAtRouter core q o false false, .waits)
    | .spawn _ => if room then (s.waitAtRouter core q o true false, .held) else (s, .unanswered)
    | .copy _ _ _ => if room then (s.waitAtRouter core q o true false, .held) else (s.waitAtRouter core q o false false, .waits)

/-- CQSTAT.fail of a queue of a core (R292). -/
def State.setCqFail (s : State) (core : CoreId) (q : BitVec 2) : State :=
  s.modSkein (skeinOfCore core) fun k => { k with cqfail := k.cqfail ||| ((1 : BitVec 32) <<< (core.toNat % 8 * 4 + q.toNat)) }

/-- The head command of a copy queue has ended: it is removed, with the barriers behind it (R198, R290). DEDUCED, log 57. -/
def CoreSt.popQueue (k : CoreSt) (q : BitVec 2) : CoreSt :=
  k.setQueue q ((k.queue q).tail.dropWhile fun e => match e with | .barrier => true | .cmd _ => false)

/-- Finish a copy command whose completion launch the router has taken. -/
def State.popCopy (s : State) (core : CoreId) (q : BitVec 2) : State :=
  ((s.modCore core fun k => k.popQueue q).post (.copyUnit (skeinOfCore core))).post (.cpflFill (skeinOfCore core))

/-- Whether a copy's launch still keeps its queue: the command at the head is finished and waits. -/
def State.copyWaits (s : State) (core : CoreId) (q : BitVec 2) : Bool :=
  match (s.core core).queue q with
  | .cmd c :: _ => c.finished
  | _ => false

/-- The router checks a request (R17): the reason for which it is refused, or zero. One whose address-space entry cannot be read is
refused with reason 3: DESIGN CHOICE, log 98. -/
def State.checkRequest (s : State) (o : LaunchOrigin) (q : LaunchReq) : Except Fault (State × Nat) :=
  match s.asLookup q.asn with
  | .ok (s, as) => .ok (s, s.refusal o q as)
  | .error (.fault f) => .error f
  | .error _ => .ok (s, s.refusal o q none)

/-- A mailbox's request has a core on a die that is not ready: it is held as it comes (R368). -/
def State.tooEarly (s : State) (q : LaunchReq) : Bool :=
  !(anyCore q && (s.workers (targetSkein q)).isEmpty) && !s.dieReady (s.chooseCore q)

/-- LAUNCH_ROUTE: the request is checked, its core chosen, and it is entered, held or refused (R17, R278). A mailbox that
has been reset in the meantime has no request (R336). A mailbox's launch to a die that is not ready waits, and is checked when it is
served: DESIGN CHOICE, log 104. -/
def execLaunchRoute (s : State) : Out :=
  match s.now with
  | some (.launchRoute o q) =>
    let core := s.chooseCore q
    match o with
    | .mailbox m =>
      if ¬(s.h2d m).waiting then .next s
      else if s.tooEarly q then .next (s.waitAtRouter core q o false true)
      else match s.checkRequest o q with
        | .error f => .fault f
        | .ok (s, 0) => match s.route o q core with
          | (s, .entered core) => .next (s.consume m 2 0 core.toNat)
          | (s, _) => .next s
        | .ok (s, reason) => .next (s.consume m 3 reason 0)
    | .spawn _ => match s.checkRequest o q with
      | .error f => .fault f
      | .ok (s, 0) => .next (s.route o q core).1
      | .ok (s, _) => .next s
    | .copy from_ n _ =>
      if ¬s.copyWaits from_ n then .next s
      else match s.checkRequest o q with
        | .error f => .fault f
        | .ok (s, 0) => match s.route o q core with
          | (s, .waits) => .next s
          | (s, _) => .next (s.popCopy from_ n)
        | .ok (s, _) => .next ((s.setCqFail from_ n).popCopy from_ n)
  | _ => .next s

/-- A waiting copy launch takes a hold entry that has come free, and its queue goes on. DEDUCED, log 26. -/
def State.promoteCopy (s : State) (k : SkeinId) : State :=
  match s.dev.router.find? fun w => !w.hold && skeinOfCore w.core == k && (match w.origin with | .copy _ _ _ => true | _ => false) with
  | some w =>
    if s.holdsUsed k < Config.holdEntries then
      let s := s.modDev fun d => { d with router := d.router.map fun x => if x == w then { x with hold := true } else x }
      match w.origin with
      | .copy core n _ => s.popCopy core n
      | _ => s
    else s
  | none => s

/-- The check that a request waiting at the router has still to pass. -/
def State.checkWaiting (s : State) (w : RouterWait) : Except Fault (State × Nat) :=
  if w.unchecked then s.checkRequest w.origin w.req else .ok (s, 0)

/-- A request that waited at the router enters its core's queue: its source hears of it. -/
def State.serveWaiting (s : State) (w : RouterWait) : State :=
  let s := s.enterQueue w.core w.req w.origin
  match w.origin with
  | .mailbox m => s.consume m 2 0 w.core.toNat
  | .spawn _ => s
  | .copy k n _ => if w.hold then s else s.popCopy k n

/-- A mailbox's request that waited for its die is refused. -/
def State.refuseWaiting (s : State) (w : RouterWait) (reason : Nat) : State :=
  match w.origin with
  | .mailbox m => s.consume m 3 reason 0
  | .spawn _ => s
  | .copy _ _ _ => s

/-- ROUTER_FILL: a free entry of a core's queue takes the request that first found it full (R279), or found its die not ready (R368). -/
def execRouterFill (s : State) : Out :=
  match s.now with
  | some (.routerFill core) =>
    match s.dev.router.find? (·.core == core) with
    | none => .next s
    | some w =>
      if ¬s.queueOpen core then .next s
      else match s.checkWaiting w with
        | .error f => .fault f
        | .ok (s, reason) =>
          let s := s.modDev fun d => { d with router := dropFirst (·.core == core) d.router }
          let s := if reason = 0 then s.serveWaiting w else s.refuseWaiting w reason
          .next ((s.promoteCopy (skeinOfCore core)).post (.routerFill core))
  | _ => .next s

/-! ## The launch queue (R20, R280) -/

/-- e leaves the queue before f. -/
def LqEntry.before (e f : LqEntry) : Bool := f.req.prio.toNat < e.req.prio.toNat || (e.req.prio == f.req.prio && e.seq < f.seq)

/-- The head: the oldest of the highest priority (R20). -/
def headOfQueue : List LqEntry → Option LqEntry
  | [] => none
  | a :: r =>
    match headOfQueue r with
    | some b => if b.before a then some b else some a
    | none => some a

/-- The state a thread starts with (R21). -/
def startCtx (q : LaunchReq) (o : LaunchOrigin) (exitpc : Dword) : Ctx :=
  { Ctx.reset with
    st := .starting, pc := q.pc, x := ((Vector.replicate 32 0).set 1 q.arg0).set 2 q.arg1
    b := (Vector.replicate 8 ⟨0, false⟩).set 0 (.to exitpc true)
    cw := { Cw.reset with ltag := q.tag, asn := q.asn }
    comp := if q.comp.getLsbD 0 ∨ q.comp.getLsbD 5 then some { token := q.token, word := q.comp, asn := q.asn, ltag := q.tag } else none
    start := some (q, o) }

/-- A context takes its place among those that issue. -/
def State.addTurn (s : State) (c : CtxId) : State := if s.turns.contains c then s else { s with turns := s.turns ++ [c] }
def State.dropTurn (s : State) (c : CtxId) : State := { s with turns := s.turns.filter (· != c) }

/-- LAUNCH_CLAIM: the queue's head takes the lowest-numbered Idle context (R20); a gang stop holds claims (R314), and so
does a power-fail drain (R389). -/
def execLaunchClaim (s : State) : Out :=
  match s.now with
  | some (.launchClaim core) =>
    let k := s.core core
    if s.gang ∨ s.power.drain ≠ .none ∨ ¬s.dieReady core then .next s
    else match headOfQueue k.lq, (ctxsOfCore core).find? fun c => (s.ctx c).st == .idle with
      | some e, some c =>
        let s := s.setCtx c (startCtx e.req e.origin k.exitpc)
        let s := s.modCore core fun k => { k with lq := dropFirst (·.seq == e.seq) k.lq }
        .next (((s.addTurn c).post (.routerFill core)).post (.launchClaim core))
      | _, _ => .next s
  | _ => .next s

/-- The scope the start of a launched thread acquires at (R23, R206). -/
def startScope : LaunchOrigin → BitVec 4
  | .mailbox _ => 5
  | .spawn _ => 4
  | .copy _ _ scope => scope

/-- THREAD_START: the code fence and the acquire, and the context is Running (R21-R23). -/
def execThreadStart (s : State) : Out :=
  match s.now with
  | some (.threadStart c) =>
    let x := s.ctx c
    if x.st ≠ .starting then .next s
    else
      let core := coreOf c
      let s := match x.start with
        | some (q, o) =>
          let s := if q.fence then s.modCore core fun k => { k with icache := k.icache.filter fun e => e.asn != q.asn } else s
          s.acquireS core (startScope o)
        | none => s
      .next (s.modCtx c fun x => { x with st := .running, start := none })
  | _ => .next s

/-- The cycles after which an entry is raised (R280). -/
def agingCycles : Nat := 1048576

/-- LAUNCH_ENTRY_AGING: entry n of a core's queue, having waited at one priority, is raised by one (R280); the next wait counts from
the cycle it was due. -/
def execLaunchEntryAging (s : State) : Out :=
  match s.now with
  | some (.launchEntryAging core n) =>
    match (s.core core).lq[n.toNat]? with
    | some e =>
      if e.req.prio = 3 ∨ s.cyc < e.since + agingCycles then .next s
      else .next (s.modCore core fun k =>
        { k with lq := k.lq.map fun f => if f.seq == e.seq then { f with req := { f.req with prio := f.req.prio + 1 }, since := f.since + agingCycles } else f })
    | none => .next s
  | _ => .next s

/-! ## SPAWN and EXIT -/

/-- SPAWN (R202): a release at PACKAGE scope, then the request; step 1 waits while the router does not answer, with its core chosen
once (R19). -/
def execSpawn (d a : Reg) (s : State) : Out :=
  let c := s.cur
  let x := fun (n : BitVec 5) => s.getX (a + n)
  let q := requestOf (x 0) (x 1) (x 2) (x 3) (x 4) (x 5)
  let s := s.releaseNow c 4
  s.after (s.asEntry (coreOf c) q.asn) fun r =>
    let s := r.1
    if fieldsBad (x 3) (x 5) ∨ s.refusal (.spawn c) q r.2 ≠ 0 then
      .next (((s.modMe fun x => { x with spawnTo := none }).setP (low3 d) false).endC .next)
    else
      let core := s.me.spawnTo.getD (s.chooseCore q)
      match s.route (.spawn c) q core with
      | (_, .unanswered) => .next (s.modMe fun x => { x with spawnTo := some core }).stall
      | (s, _) => .next (((s.modMe fun x => { x with spawnTo := none }).setP (low3 d) true).endC .next)

/-- EXIT retires: the context is Exiting (R24). -/
def execExit (s : State) : Out :=
  .next (((s.modMe fun x => { x with st := .exiting }).leaveFused s.cur).modCore (coreOf s.cur)
    fun k => { k with retired := k.retired + 1 }).yieldTurn

/-! ## Completion tokens (R393) -/

/-- The reason of a kind-4 record for a translation that fails (R360). DEDUCED, log 19. -/
def tokenReason (as : Option AsEntry) (e : Exc) : Nat :=
  if as.isNone then 4
  else if e.code = 7 then e.detail
  else if e.code = 0x0C then 3
  else if e.detail = 3 then 1
  else 0

/-- The record of an increment that is not made (R360, R393). -/
def State.tokenRecord (s : State) (c : CtxId) (line va : Dword) (asn : BitVec 16) (reason : Nat) : State :=
  (s.record 4 unitCompletion (errPlace c) line va (zext asn) (.ofNat 64 reason) 0).1

/-- Whether an address space is valid now, for one who translates; firmware mode has none. -/
def State.spaceOf (s : State) (w : Who) : Except Stop (Option AsEntry) :=
  if w.mode = 3 then .ok (some { asn := 0, word0 := 1, lmask := 0, dmask := 0, last := 0 })
  else do
    let (_, as) ← s.asEntry w.core w.asn
    return as

/-- The physical address of the line at a token's address, for a record, where it translates. -/
def State.tokenLine (s : State) (w : Who) (va : Dword) : Dword :=
  match s.mapRange w .rmw va 8 with
  | .ok (_, b :: _) => s.lineAddress b.loc
  | _ => 0

/-- Add 1 to a token, with release at a scope; fail sets bit 63 too (R206, R393). An increment that cannot be made is
recorded. A walk that meets poison or a failed pair is a machine check in the context (R362, R368). -/
def State.tokenAdd (s : State) (c : CtxId) (w : Who) (va : Dword) (scope : BitVec 4) (fail : Bool) : Except Stop State :=
  let s := s.releaseS w.core scope
  let f := fun (old : Nat) => (old + 1) % 2 ^ 64 ||| (if fail then 2 ^ 63 else 0)
  let r : Except Stop (State × Nat) := do
    let (s, l) ← s.mapRange w .rmw va 8
    s.rmw c l f
  let notMade := fun (s : State) (e : Exc) => do
    let as ← s.spaceOf w
    let reason := tokenReason as e
    return s.tokenRecord c (if reason = 3 then s.tokenLine w va else 0) va w.asn reason
  match r with
  | .ok (s, _) => .ok s
  | .error (.trap e) => notMade s e
  | .error (.dirtyRefused e a p) => notMade (s.putPte a p) e
  | .error e => .error e

/-! ## The end of a thread (R24, R25) -/

/-- Release the tile state (R218). -/
def Ctx.dropTiles (x : Ctx) : Ctx := { x with tile := false, tslots := [], fmt := 0, m := Vector.replicate 8 0 }

/-- The completion action of a launch (R24), in the launch's address space (R393). A message alone writes back no dirty S byte of the
exited thread's core: DESIGN CHOICE, log 68. -/
def State.complete (s : State) (c : CtxId) : Except Stop State := do
  match (s.ctx c).comp with
  | none => return s
  | some a =>
    let s ← if a.word.getLsbD 0 then
        s.tokenAdd c { core := coreOf c, asn := a.asn, mode := 0, sum := false, tval2 := 0 } a.token (slice 1 4 a.word) false
      else .ok s
    return if a.word.getLsbD 5 then
        s.sendMessage { mailbox := slice 6 6 a.word, source := c, body := messageBody a.ltag a.asn (coreOf c) }
      else s

/-- A context becomes Idle: it holds no thread, and its queue's head may claim it (R20, R24, R26). -/
def State.makeIdle (s : State) (c : CtxId) : State := ((s.setCtx c Ctx.reset).dropTurn c).post (.launchClaim (coreOf c))

/-- The completion message of a context waits for a slot (R335). -/
def State.messageWaits (s : State) (c : CtxId) : Bool := s.dev.msgs.any (·.source == c)

/-- An Exiting context returns to Running with the deferred remote-store trap (R25). DEDUCED, log 21. -/
def State.exitFails (s : State) (c : CtxId) (f : Fail) : State :=
  (s.modCtx c fun x => { x with st := .running, fails := x.fails.drop 1 }).enterTrap c (failTrap f) false

/-- EXIT_DRAIN_COMPLETE (R24, R25): the thread's tile commands and its stores are done, the tiles released, the completion action performed, its message
posted or dropped; a gang stop holds the drain (R26). DEDUCED, log 21. -/
def execExitDrainComplete (s : State) : Out :=
  match s.now with
  | some (.exitDrainComplete c) =>
    let x := s.ctx c
    if x.st ≠ .exiting ∨ s.gang then .next s.stall
    else if s.tileBusy c then .next (s.waitTiles [coreOf c])
    else
      let s := s.drain c
      match x.fails with
      | f :: _ => .next (s.exitFails c f)
      | [] =>
        if ¬(s.posted c).isEmpty then .next s.stall
        else
          let s := s.modCtx c Ctx.dropTiles
          match s.complete c with
          | .ok s =>
            let s := s.modCtx c fun x => { x with comp := none }
            if s.messageWaits c then .next s.stall else .next (s.makeIdle c)
          | .error (.machine d u a) => .next ((s.modCtx c fun x => { x with st := .running }).machineCheck c d u a false)
          | .error (.fault f) => .fault f
          | .error _ => .next s.stall
  | _ => .next s

end Sys2Proof.Machine
end

