-- ==== Sys2Proof/Machine/Copy.lean ====
section
/-! DEFINITION. The copy engine: COPY and CPFL enter their queues (R204, R205, R207, R290), the engine performs units and
fills (R205, R258, R259, R272), pins (R274-R276), and completion actions (R206). -/

namespace Sys2Proof.Machine

/-! ## Probing (R96, R205) -/

/-- Probe a range (R96): every page is translated and no memory accessed; a fabric address is an access fault here. -/
def State.probeRange (s : State) (w : Who) (k : Kind) (va : Dword) (len : Nat) : Except Stop State := do
  if len = 0 then return s
  else if w.mode = 3 then
    if va.toNat / 2 ^ 56 ≠ 0 then throw (accessFault va 1)
    return s
  else if va.getLsbD 63 then throw (accessFault va 2)
  else if 2 ^ 56 < va.toNat + len then throw (accessFault va 1)
  else
    let n := (va.toNat + len - 1) / 4096 - va.toNat / 4096
    let (s, _) ← s.mapPages w k ([va.toNat] :: (List.range n).map fun i => [(va.toNat / 4096 + 1 + i) * 4096])
    return s

/-- Probe n rows from the first; fabric rows are passed over where the command accepts them (R205). -/
def State.probeRows (s : State) (w : Who) (k : Kind) (base : Dword) (pitch len : Nat) (fabric : Bool) (row : Nat) :
    Nat → Except Stop State
  | 0 => return s
  | n + 1 => do
    let va := base + .ofNat 64 (row * pitch)
    let s ← if fabric ∧ va.getLsbD 63 ∧ w.mode ≠ 3 then .ok s else s.probeRange w k va len
    s.probeRows w k base pitch len fabric (row + 1) n

/-! ## COPY and CPFL (R204-R207) -/

/-- The completion action with its register values (R206). -/
def Ctx.copyDone (x : Ctx) (c : BitVec 2) (r : Reg) : CopyDone :=
  match c.toNat with
  | 1 => .token (x.getX r)
  | 2 => .spawn (x.getX r) (x.getX (r + 1)) (x.getX (r + 2))
  | _ => .none

/-- The command of a COPY or CPFL of the running context. -/
def State.copyCmd (s : State) (level : Option (BitVec 2)) (c : BitVec 2) (scope : BitVec 4) (d a g r : Reg) : CopyCmd :=
  let x := s.me
  { level := level, scope := scope, dst := if level.isSome then 0 else x.getX d, src := x.getX a
    rowLen := (x.getX g).toNat % 2 ^ 32, rows := (x.getX g).toNat / 2 ^ 32, srcPitch := (x.getX (g + 1)).toNat % 2 ^ 32
    dstPitch := (x.getX (g + 1)).toNat / 2 ^ 32, done := x.copyDone c r, asn := x.cw.asn, tag := x.cw.ltag, mode := x.mode
    sum := x.sum, issuer := ctxInCore s.cur, row := 0, col := 0, failed := false, unit := none, buf := [], bufPoison := false
    started := false, pin := none, wait := .none, finished := false }

/-- Who the engine translates as (R206). -/
def CopyCmd.who (c : CopyCmd) (core : CoreId) : Who := { core := core, asn := c.asn, mode := c.mode, sum := c.sum, tval2 := 0 }

/-- What step 1 checks of the token: alignment (R206). -/
def CopyCmd.tokenSkew (c : CopyCmd) : Option Dword :=
  match c.done with
  | .token a => if a.toNat % 8 ≠ 0 then some a else none
  | _ => none
def CopyCmd.tokenFabric (c : CopyCmd) : Option Dword :=
  match c.done with
  | .token a => if a.getLsbD 63 then some a else none
  | _ => none

/-- The probes of step 1: destination rows, source rows, then the token (R66, R205, R206, R207). -/
def State.probeCopy (s : State) (c : CopyCmd) : Except Stop State := do
  let w := s.who s.cur
  let n := if c.rowLen = 0 then 0 else c.rows
  let s ← match c.level with
    | none => do
      let s ← s.probeRows w .store c.dst c.dstPitch c.rowLen true 0 n
      s.probeRows w .load c.src c.srcPitch c.rowLen true 0 n
    | some _ => canonRows s c.src c.srcPitch c.rowLen 0 n
  match c.tokenFabric with
  | some a => throw (accessFault a 2)
  | none => return s
where
  /-- CPFL's source rows are local and canonical; no page is translated (R207). -/
  canonRows (s : State) (base : Dword) (pitch len row : Nat) : Nat → Except Stop State
    | 0 => return s
    | n + 1 => do
      let va := base + .ofNat 64 (row * pitch)
      if va.getLsbD 63 ∧ (s.ctx s.cur).mode ≠ 3 then throw (accessFault va 2)
      if 2 ^ 56 < va.toNat + len then throw (accessFault va 1)
      canonRows s base pitch len (row + 1) n

/-- Let the engine go on with every queue of a core. -/
def State.wakeEngines (s : State) (core : CoreId) : State := (List.range 4).foldl (fun s q => s.wakeEngine core (.ofNat 2 q)) s

/-- COPY and CPFL: checks and probes in step 1, room in the queue, and the entry at retirement (R205, R290). Older stores of
the thread are performed first, as part of the command's opening release; at a fabric scope their acknowledgments are waited
for (R256). DEDUCED, log 25. -/
def State.enterCopy (s : State) (c : CopyCmd) (q : BitVec 2) : Out :=
  let core := coreOf s.cur
  match c.tokenSkew with
  | some a => .next (s.trapC (exc 4 a))
  | none =>
    s.after (s.probeCopy c) fun s =>
      if Config.copyQueueDepth ≤ (s.myCore.queue q).length ∨ s.releaseWaits s.cur c.scope then .next s.stall
      else
        let s := (s.drain s.cur).modCore core fun k => k.setQueue q (k.queue q ++ [.cmd c])
        .next (s.wakeEngine core q).endLong

/-- COPY (R205). -/
def execCopy (c : BitVec 2) (scope : BitVec 4) (d a g r : Reg) (q : BitVec 2) (s : State) : Out :=
  s.enterCopy (s.copyCmd none c scope d a g r) q

/-- CPFL (R207). -/
def execCpfl (l c : BitVec 2) (scope : BitVec 4) (a g r : Reg) (q : BitVec 2) (s : State) : Out :=
  s.enterCopy (s.copyCmd (some l) c scope 0 a g r) q

/-! ## The engine's turn (R291) -/

/-- The head unit can go on: no fabric answer is awaited, and the router has not to take its launch. -/
def CopyCmd.ready (c : CopyCmd) : Bool :=
  !c.finished && (match c.unit with
    | none => true
    | some e => e.state == .done || (e.state == .noticeFail && !e.replaying))

/-- No row, or no byte of one, is left. -/
def CopyCmd.over (c : CopyCmd) : Bool := c.rows ≤ c.row || c.rowLen == 0
/-- The head command is inside a unit, which a gang stop lets complete (R314). -/
def CopyCmd.inUnit (c : CopyCmd) : Bool := c.unit.isSome || c.pin.isSome || !c.buf.isEmpty

/-- A queue has an unblocked head (R291, R389); a gang stop keeps it from starting a new unit, and no more (R314); the first shedding step
passes CPFL over (R383). -/
def State.servable (s : State) (core : CoreId) (q : BitVec 2) : Bool :=
  s.power.drain == .none &&
  (match (s.core core).queue q with
    | .cmd c :: _ => c.ready && c.wait == .none && !(c.level.isSome && s.power.cpflPaused) && !(s.gang && !c.inUnit && !c.over)
    | _ => false)

/-- The queue the engine serves: the one whose unit it is in, else the next in round robin after the one last served (R291). -/
def State.nextQueue (s : State) (k : SkeinId) : Option Nat :=
  let last := (s.skein k).copyRr % 32
  let inUnit : Bool := match s.headCmd (queueAt k last).1 (queueAt k last).2 with
    | some c => c.inUnit
    | none => false
  let round := (List.range 32).map fun i => (last + 1 + i) % 32
  (if inUnit then last :: round else round).find? fun n => s.servable (queueAt k n).1 (queueAt k n).2

/-- The command that the engine's turn serves, with its queue: none where no queue has an unblocked head. A turn of the other
kind of command is left to that kind's event. -/
def State.engineTurn (s : State) (k : SkeinId) (fill : Bool) : State × Option (CoreId × BitVec 2 × CopyCmd) :=
  match s.nextQueue k with
  | none => (s, none)
  | some n =>
    let (core, q) := queueAt k n
    match s.headCmd core q with
    | none => (s, none)
    | some c =>
      if c.level.isSome = fill then (s.modSkein k fun x => { x with copyRr := n }, some (core, q, { c with started := true }))
      else (s.postOnce (if fill then .copyUnit k else .cpflFill k), none)

/-- The release that opens a command (R205, R259). -/
def State.openCopy (s : State) (core : CoreId) (q : BitVec 2) : State :=
  match s.headCmd core q with
  | some c => if c.started then s else s.writeBackS core fun _ => true
  | none => s

/-- After a turn the engine goes on with whichever queue is next. -/
def State.engineOn (s : State) (k : SkeinId) : State :=
  match s.nextQueue k with
  | some n => s.wakeEngine (queueAt k n).1 (queueAt k n).2
  | none => s

/-- The head unit cannot go on: the engine passes the queue over, and looks at the others (R291). -/
def State.block (s : State) (core : CoreId) (q : BitVec 2) (c : CopyCmd) (w : CopyWait) : State :=
  s.setHead core q { c with wait := w }

/-! ## Completion (R206) -/

/-- The command is removed, and the queue goes on. -/
def State.endCopy (s : State) (core : CoreId) (q : BitVec 2) : State := (s.modCore core fun k => k.popQueue q).wakeEngine core q

/-- The request of a completion launch: any worker of the skein (R206). -/
def CopyCmd.request (c : CopyCmd) (core : CoreId) (pc a0 a1 : Dword) : LaunchReq :=
  { target := (1 : BitVec 1) ++ (skeinOfCore core).setWidth 10, pc := pc, arg0 := a0
    arg1 := if c.failed then a1 ||| 0x8000000000000000 else a1, asn := c.asn, tag := c.tag, prio := 0, fence := false
    token := 0, comp := 0 }

/-- The completion action of a command whose last write is done; with the failure mark where a unit failed. -/
def State.completeCopy (s : State) (core : CoreId) (q : BitVec 2) (c : CopyCmd) : Out :=
  match c.done with
  | .none => .next ((if c.failed then s.setCqFail core q else s).endCopy core q)
  | .token a =>
    match s.tokenAdd (ctxOf core c.issuer) (c.who core) a c.scope c.failed with
    | .ok s => .next (s.endCopy core q)
    | .error (.fault f) => .fault f
    | .error (.machine d u l) => .next ((s.checkIn (ctxOf core c.issuer) d u l).endCopy core q)
    | .error _ => .next (s.block core q c .other)
  | .spawn pc a0 a1 =>
    .next (((s.releaseS core c.scope).setHead core q { c with finished := true }).post
      (.launchRoute (.copy core q c.scope) (c.request core pc a0 a1)))

/-! ## Units (R205) -/

/-- Fabric addresses of the engine, as the issuing thread's mode reads them. -/
def CopyCmd.isFabric (c : CopyCmd) (va : Dword) : Bool := va.getLsbD 63 && c.mode != 3

/-- The command ends at this unit with the failure mark (R206). -/
def CopyCmd.abort (c : CopyCmd) : CopyCmd :=
  { c with failed := true, row := c.rows, unit := none, buf := [], bufPoison := false, pin := none }

/-- Send one fabric access of a unit, once no access of the queue's past is unanswered (R188, R205, R364). -/
def State.sendUnit (s : State) (core : CoreId) (q : BitVec 2) (c : CopyCmd) (kind : FabKind) (va : Dword) (len : Nat)
    (data : VReg) : State :=
  let p := { s.packet (ctxOf core c.issuer) kind va len (lenMask len) data 0 with owner := .queue q, poison := c.bufPoison }
  if s.maySend core p.dest p.tt ∧ ¬(s.core core).ghosts.any fun g => g.1 == q then
    let (s, p) := s.sendRequest p
    let e := TkEntry.new (if kind = .load then .read else .posted) c.issuer 0 va p (s.core core).tkSeq
    (s.modCore core fun k => { k with tkSeq := k.tkSeq + 1 }).setHead core q { c with unit := some e }
  else s.block core q c .other

/-- The engine reads below the L1 (R259): home's bytes. -/
def State.engineBytes (s : State) (l : List ByteAt) : List Byte := l.map fun b => if b.isDev then 0 else readCell s.mem b.loc

/-- The lines of an engine's read are asked for: a pinned one is written first (R276), and HBM's come into the memory-side cache, but for
those of a U page (R242, R264). -/
def State.engineLines (s : State) (l : List ByteAt) : State :=
  (linesOf (inMemory l)).foldl (fun s e => match e.2 with
    | .U => s.settlePin e.1
    | .D => s.readLine e.1
    | .S => s.readLine e.1) s

/-- What a unit does when an access of it cannot be made: it fails, waits, or is a machine check in the issuing context. -/
def State.unitStops (s : State) (core : CoreId) (q : BitVec 2) (c : CopyCmd) (e : Stop) : Out :=
  match e with
  | .trap _ => .next ((s.setHead core q c.abort).wakeEngine core q)
  | .dirtyRefused _ a p => .next (((s.putPte a p).setHead core q c.abort).wakeEngine core q)
  | .machine d u l => .next (((s.checkIn (ctxOf core c.issuer) d u l).setHead core q c.abort).wakeEngine core q)
  | .wait => .next (s.block core q c .other)
  | .fault f => .fault f

/-- Read what the unit still lacks: one fabric piece at a time, or all at once. -/
def State.readUnit (s : State) (core : CoreId) (q : BitVec 2) (c : CopyCmd) : Out :=
  let n := c.unitLen - c.buf.length
  let va := c.srcAt + .ofNat 64 c.buf.length
  if c.isFabric va then .next (s.sendUnit core q c .load va (min n (128 - va.toNat % 128)) 0)
  else match s.mapRange (c.who core) .load va n with
    | .error e => s.unitStops core q c e
    | .ok (s, l) =>
      let s := s.engineLines l
      let bad := l.any fun b => s.poisoned b.loc
      .next ((s.setHead core q { c with buf := c.buf ++ s.engineBytes l, bufPoison := c.bufPoison || bad }).wakeEngine core q)

/-- Translate the unit's destination; its line is pinned, read first where the unit writes a part of it, or the bytes are written at home
(R264, R274). -/
def State.placeUnit (s : State) (core : CoreId) (q : BitVec 2) (c : CopyCmd) : Out :=
  if c.isFabric c.dstAt then .next (s.sendUnit core q c .store c.dstAt c.unitLen (.ofNat 1024 (ofBytes c.buf)))
  else match s.mapRange (c.who core) .store c.dstAt c.unitLen with
    | .error e => s.unitStops core q c e
    | .ok (s, l) =>
      match l with
      | [] => .next ((s.setHead core q (c.advance c.unitLen)).wakeEngine core q)
      | b :: _ =>
        if b.isDev then .next ((s.setHead core q (c.advance c.unitLen)).wakeEngine core q)
        else if b.t = .U then .next ((s.setHead core q { c with pin := some (b.loc, .U, true) }).wakeEngine core q)
        else if 2 ≤ s.setPinned (skeinOfCore core) (b.loc / 128) then .next (s.block core q c .pin)
        else
          let s := s.settlePin (b.loc / 128)
          let s := if c.unitLen = 128 then s else s.unitLine core (b.loc / 128)
          .next (((s.scPut (skeinOfCore core) (b.loc / 128) false true).setHead core q
            { c with pin := some (b.loc, b.t, false) }).wakeEngine core q)

/-- The pinned line gets permission, or, having it, is written and its pin ends. -/
def State.storeUnit (s : State) (core : CoreId) (q : BitVec 2) (c : CopyCmd) (loc : Nat) (t : Treat) (permission : Bool) : Out :=
  let k := skeinOfCore core
  if ¬permission then
    .next ((((s.settlePin (loc / 128)).permit k (loc / 128)).setHead core q { c with pin := some (loc, t, true) }).wakeEngine core q)
  else .next (s.landUnit core q c loc t)

/-- A fabric access of the unit has been answered: data read, a store acknowledged, poison, or failure (R206). -/
def CopyCmd.take (c : CopyCmd) (e : TkEntry) : CopyCmd :=
  match e.state, e.answer with
  | .done, some (.ok d) =>
    if e.packet.kind = .load then { c with unit := none, buf := c.buf ++ bytesOf e.packet.len.toNat d }
    else { c with unit := none, failed := c.failed || c.bufPoison }.advance c.unitLen
  | .done, some .poison =>
    if e.packet.kind = .load then { c with unit := none, bufPoison := true, buf := c.buf ++ List.replicate e.packet.len.toNat 0 }
    else { c with unit := none, failed := true }.advance c.unitLen
  | _, _ => c.abort

/-- The turn ends, and the engine looks for the next. -/
def engineGoesOn (k : SkeinId) (o : Out) : Out :=
  match o with
  | .next s => .next (s.engineOn k)
  | o => o

/-- The head COPY goes one part of a unit further; after the last unit the completion action is performed (R205, R206). -/
def State.copyStep (s : State) (core : CoreId) (q : BitVec 2) (c : CopyCmd) : Out :=
  match c.unit, c.pin with
  | some e, _ => .next ((s.setHead core q (c.take e)).wakeEngine core q)
  | none, some (loc, t, p) => s.storeUnit core q c loc t p
  | none, none =>
    if c.over then s.completeCopy core q c
    else if c.buf.length < c.unitLen then s.readUnit core q c
    else s.placeUnit core q c

/-- COPY_UNIT: the engine serves the queue whose turn it is, and stays with it until the unit is done or must wait (R205, R291).
DEDUCED, log 25. -/
def execCopyUnit (s : State) : Out :=
  match s.now with
  | some (.copyUnit k) =>
    match s.engineTurn k false with
    | (s, none) => .next s
    | (s, some (core, q, c)) => engineGoesOn k ((s.openCopy core q).copyStep core q c)
  | _ => .next s

/-! ## Fills (R207, R272) -/

/-- A CPFL's line: the bytes of the row up to the end of the source line. -/
def CopyCmd.fillLen (c : CopyCmd) : Nat := min (c.rowLen - c.col) (128 - c.srcAt.toNat % 128)

/-- Fill one line at the level named, unless it is there, its page is U, or its home has no such cache; a line that a pin holds comes in
as its unit leaves it (R276). -/
def State.fillLine (s : State) (core : CoreId) (level : BitVec 2) (b : ByteAt) : State :=
  let line := b.loc / 128
  let k := skeinOfCore core
  if b.isDev ∨ b.t = .U then s
  else if level = 0 then
    if (s.skein k).sc.any (·.line == line) then s else (((s.settlePin line).share core line).mscPut line false).scPut k line false false
  else if 2 ^ 56 ≤ b.loc ∨ s.msc.any (·.line == line) then s
  else ((s.settlePin line).share core line).mscPut line false

/-- One line of a CPFL, or after the last its completion action (R207, R272). A page that cannot be read is passed over; a walk that
meets poison or a failed pair is a machine check in the issuing context (R362); at an HBM pair that is not ready the fill waits (R368). -/
def State.fillStep (s : State) (core : CoreId) (q : BitVec 2) (c : CopyCmd) : Out :=
  if c.over then s.completeCopy core q c
  else
    let filled := fun (s : State) => (.next ((s.setHead core q (c.advance c.fillLen)).wakeEngine core q) : Out)
    match s.mapRange (c.who core) .load c.srcAt 1 with
    | .ok (s, b :: _) => filled (s.fillLine core (c.level.getD 0) b)
    | .ok (_, []) => filled s
    | .error (.trap _) => filled s
    | .error (.dirtyRefused _ _ _) => filled s
    | .error (.machine d u l) => filled (s.checkIn (ctxOf core c.issuer) d u l)
    | .error .wait => .next (s.block core q c .other)
    | .error (.fault _) => filled s

/-- CPFL_FILL: the engine fills or skips the next line of the CPFL whose turn it is (R207, R272, R291). -/
def execCpflFill (s : State) : Out :=
  match s.now with
  | some (.cpflFill k) =>
    match s.engineTurn k true with
    | (s, none) => .next s
    | (s, some (core, q, c)) => engineGoesOn k ((s.openCopy core q).fillStep core q c)
  | _ => .next s

end Sys2Proof.Machine
end

