-- ==== Sys2Proof/Machine/Gauge.lean ====
section
/-! DEFINITION. The Gauge (R286, R287, R385): its windows of 64 cycles, and how cycles pass. -/

namespace Sys2Proof.Machine

/-- The upper limit after a window: the power manager's, but no more than 1/300 of capacity below the one before (R286, R383). -/
def nextLimit (limit top : Nat) : Nat := max top (limit - 8)

/-- The ceiling after a window (R286, R287): it follows the busy fraction, up by at most 1/600 and down by at most 1/300 of
capacity, from 1/16 up, and never above the upper limit (R385). DEDUCED, log 24. -/
def nextCeiling (ceiling limit busy : Nat) : Nat :=
  min (max 150 (if ceiling ≤ busy then min (ceiling + 4) 2400 else max (ceiling - 8) busy)) (max 150 limit)

/-- A window ends: what it allows is spent, and the limit and the ceiling move; top is the power manager's limit. -/
def Gauge.window (g : Gauge) (top : Nat) : Gauge :=
  let limit := nextLimit g.limit top
  { ceiling := nextCeiling g.ceiling limit (min g.ceiling (max g.debt g.busy)), limit := limit, debt := g.debt - g.ceiling, busy := 0
    since := g.since + 64 }

/-- So many windows end. -/
def Gauge.windows (g : Gauge) (top : Nat) : Nat → Gauge
  | 0 => g
  | n + 1 => (g.window top).windows top n

/-- After so many windows without a grant a Gauge stands at its lowest ceiling with nothing owed, and each further one leaves it so. -/
def gaugeSettles : Nat := 400

/-- The Gauge when the part has come to a cycle: every window that has ended by then has moved it. -/
def Gauge.upTo (g : Gauge) (top cyc : Nat) : Gauge :=
  let n := (cyc - g.since) / 64
  { g.windows top (min n gaugeSettles) with since := g.since + 64 * n }

/-- A skein's Gauge at the present cycle. -/
def State.gaugeNow (s : State) (k : SkeinId) : State :=
  s.modSkein k fun x => { x with gauge := x.gauge.upTo s.power.gaugeTop s.cyc }

/-- The part comes to a cycle, unless it is past it, and every Gauge with it. -/
def State.atCycle (s : State) (n : Nat) : State :=
  let cyc := max s.cyc n
  { s with cyc := cyc, skeins := s.skeins.map fun (e : Nat × SkeinSt) =>
      (e.1, { e.2 with gauge := e.2.gauge.upTo s.power.gaugeTop cyc }) }

end Sys2Proof.Machine
end

