-- ==== Sys2Proof/Machine/Sched.lean ====
section
/-! DEFINITION. Events of a context: interrupts (R61, R299), posted-store failures (R197), waking (R28, R29), issue
arbitration and fused fetch (R34, R35, R281, R282), retired stores (R185, R226), and the illegal instruction (R91). -/

namespace Sys2Proof.Machine

/-! ## Boundaries -/

/-- A context can be given a trap now: it stands at a boundary, waits in step 1, or is parked; no sent atomic is
unanswered (R299), and no drain has stopped it (R389). -/
def State.atBoundary (s : State) (c : CtxId) : Bool :=
  ((s.ctx c).st == .running || (s.ctx c).st == .parked) && !s.settling c && s.power.drain == .none

/-- The thread is parked on WAIT or HALT, and its wait is over. -/
def State.waitEnds (s : State) (c : CtxId) : Bool :=
  (s.ctx c).st == .parked && (match (s.ctx c).park with | some .wait => s.waitOver c | _ => false)

/-- WAIT or HALT completes: the bundle goes on with its A word (R29, R151). -/
def Ctx.wakeWait (x : Ctx) : Ctx := { x with st := .running, park := none }.endWait

/-! ## Interrupts -/

/-- cw.tval of interrupt bit n (R65). -/
def State.interruptInfo (s : State) (c : CtxId) (n : Nat) : Dword :=
  match n with
  | 1 => (s.ctx c).mbSrc
  | 2 => (s.ctx c).icSrc
  | 3 => zext (slice 8 8 s.dev.gsctl)
  | 4 => zext s.power.level
  | _ => 0

/-- The trap of interrupt bit n (R61, R65). -/
def State.interruptExc (s : State) (c : CtxId) (n : Nat) : Exc :=
  { code := 0x20 + n, detail := 0, tval := s.interruptInfo c n, tval2 := 0, intr := true }

/-- An interrupt takes a context out of a MKWAIT: the wait is remembered (R303). -/
def Ctx.recordMarker (x : Ctx) (mk : Option (BitVec 5 × Dword × Dword)) : Ctx := { x with mkRec := mk.or x.mkRec }

/-- The MKWAIT a context is parked on, with its bundle's address (R303). -/
def Ctx.markerOut (x : Ctx) : Option (BitVec 5 × Dword × Dword) :=
  match x.st, x.park with
  | .parked, some (.marker _ m u) => some (m, u, x.pc)
  | _, _ => none

/-- The head multiply of a context that an interrupt waits for: with a step granted, its others go ahead (R299). -/
def aheadFirst (n : BitVec 3) : List TileCmd → List TileCmd
  | [] => []
  | t :: r => if t.ctx = n then { t with ahead := t.begun } :: r else t :: aheadFirst n r

/-- TAKE_INTERRUPT (R298, R299): the lowest cause that is takeable; a thread parked on WAIT completes it first (R29); at an
arrival at slot A cw.epc records slot A (R81). -/
def execTakeInterrupt (s : State) : Out :=
  match s.now with
  | some (.takeInterrupt c) =>
    match s.takeable c with
    | none => .next s
    | some n =>
      if ¬s.atBoundary c ∨ (s.gangStops c ∧ ¬(s.ctx c).cw.ien.getLsbD 3) then .next s
      else if s.waitEnds c then .next (s.modCtx c Ctx.wakeWait).yieldTurn
      else
        let mk := (s.ctx c).markerOut
        let s := s.modCore (coreOf c) fun k => { k with tq := aheadFirst (ctxInCore c) k.tq }
        .next ((((s.giveUp c).enterTrap c (s.interruptExc c n) ((s.ctx c).slotA && (s.ctx c).phase == .fetch)).modCtx c fun x => x.recordMarker mk).yieldTurn)
  | _ => .next s

/-- TIMECMP_REACHED (R61): package time has come to cw.timecmp, so cw.ipend bit 0 reads 1. DESIGN CHOICE, log 17. -/
def execTimecmpReached (s : State) : Out :=
  match s.now with
  | some (.timecmpReached c) =>
    let t := (s.ctx c).cw.timecmp
    .next (s.modDev fun d => if d.time.ult t then { d with time := t } else d)
  | _ => .next s

/-! ## Failures of posted stores (R197) -/

/-- The failure not yet due whose notice came first. -/
def nextDue : List Fail → Option Fail
  | [] => none
  | f :: r =>
    if f.due then nextDue r
    else match nextDue r with
      | some g => if g.at_.ult f.at_ then some g else some f
      | none => some f

/-- DEFERRED_FAIL_DUE (R197): 1 ms has passed since the earliest notice of a failure that is not due.
DEDUCED, log 18. -/
def execDeferredFailDue (s : State) : Out :=
  match s.now with
  | some (.deferredFailDue c) =>
    match nextDue (s.ctx c).fails with
    | none => .next s
    | some f =>
      let t := f.at_ + failDelay
      .next ((s.modDev fun d => if d.time.ult t then { d with time := t } else d).modCtx c fun x =>
        { x with fails := x.fails.map fun g => if g == f then { g with due := true } else g })
  | _ => .next s

/-- The report of the oldest due failure of a context that stands at a boundary or is parked: it is removed (R197). -/
def State.reportDue (s : State) (c : CtxId) : State :=
  match (s.ctx c).fails.find? s.isDue with
  | none => s
  | some f =>
    let mk := (s.ctx c).markerOut
    (((s.giveUp c).modCtx c fun x => { x with fails := dropFirst (· == f) x.fails }).enterTrap c (failTrap f) false).modCtx c
      fun x => x.recordMarker mk

/-- DEFERRED_REMOTE_STORE_TRAP (R197): a due failure at a boundary where no enabled interrupt is pending; a parked thread is
woken for it. -/
def execDeferredRemoteStoreTrap (s : State) : Out :=
  match s.now with
  | some (.deferredRemoteStoreTrap c) =>
    if ¬s.failDue c ∨ (s.ctx c).slotA ∨ (s.takeable c).isSome ∨ ¬s.atBoundary c ∨ s.gangStops c then .next s
    else .next (s.reportDue c).yieldTurn
  | _ => .next s

/-- A context waits in step 1 of a FENCE with a release part at a fabric scope (R197). -/
def Ctx.inFence (x : Ctx) : Bool :=
  x.st == .running && x.phase == .first &&
  (match decodeC (cWordOf x.bundle) with
    | .ok (.fence scope o) => fabricScope scope && isRelease o
    | _ => false)

/-- FENCE_DELIVERY_FAILURE (R197): the loss log has the stores that the FENCE waits for; they then count as acknowledged. -/
def execFenceDeliveryFailure (s : State) : Out :=
  match s.now with
  | some (.fenceDeliveryFailure c) =>
    match (s.ctx c).inFence, (s.ctx c).fails, (s.ctx c).lost with
    | true, [], i :: _ =>
      .next (((s.modCtx c fun x => { x with lost := x.lost.drop 1 }).enterTrap c (exc 0x10 (.ofNat 64 i)) false).yieldTurn)
    | _, _, _ => .next s
  | _ => .next s

/-! ## Waking (R27, R28) -/

/-- PARKED_WAKE (R28): the wake condition holds; WAIT and HALT complete, any other waiting instruction executes again and
finds its condition. A gang stop and a drain keep the thread parked (R314, R389). -/
def execParkedWake (s : State) : Out :=
  match s.now with
  | some (.parkedWake c) =>
    if (s.ctx c).st ≠ .parked ∨ s.gangStops c ∨ s.drainStops c ∨ ¬s.wakes c then .next s
    else if s.waitEnds c then .next (s.modCtx c Ctx.wakeWait)
    else .next (s.modCtx c fun x => { x with st := .running, park := none, phase := .first })
  | _ => .next s

/-- WAITUNTIL_EXPIRY (R154): package time has come to the target of a parked WAITUNTIL, which executes again and completes.
DESIGN CHOICE, log 17. -/
def execWaituntilExpiry (s : State) : Out :=
  match s.now with
  | some (.waituntilExpiry c) =>
    match (s.ctx c).st, (s.ctx c).park with
    | .parked, some (.until t) =>
      if s.gangStops c ∨ s.drainStops c then .next s
      else .next ((s.modDev fun d => if d.time.ult t then { d with time := t } else d).modCtx c fun x =>
        { x with st := .running, park := none, phase := .first })
    | _, _ => .next s
  | _ => .next s

/-! ## Issue arbitration (R31, R281, R282) -/

/-- What the waiting bundle lacks first (R31, R220). -/
inductive Lack where
  | nothing
  | tileQueue
  | tileSlots
  | copyQueue
  | ticketEntry
  deriving DecidableEq, Repr

/-- A tile instruction that takes an entry of the tile command queue (R283). -/
def usesTileQueue : Instr → Bool
  | .tzero _ => true
  | .tld _ _ _ => true
  | .tst _ _ _ _ => true
  | .tstAmax _ _ _ _ _ _ => true
  | .tmma _ _ _ _ _ _ _ _ _ _ _ => true
  | .tmmag _ _ _ _ _ _ _ _ _ _ => true
  | .tmmap _ _ _ _ _ _ _ _ => true
  | .tadd _ _ _ => true
  | .tsclRow _ _ _ => true
  | .tsclCol _ _ _ => true
  | .tcvt _ _ _ _ => true
  | .ttr _ _ _ => true
  | .trowv _ _ _ => true
  | .tvrow _ _ _ => true
  | .tamax _ _ => true
  | .tcfg _ _ _ _ => true
  | .trel => true
  | .tsave _ => true
  | .trstr _ _ => true
  | _ => false

/-- The copy queue that a command enters. -/
def copyQueueOf : Instr → Option (BitVec 2)
  | .copy _ _ _ _ _ _ q => some q
  | .cpfl _ _ _ _ _ _ q => some q
  | _ => none

/-- A fabric access that an instruction asks for: whether it is a posted store, its address, and its packet. -/
structure Asked where
  posted : Bool
  va : Dword
  packet : Packet
  deriving DecidableEq, Repr

/-- A load of so many bytes, and a posted store, for which only its address counts. -/
def State.asksLoad (s : State) (c : CtxId) (va : Dword) (len : Nat) (mask : KReg) : Option Asked :=
  some ⟨false, va, s.packet c .load va len mask 0 0⟩
def State.asksStore (s : State) (c : CtxId) (va : Dword) (len : Nat) : Option Asked :=
  some ⟨true, va, s.packet c .store va len (lenMask len) 0 0⟩

/-- The access of a C instruction that may take a ticket-table entry; a vector access with no active byte sends nothing (R188). -/
def State.asks (s : State) (c : CtxId) (i : Instr) : Option Asked :=
  let x := s.ctx c
  let load := fun (b : Reg) (e : BitVec 12) (n : Nat) => s.asksLoad c (x.cmAddr b e n) n (lenMask n)
  let store := fun (b : Reg) (e : BitVec 12) (n : Nat) => s.asksStore c (x.cmAddr b e n) n
  match i with
  | .ldb _ b e => load b e 1
  | .ldbu _ b e => load b e 1
  | .ldh _ b e => load b e 2
  | .ldhu _ b e => load b e 2
  | .ldw _ b e => load b e 4
  | .ldwu _ b e => load b e 4
  | .ldd _ b e => load b e 8
  | .stb _ b e => store b e 1
  | .sth _ b e => store b e 2
  | .stw _ b e => store b e 4
  | .std _ b e => store b e 8
  | .ldnc _ b z e => load b e (loadForm z).1
  | .ldv _ b m e => if x.getK m = 0 then none else s.asksLoad c (x.cmAddr b e 128) 128 (x.getK m)
  | .stv _ b m e => if x.getK m = 0 then none else store b e 128
  | .amo _ _ w a b _ f => some ⟨false, x.getX b, s.packet c .amo (x.getX b) (atomicSize w) (lenMask (atomicSize w)) (x.amoData w a) f⟩
  | .cas _ _ w a b _ => some ⟨false, x.getX b, s.packet c .cas (x.getX b) (atomicSize w) (lenMask (atomicSize w)) (x.casData w a) 0⟩
  | .ldaq _ _ k _ b => s.asksLoad c (x.getX b) (2 ^ k.toNat) (lenMask (2 ^ k.toNat))
  | .strl _ _ k _ b => s.asksStore c (x.getX b) (2 ^ k.toNat)
  | .czero a => s.asksStore c (lineAddr (x.getX a)) 128
  | _ => none

/-- A C instruction needs a free ticket-table entry: its access is to the fabric, and is not one that has its entry (R31, R189). -/
def State.needsEntry (s : State) (c : CtxId) (i : Instr) : Bool :=
  match s.asks c i with
  | some a => (s.ctx c).isFabric a.va && (a.posted || (s.ownEntry c a.va a.packet).isNone)
  | none => false

/-- The bundle of a context that awaits rename: the one in hand, or the one its fetch delivers. DESIGN CHOICE, log 15. -/
def State.waitingBundle (s : State) (c : CtxId) : Option (BitVec 64) :=
  match (s.ctx c).phase with
  | .first => some (s.ctx c).bundle
  | .second => none
  | .fetch => match s.fetch c with
    | .ok (_, w) => some w
    | .error _ => none

/-- What a bundle lacks first. -/
def State.bundleLacks (s : State) (c : CtxId) (w : BitVec 64) : Lack :=
  let k := s.core (coreOf c)
  if isLong w then
    match decodeLong w with
    | .ok i =>
      if usesTileQueue i && 8 ≤ k.tq.length then .tileQueue
      else if s.lacksSlots c i then .tileSlots
      else match copyQueueOf i with
        | some q => if Config.copyQueueDepth ≤ (k.queue q).length then .copyQueue else .nothing
        | none => .nothing
    | .error _ => .nothing
  else match decodeC (cWordOf w) with
    | .ok i => if s.needsEntry c i && k.freeEntry.isNone then .ticketEntry else .nothing
    | .error _ => .nothing

/-- What a context's waiting bundle lacks. -/
def State.lacks (s : State) (c : CtxId) : Lack :=
  match s.waitingBundle c with
  | some w => s.bundleLacks c w
  | none => .nothing

/-- A context is ready (R31): the reorder buffer, which holds nothing between steps, is below every cap (R64).
DESIGN CHOICE, log 15. -/
def State.isReady (s : State) (c : CtxId) : Bool :=
  (s.ctx c).st == .running && !s.gangStops c && !s.drainStops c && (s.waitingBundle c).any fun w => s.bundleLacks c w == .nothing

/-- The contexts of a core that p picks, in round robin after the one last chosen. -/
def afterLast (core : CoreId) (last : Nat) (p : CtxId → Bool) : List CtxId :=
  ((List.range 8).map fun i => ctxOf core (.ofNat 3 (last + 1 + i))).filter p

/-- A class's order: paused contexts rank last (R282). -/
def State.classOrder (s : State) (cyc : Nat) (l : List CtxId) : List CtxId :=
  l.filter (fun c => (s.ctx c).pausedTill ≤ cyc) ++ l.filter fun c => cyc < (s.ctx c).pausedTill

/-- The ready contexts of a core. -/
def State.readyOf (s : State) (core : CoreId) : List CtxId := (ctxsOfCore core).filter s.isReady

/-- Ready contexts in the arbiter's order in a cycle (R281). -/
def State.orderAt (s : State) (core : CoreId) (ready : List CtxId) (cyc : Nat) : List CtxId :=
  let k := s.core core
  let is := fun (p : Ctx → Bool) (c : CtxId) => ready.contains c && p (s.ctx c)
  afterLast core k.rrUrgent (is fun x => x.urgent) ++
  s.classOrder cyc (afterLast core k.rrSup (is fun x => !x.urgent && x.mode != 0)) ++
  s.classOrder cyc (afterLast core k.rrUser (is fun x => !x.urgent && x.mode == 0))

/-- The ready contexts in the arbiter's order now. -/
def State.issueOrder (s : State) (core : CoreId) : List CtxId := s.orderAt core (s.readyOf core) s.cyc

/-- A chosen context's class remembers it (R281); its wait count returns to zero. A member of a fused group counts as chosen as the group's
fetch serves it, in context order, so that the round robin remembers the last: DESIGN CHOICE, log 83. -/
def State.chosen (s : State) (c : CtxId) : State :=
  let x := s.ctx c
  let n := (ctxInCore c).toNat
  (s.modCore (coreOf c) fun k =>
    if x.urgent then { k with rrUrgent := n } else if x.mode = 0 then { k with rrUser := n } else { k with rrSup := n }).modCtx c
    fun x => { x with waitCount := 0, urgent := false }

/-- A context that is not chosen: its wait count rises while it is ready (R281). -/
def State.passedOver (s : State) (c : CtxId × Bool) : State :=
  if c.2 then s.modCtx c.1 fun x => { x with waitCount := x.waitCount + 1 }
  else if (s.ctx c.1).waitCount = 0 then s else s.modCtx c.1 fun x => { x with waitCount := 0 }

/-- Bundles that a chosen context may rename in its cycle (R281). -/
def slotsPerCycle : Nat := 2

/-- The arbiter's latest cycle is over: counter 4 (R295). -/
def CoreSt.endCycle (k : CoreSt) : CoreSt := if k.unchosen.isEmpty then k else k.count 4 1

/-- One cycle of the arbiter: up to two of the ready contexts are chosen, each to rename up to two bundles, and the others' wait counts rise
(R281). -/
def State.arbitrate (s : State) (core : CoreId) (ready : List CtxId) (cyc : Nat) : State :=
  let two := (s.orderAt core ready cyc).take 2
  let rest := ((ctxsOfCore core).filter fun c => !two.contains c).map fun c => (c, ready.contains c)
  (two.foldl State.chosen (rest.foldl State.passedOver s)).modCore core fun k =>
    { k.endCycle with
      slots := two.map fun c => (ctxInCore c, slotsPerCycle)
      unchosen := (ready.filter fun c => !two.contains c).map ctxInCore
      nextChoice := cyc + 1 }

/-- The wait count of a context has reached 32, and it is not yet marked (R281). -/
def Ctx.urgentDue (x : Ctx) : Bool := 32 ≤ x.waitCount && !x.urgent
def State.urgentDue (s : State) (core : CoreId) : List CtxId := (ctxsOfCore core).filter fun c => (s.ctx c).urgentDue

/-- A context is marked urgent (R281, R295). -/
def State.markUrgent (s : State) (c : CtxId) : State :=
  (s.modCtx c fun x => { x with urgent := true }).modCore (coreOf c) fun k => k.count 5 1

/-- So many cycles of the arbiter with the same contexts ready, from a cycle on, each marking whom it makes urgent. -/
def State.arbitrateFor (s : State) (core : CoreId) (ready : List CtxId) (cyc : Nat) : Nat → State
  | 0 => s
  | n + 1 =>
    let t := s.arbitrate core ready cyc
    ((t.urgentDue core).foldl State.markUrgent t).arbitrateFor core ready (cyc + 1) n

/-- Events 6 and 10 of so many cycles alike (R295). A cycle in which several contexts wait for a full queue counts once:
DESIGN CHOICE, log 82. -/
def State.countCycles (s : State) (core : CoreId) (n : Nat) : State :=
  let held := fun (l : Lack) => (ctxsOfCore core).any fun c => (s.ctx c).st == .running && s.lacks c == l
  s.modCore core fun k =>
    let k := if held .tileQueue then k.count 6 n else k
    if held .copyQueue then k.count 10 n else k

/-- Cycles after which two ready contexts, chosen in every cycle, stand as they will: no pause is left (R282). -/
def arbiterSettles : Nat := 32

/-- So many cycles from one on pass on a core while the same contexts are ready: the arbiter chooses in each of them, and the counters go on
(R281, R295). -/
def State.passArbiter (s : State) (core : CoreId) (cyc n : Nat) : State :=
  let ready := s.readyOf core
  (s.countCycles core n).arbitrateFor core ready cyc (if ready.length ≤ 2 then min n arbiterSettles else n)

/-- The arbiter's choice in one cycle: up to two ready contexts are chosen, and their turns come first (R281). -/
def State.issueAt (s : State) (core : CoreId) (cyc : Nat) : State :=
  let ready := s.readyOf core
  let two := (s.orderAt core ready cyc).take 2
  let s := (s.countCycles core 1).arbitrate core ready cyc
  { s with turns := two.filter s.turns.contains ++ s.turns.filter fun c => !two.contains c }

/-- ISSUE_ARBITRATE (R281): the arbiter's choice in the present cycle, unless it has been made. DESIGN CHOICE, log 15. -/
def execIssueArbitrate (s : State) : Out :=
  match s.now with
  | some (.issueArbitrate core) =>
    if s.choiceMade core then .next s
    else
      let s := s.issueAt core s.cyc
      .next ((s.urgentDue core).foldl (fun s c => s.postHead (.urgentMark c)) s)
  | _ => .next s

/-- The part comes to a cycle on a core: the arbiter chooses once in each cycle in which it has not yet, the present one included, and the
choice of the cycle come to stands (R281, R295). -/
def State.passCycles (s : State) (n : Nat) (core : CoreId) : State :=
  let first := max (s.core core).nextChoice s.cyc
  let t := (s.passArbiter core first (n - first)).issueAt core n
  (t.urgentDue core).foldl State.markUrgent t

/-- The part comes to a cycle, unless it is past it: the cycles between pass on every core, and on every Gauge (R281, R286, R295). -/
def State.toCycle (s : State) (n : Nat) : State :=
  if n ≤ s.cyc then s else (s.liveCores.foldl (State.passCycles · n) s).atCycle n

/-- URGENT_MARK (R281): the wait count has reached 32. -/
def execUrgentMark (s : State) : Out :=
  match s.now with
  | some (.urgentMark c) => if (s.ctx c).urgentDue then .next (s.markUrgent c) else .next s
  | _ => .next s

/-! ## Fused fetch (R34, R35) -/

/-- A context may be served by a fused fetch: it is about to fetch a whole bundle, and nothing is taken before it. -/
def State.fetchesNext (s : State) (c : CtxId) : Bool :=
  let x := s.ctx c
  x.st == .running && x.phase == .fetch && !x.slotA && x.checks.isEmpty && (s.takeable c).isNone && !s.failDue c && !s.gangStops c && !s.drainStops c

/-- Two contexts can be fused: address space, mode and next bundle agree (R34). -/
def Ctx.fusesWith (x y : Ctx) : Bool := x.cw.asn == y.cw.asn && x.mode == y.mode && x.pc == y.pc

/-- The contexts a set names. -/
def namedCtxs (core : CoreId) (g : BitVec 8) : List CtxId := (ctxsOfCore core).filter fun c => g.getLsbD (ctxInCore c).toNat

/-- The members that a fused fetch for a set splits off a group (R35): those it leaves out, or the one it takes out. -/
def splitsOf (g h : BitVec 8) : Nat :=
  if members (h &&& g) = 0 ∨ members (h &&& ~~~g) = 0 then 0
  else if members (h &&& g) = 1 then 1 else members (h &&& ~~~g)

/-- The core's groups, with a new one; its members leave the ones they were in. -/
def regroup (l : List (BitVec 8)) (g : BitVec 8) : List (BitVec 8) :=
  ((l.map fun h => h &&& ~~~g).filter fun h => 2 ≤ members h) ++ [g]

/-- A context asks for a fetch for its fused group: it is the group's first member that is about to fetch, and one of no group asks for
itself (R282). -/
def State.asksFetch (s : State) (core : CoreId) (c : CtxId) : Bool :=
  s.fetchesNext c &&
  match (s.core core).fused.find? fun g => g.getLsbD (ctxInCore c).toNat with
  | some g => ((namedCtxs core g).find? s.fetchesNext) == some c
  | none => true

/-- When a fetch requester was last served: its least recently fetched member (R282). -/
def State.lastServed (s : State) (core : CoreId) (c : CtxId) : Nat :=
  match (s.core core).fused.find? fun g => g.getLsbD (ctxInCore c).toNat with
  | some g => (((namedCtxs core g).filter s.fetchesNext).map fun d => (s.ctx d).fetched).foldl min (s.ctx c).fetched
  | none => (s.ctx c).fetched

/-- The group's place in the fetch round robin, that of its least recently fetched member, is among the cycle's two; another group is one
requester (R34, R282). -/
def State.hasPlace (s : State) (core : CoreId) (l : List CtxId) : Bool :=
  let oldest := (l.map fun c => (s.ctx c).fetched).foldl min (l.head?.elim 0 fun c => (s.ctx c).fetched)
  ((ctxsOfCore core).filter fun c => !l.contains c && s.asksFetch core c && s.lastServed core c < oldest).length < 2

/-- A member of a fused group renames its copy of the bundle: it counts as chosen in the cycle (R282). -/
def State.renamed (s : State) (c : CtxId) : State :=
  (s.chosen c).modCore (coreOf c) fun k =>
    { k.useSlot (ctxInCore c) with unchosen := k.unchosen.filter (· != ctxInCore c) }

/-- FUSED_FETCH (R34): one access and one decode serve every member, and each renames its copy where the arbiter has chosen one of them
(R281, R282); counters 0 to 3 (R295). A fetch that faults is left to each member. DEDUCED, log 16. -/
def execFusedFetch (s : State) : Out :=
  match s.now with
  | some (.fusedFetch core g) =>
    match namedCtxs core g with
    | a :: b :: r =>
      let ok : Bool := ((a :: b :: r).all fun c => s.fetchesNext c && (s.ctx a).fusesWith (s.ctx c)) && s.hasPlace core (a :: b :: r) &&
        (a :: b :: r).any s.mayRename
      if ¬ok then .next s
      else match s.fetch a with
        | .error _ => .next s
        | .ok (t, w) =>
          let t := t.modCore core fun k =>
            let groups := (s.core core).fused
            ((({ k with fused := regroup groups g, ctr := (s.core core).ctr }.count 0 1).count 1 1).count 2 (r.length + 1)).count 3
              (groups.map (splitsOf g)).sum
          .next ((a :: b :: r).foldl (fun s c => (s.renamed c).modCtx c fun x =>
            { x.rename (s.core core) w with phase := .first, fetched := (t.ctx a).fetched }) t)
    | _ => .next s
  | _ => .next s

/-- Some other member of a context's fused group has another next bundle. -/
def State.diverges (s : State) (c : CtxId) : Bool :=
  (s.core (coreOf c)).fused.any fun g => g.getLsbD (ctxInCore c).toNat &&
    (namedCtxs (coreOf c) g).any fun d => (s.ctx d).pc != (s.ctx c).pc

/-- The walk of an access that a context made on a predicted path: it may have set A, and raises no trap (R133, R323). -/
def State.walkAhead (s : State) (c : CtxId) (a : Bool × Dword) : State :=
  match s.mapRange (s.who c) (if a.1 then .fetch else .load) a.2 1 with
  | .ok (t, _) => t
  | .error _ => s

/-- MISPREDICT_SQUASH (R133): the wrong path leaves nothing behind but what its walks did, A bits among it (R323); which accesses it made is a
free value: DESIGN CHOICE, log 87. A member whose own outcome leads elsewhere splits off (R35). -/
def execMispredictSquash (s : State) : Out :=
  match s.now with
  | some (.mispredictSquash c) =>
    let s := if s.diverges c then s.leaveFused c else s
    .next ((Config.wrongPath s.free).foldl (State.walkAhead · c) { s with free := s.free + 1 })
  | _ => .next s

/-! ## Retired stores (R185, R226) -/

/-- An entry orders every younger one: a release store or a release fence (R248, R251). -/
def Retired.orders : Retired → Bool
  | .bytes _ _ _ => false
  | .amax _ _ _ => false
  | .release _ _ _ _ => true
  | .barrier _ => true
  | .seen => false

/-- The locations an entry touches. -/
def Retired.locs : Retired → List Nat
  | .bytes _ l _ => l.map Prod.fst
  | .amax _ a _ => [a, a + 1, a + 2, a + 3]
  | .release _ _ l _ => l.map Prod.fst
  | .barrier _ => []
  | .seen => []

/-- An entry that stands for every older one has none left before it: one that orders the younger ones, or an acquire whose older stores are
to be seen (R245). -/
def Retired.afterAll (r : Retired) : Bool := r.orders || r == .seen

/-- Entry n may be performed now: it is the oldest, or no older one orders it or touches its bytes, and it does not wait for them. -/
def mayPerform (l : List Retired) (n : Nat) : Bool :=
  match l[n]? with
  | none => false
  | some r => n == 0 || (!r.afterAll && (l.take n).all fun o => !o.orders && !(r.locs.any o.touches))

/-- The n-th retired store of a context is performed. -/
def State.performAt (s : State) (c : CtxId) (n : Nat) : State :=
  match (s.ctx c).stores[n]? with
  | some r => (s.modCtx c fun x => { x with stores := x.stores.eraseIdx n }).performRetired (coreOf c) r
  | none => s

/-- A gang stop holds the drain of an Exiting context where it stands (R26, R314). -/
def State.drainPaused (s : State) (c : CtxId) : Bool := s.gang && (s.ctx c).st == .exiting

/-- STORE_PERFORM (R185). -/
def execStorePerform (s : State) : Out :=
  match s.now with
  | some (.storePerform c n) => if mayPerform (s.ctx c).stores n ∧ ¬s.drainPaused c then .next (s.performAt c n) else .next s
  | _ => .next s

/-- AMAX_MERGE (R226): the maximum is merged into the word as one unsigned maximum. -/
def execAmaxMerge (s : State) : Out :=
  match s.now with
  | some (.amaxMerge c n) =>
    match (s.ctx c).stores[n]? with
    | some (.amax _ _ _) => if mayPerform (s.ctx c).stores n ∧ ¬s.drainPaused c then .next (s.performAt c n) else .next s
    | _ => .next s
  | _ => .next s

/-! ## The illegal instruction (R91) -/

/-- The word that cw.tval reports where the running context's next word is no instruction. -/
def State.illegalWord (s : State) : Option Dword :=
  let x := s.me
  if x.st ≠ .running then none
  else match x.phase with
    | .fetch => none
    | .first => match chooseFirst s x.bundle with | .illegal w _ => some w | _ => none
    | .second => if isLong x.bundle then some x.bundle else match chooseA s x.bundle with | .illegal w _ => some w | _ => none

/-- ILLEGAL_INSTRUCTION (R91): the trap at the step that holds the pattern (R79, R80). -/
def execIllegalInstruction (s : State) : Out :=
  match s.now with
  | some (.illegalInstruction w) =>
    if s.illegalWord ≠ some w then .next s
    else if s.me.phase = .second then .next (s.trapA (exc 1 w))
    else .next (s.trapC (exc 1 w))
  | _ => .next s

end Sys2Proof.Machine
end

