-- ==== Sys2Proof/Machine/System.lean ====
section
/-! DEFINITION. Control words (R53-R64, R155, R156), translation invalidation (R157, R158), and the thread image of
CTXSAVE and CTXLOAD (R159-R162, R302, R303, R305, R306). -/

namespace Sys2Proof.Machine

/-! ## Control words -/

/-- The control words that exist (R54). -/
def cwExists (n : Nat) : Bool := n ≤ 0x006 || (0x100 ≤ n && n ≤ 0x10A) || (0x180 ≤ n && n ≤ 0x182) || (0x200 ≤ n && n ≤ 0x202)
/-- The words that have a RW or W1C field (R53, R54). -/
def cwWritable (n : Nat) : Bool := cwExists n && n != 0x000 && n != 0x001 && n != 0x006 && n != 0x107
/-- The least mode that may name a word (R51, R53). -/
def cwMode (n : Nat) : Nat := if n < 0x100 then 0 else if n < 0x200 then 1 else 3

/-- cw.tid of a context (R14). -/
def State.tid (s : State) (c : CtxId) : Dword := .ofNat 64 (s.niu.pkgNum.toNat * 2 ^ 13 + c.toNat)

/-- The value a per-thread word reads (R54). -/
def Ctx.cwValue (x : Ctx) (time tid : Dword) (n : Nat) : Dword :=
  match n with
  | 0x000 => tid
  | 0x001 => zext x.cw.ltag
  | 0x002 => x.cw.fpctl
  | 0x003 => x.cw.upctl
  | 0x004 => x.cw.uvec
  | 0x005 => x.cw.uepc
  | 0x006 => x.cw.uinfo
  | 0x100 => x.cw.status
  | 0x101 => x.cw.estat
  | 0x102 => x.cw.epc
  | 0x103 => x.cw.cause
  | 0x104 => x.cw.tval
  | 0x105 => x.cw.tval2
  | 0x106 => x.cw.scratch
  | 0x107 => zext x.cw.asn
  | 0x108 => zext x.cw.ien
  | 0x109 => zext (x.pending time)
  | 0x10A => x.cw.timecmp
  | 0x201 => x.cw.fwepc
  | _ => x.cw.fwcause

/-- The value a control word reads (R54, R155). -/
def State.readCw (s : State) (c : CtxId) (n : Nat) : Dword :=
  match n with
  | 0x180 => (s.core (coreOf c)).trapvec
  | 0x181 => (s.core (coreOf c)).exitpc
  | 0x182 => (s.core (coreOf c)).robcap
  | 0x200 => (s.core (coreOf c)).fwvec
  | n => (s.ctx c).cwValue s.dev.time (s.tid c) n

/-- cw.fpctl as stored: rm of 5 to 7 is stored as 0, reserved bits are zero (R60). -/
def fpctlStored (v : Dword) : Dword := (v &&& 0x1F0) ||| (if v.toNat % 8 > 4 then 0 else v &&& 7)

/-- Write a per-thread word under each field's access rule (R54-R63, R155). The bits [2:0] of cw.uvec, which the part ignores, are stored
cleared, and so they read: DESIGN CHOICE, log 76. -/
def Cw.write (w : Cw) (n : Nat) (v : Dword) : Cw :=
  match n with
  | 0x002 => { w with fpctl := fpctlStored v }
  | 0x003 => { w with upctl := (w.upctl &&& 2) ||| (v &&& 1) }
  | 0x004 => { w with uvec := bundleAddr v }
  | 0x005 => { w with uepc := v &&& ~~~(3 : Dword) }
  | 0x100 => { w with status := (w.status &&& 3) ||| (v &&& 0x1C) }
  | 0x101 => { w with estat := v &&& 0x1F }
  | 0x102 => { w with epc := v &&& ~~~(3 : Dword) }
  | 0x103 => { w with cause := v &&& 0x800000000000FFFF }
  | 0x104 => { w with tval := v }
  | 0x105 => { w with tval2 := v &&& 0xC00000000000FFFF }
  | 0x106 => { w with scratch := v }
  | 0x108 => { w with ien := v.extractLsb' 0 5 }
  | 0x109 => { w with ipend := w.ipend &&& ~~~(v.extractLsb' 0 5) }
  | 0x10A => { w with timecmp := v }
  | 0x201 => { w with fwepc := v &&& ~~~(3 : Dword) }
  | 0x202 => { w with fwcause := v &&& 0x800000000000FFFF }
  | _ => w

/-- Write a control word (R55, R155); the ignored bits [2:0] of the vectors and of cw.exitpc are stored cleared: DESIGN CHOICE, log 76. -/
def State.writeCw (s : State) (c : CtxId) (n : Nat) (v : Dword) : State :=
  match n with
  | 0x180 => s.modCore (coreOf c) fun k => { k with trapvec := bundleAddr v }
  | 0x181 => s.modCore (coreOf c) fun k => { k with exitpc := bundleAddr v }
  | 0x182 => s.modCore (coreOf c) fun k => { k with robcap := v &&& 0xFFFFFFFFFFFF }
  | 0x200 => s.modCore (coreOf c) fun k => { k with fwvec := bundleAddr v }
  | n => s.modCtx c fun x => { x with cw := x.cw.write n v }

/-- The checks of R53 in the order of R66: a number or a write that is no instruction, then the mode. DEDUCED, log 54. -/
def cwCheck (x : Ctx) (n : Nat) (write : Bool) : Option Exc :=
  if ¬cwExists n ∨ (write ∧ ¬cwWritable n) then some (exc 1 x.instrWord)
  else if x.mode.toNat < cwMode n then some (exc 2 x.instrWord)
  else none

/-- GETCW (R155). -/
def execGetcw (d : Reg) (n : BitVec 15) (s : State) : Out :=
  match cwCheck s.me n.toNat false with
  | some e => .next (s.trapC e)
  | none => s.doneC fun c => c.setX d (s.readCw s.cur n.toNat)

/-- SETCW (R155). -/
def execSetcw (a : Reg) (n : BitVec 15) (s : State) : Out :=
  match cwCheck s.me n.toNat true with
  | some e => .next (s.trapC e)
  | none => .next ((s.writeCw s.cur n.toNat (s.me.getX a)).endC .next)

/-- SWAPCW: the old word to x[d], x[a] to the word, as one step (R155). -/
def execSwapcw (d a : Reg) (n : BitVec 15) (s : State) : Out :=
  match cwCheck s.me n.toNat true with
  | some e => .next (s.trapC e)
  | none => .next (((s.writeCw s.cur n.toNat (s.me.getX a)).setX d (s.readCw s.cur n.toNat)).endC .next)

/-! ## TLBINV -/

/-- Older stores of the thread, and every access of the core's contexts under a dropped entry, are performed (R158). -/
def State.drainCore (s : State) (core : CoreId) : State := (ctxsOfCore core).foldl State.drain s

/-- TLBINV (R157, R158): supervisor; drops the cached translations that p picks; a parked TOKWAIT uses none, for it translates
anew (R28). DEDUCED, logs 55 and 56. -/
def tlbInvalidate (p : TlbEntry → Bool) (s : State) : Out :=
  s.needMode 1 (
    let s := s.drainCore (coreOf s.cur)
    if ¬(s.posted s.cur).isEmpty then .next s.stall
    else .next ((s.modCore (coreOf s.cur) fun k => { k with tlb := k.tlb.filter fun e => !p e }).endC .next))

/-- An entry translates an address; a non-canonical or fabric address names none (R157). -/
def TlbEntry.covers (e : TlbEntry) (va : Dword) : Bool :=
  va.toNat < 2 ^ 56 && e.vpn * 4096 / 2 ^ e.shift == va.toNat / 2 ^ e.shift

/-- TLBINV.all (R157). -/
def execTlbinvAll (s : State) : Out := tlbInvalidate (fun _ => true) s

/-- TLBINV.asn (R157). -/
def execTlbinvAsn (b : Reg) (s : State) : Out :=
  tlbInvalidate (fun e => !e.global && e.asn == slice 0 16 (s.getX b)) s

/-- TLBINV.page (R157). -/
def execTlbinvPage (a b : Reg) (s : State) : Out :=
  tlbInvalidate (fun e => (e.global || e.asn == slice 0 16 (s.getX b)) && e.covers (s.getX a)) s

/-- TLBINV.va (R157). -/
def execTlbinvVa (a : Reg) (s : State) : Out := tlbInvalidate (fun e => e.covers (s.getX a)) s

/-! ## The thread image (R302, R303) -/

/-- Bytes of a thread image (R159). -/
def imageSize : Nat := 5120
/-- The image address: x[a] with bits [6:0] cleared (R159). -/
def imageAddr (v : Dword) : Dword := v &&& ~~~(127 : Dword)
/-- The identifier of a thread image (R302). -/
def imageId : Nat := 0x280001

/-- The numbers of the per-thread words, in image order (R302). -/
def imageWords : List Nat :=
  [0x000, 0x001, 0x002, 0x003, 0x004, 0x005, 0x006, 0x100, 0x101, 0x102, 0x103, 0x104, 0x105, 0x106, 0x107, 0x108, 0x109,
   0x10A, 0x201, 0x202]

/-- The fixed head of an image: flags, ticket, failure, marker wait (R302). -/
structure ImageHead where
  flags : Nat
  ticket : BitVec 16
  failAddr : Dword
  failTicket : BitVec 16
  marker : Nat
  phase : Dword
  deriving DecidableEq, Repr

/-- p0-p7 as a byte, bit 0 set (R302). -/
def Ctx.predByte (x : Ctx) : Nat :=
  ((List.range 8).map fun i => if x.getP (.ofNat 3 i) then 2 ^ i else 0).sum

/-- The bytes CTXSAVE writes (R302). -/
def Ctx.imageBytes (x : Ctx) (time tid : Dword) (h : ImageHead) : List Byte :=
  toBytes 8 imageId ++ toBytes 8 h.flags ++ toBytes 8 0 ++ bytesOf 8 h.ticket ++ bytesOf 8 h.failAddr ++
  bytesOf 8 h.failTicket ++ toBytes 8 h.marker ++ bytesOf 8 h.phase ++ toBytes 64 0 ++
  (List.range 32).flatMap (fun n => bytesOf 8 (x.getX (.ofNat 5 n))) ++
  (List.range 8).flatMap (fun n => bytesOf 8 (x.getB (.ofNat 3 n)).image) ++
  toBytes 8 x.predByte ++ bytesOf 8 x.fmt ++
  (List.range 8).flatMap (fun n => bytesOf 16 (x.getK (.ofNat 3 n))) ++
  imageWords.flatMap (fun n => bytesOf 8 (x.cwValue time tid n)) ++ toBytes 272 0 ++
  (List.range 32).flatMap (fun n => bytesOf 128 (x.getV (.ofNat 5 n)))

/-- The read-type entries of a thread (R160). -/
def State.readEntries (s : State) (c : CtxId) : List (Nat × TkEntry) :=
  (s.core (coreOf c)).tk.filter fun e => e.2.kind == .read && !e.2.squashed && e.2.ctx == ctxInCore c

/-- The notice that has come for an access: OK or FAIL (R303). -/
def State.noticeOf (s : State) (e : TkEntry) : Option Bool :=
  if e.state = .ticket ∨ e.state = .blocked then
    (s.niu.flows.find? fun f => f.core == e.packet.srcCore && f.dest == e.packet.dest).bind fun f => f.notes.lookup e.ticket
  else e.noted

/-- An entry whose notice is still to come (R305). -/
def State.awaits (s : State) (e : TkEntry) : Bool := e.state == .sent || s.noticeDue e

/-- The marker wait the image records (R303): cw.epc names the MKWAIT the thread was interrupted out of. -/
def Ctx.markerWait (x : Ctx) : Option (BitVec 5 × Dword) :=
  match x.mkRec with
  | some (m, u, addr) => if x.cw.epc = addr then some (m, u) else none
  | none => none

/-- The recorded marker wait, while it still waits: neither has its phase completed nor the marker been initialised again. One that is over
is marker state of the image alone (R161). DEDUCED, log 27. -/
def State.markerOpen (s : State) (c : CtxId) : Option (BitVec 5 × Dword) :=
  (s.ctx c).markerWait.filter fun (m, u) =>
    let mk := tableGet (s.skein (skeinOf c)).markers m.toNat Marker.reset
    !(u.ult mk.b || u.ult mk.p)

/-- The image's head for a departing thread (R303). It has room for one read-type entry and one failure: of several, the lowest
numbered entry and the oldest failure are recorded: DESIGN CHOICE, log 66. A failure that is data poison has no field of its own and is
saved as any FAIL: DESIGN CHOICE, log 84. -/
def State.imageHead (s : State) (c : CtxId) (record : Bool) : ImageHead :=
  let x := s.ctx c
  let reads := (s.readEntries c).map (·.2)
  let r := reads.head?
  let f := x.fails.head?
  let arrived := match r with | some e => !s.awaits e | none => false
  let failed : Bool := match r with | some e => arrived && s.noticeOf e == some false | none => false
  { flags := (if x.tile then 1 else 0) + (if x.latch then 2 else 0) + (if r.isSome then 4 else 0) +
      (if arrived then 8 else 0) + (if failed then 16 else 0) + (if record then 32 else 0) +
      (if f.isSome then 64 else 0) + (s.posted c).length * 256
    ticket := match r with | some e => e.ticket | none => 0
    failAddr := match f with | some f => f.addr | none => 0
    failTicket := match f with | some f => f.ticket | none => 0
    marker := match x.markerWait with | some (m, _) => m.toNat + (if (s.markerOpen c).isSome then 256 else 0) | none => 0
    phase := match x.markerWait with | some (_, u) => u | none => 0 }

/-- The lowest forwarding record not held (R306). -/
def CoreSt.freeRecord (k : CoreSt) : Option Nat :=
  (List.range Config.forwardingRecords).find? fun n => !(k.fwd.any fun e => e.1 == n)

/-- The core's side of a departure (R305, R306): read-type entries are freed, or stay as cancel obligations; posted
stores are detached; a record is made if one is given. -/
def State.detach (s : State) (c : CtxId) (rec? : Option Nat) (img : Nat) (t : Treat) : State :=
  let x := s.ctx c
  let reads := s.readEntries c
  let posted := s.posted c
  let owed := reads.any fun e => s.awaits e.2
  let isMine := fun (e : TkEntry) => e.ctx == ctxInCore c && !e.squashed
  s.modCore (coreOf c) fun k =>
    let tk := k.tk.filterMap fun (n, e) =>
      if e.kind == .read && isMine e && (e.state == .sent || e.replaying) then
        some (n, { e with kind := .cancel, fwd := none })
      else if e.kind == .read && isMine e then
        if e.state == .ticket || e.state == .blocked then
          some (n, { e with kind := .cancel, fwd := if s.noticeDue e then rec? else none })
        else none
      else if e.kind == .read && e.squashed && e.ctx == ctxInCore c then some (n, { e with kind := .cancel, fwd := none })
      else if e.kind == .posted && isMine e then some (n, { e with kind := .detached, fwd := rec? })
      else some (n, e)
    let fwd := match rec? with
      | none => k.fwd
      | some n => tableSet k.fwd n
          { img := img, t := t, notice := owed, stores := posted.length, failed := !x.fails.isEmpty
            marker := (s.markerOpen c).map fun (m, u) => (skeinOf c, m, u) }
    { k with tk := tk, fwd := fwd }

/-- Where a record is made, the image's own stores are performed before anything is forwarded to it (R161, R307). -/
def State.releaseRecord (s : State) (c : CtxId) (rec? : Option Nat) : State :=
  if rec?.isSome then (s.drain c).releaseS (coreOf c) 4 else s

/-- CTXSAVE (R159-R161, R301-R306); a fault leaves the state as it was (R159). -/
def execCtxsave (a : Reg) (s : State) : Out :=
  s.needMode 1 (
    let c := s.cur
    let before := s
    s.after (s.mapRange (s.who c) .store (imageAddr (s.getX a)) imageSize) fun (u, l) =>
      let s := u.drain c
      let needs := (s.readEntries c).any (fun e => s.awaits e.2) || !(s.posted c).isEmpty
      let free := (s.core (coreOf c)).freeRecord
      if needs ∧ free.isNone then .next s.stall
      else
        let rec? := if needs ∨ (s.markerOpen c).isSome then free else none
        let d := s.me.imageBytes s.dev.time (s.tid c) (s.imageHead c rec?.isSome)
        let (img, t) := match l with | b :: _ => (b.loc, b.t) | [] => (0, .D)
        before.after (s.writeBytes c false l d) fun s => .next (((s.releaseRecord c rec?).detach c rec? img t).endC .next))

/-! ## CTXLOAD -/

/-- The n-byte little-endian value at an offset of an image. -/
def imgNat (d : List Byte) (off n : Nat) : Nat := ofBytes ((d.drop off).take n)
def imgDword (d : List Byte) (off : Nat) : Dword := .ofNat 64 (imgNat d off 8)

/-- The per-thread words as loaded: reserved fields ignored, cw.status.mode as it is (R162). -/
def Cw.loaded (w : Cw) (d : List Byte) : Cw :=
  let at_ := fun (i : Nat) => imgDword d (0x250 + 8 * i)
  { ltag := slice 0 32 (at_ 1), fpctl := fpctlStored (at_ 2), upctl := at_ 3 &&& 3, uvec := bundleAddr (at_ 4)
    uepc := at_ 5 &&& ~~~(3 : Dword), uinfo := at_ 6 &&& 0xFFFF, status := (w.status &&& 3) ||| (at_ 7 &&& 0x1C)
    estat := at_ 8 &&& 0x1F, epc := at_ 9 &&& ~~~(3 : Dword), cause := at_ 10 &&& 0x800000000000FFFF, tval := at_ 11
    tval2 := at_ 12 &&& 0xC00000000000FFFF, scratch := at_ 13, asn := slice 0 16 (at_ 14), ien := slice 0 5 (at_ 15)
    ipend := slice 0 5 (at_ 16) &&& 0x1E, timecmp := at_ 17, fwepc := at_ 18 &&& ~~~(3 : Dword)
    fwcause := at_ 19 &&& 0x800000000000FFFF }

/-- Flags bit 6, or bit 3 of the pending-notice word, gives a pending deferred failure (R303, R309), with cause 0x0B even where the one
saved was data poison: DESIGN CHOICE, log 84. -/
def loadedFails (d : List Byte) (time : Dword) : List Fail :=
  if (imgNat d 8 8).testBit 6 ∨ (imgNat d 16 8).testBit 3 then
    [{ addr := imgDword d 0x20, ticket := .ofNat 16 (imgNat d 0x28 2), poison := false, seq := 0, at_ := time, due := false }]
  else []

/-- The context with the image's thread (R162). The image has no field for the recorded sources of cw.ipend bits 1 and 2, which
become 0, nor for a launch's completion action, which stays with the context. DESIGN CHOICE, log 67. Nor for fence delivery failures the departed
thread has not reported, which are dropped. DESIGN CHOICE, log 107. -/
def Ctx.loadImage (x : Ctx) (d : List Byte) (time : Dword) : Ctx :=
  { x with
    x := Vector.ofFn fun (i : Fin 32) => if i.val = 0 then 0 else imgDword d (0x80 + 8 * i.val)
    b := Vector.ofFn fun (i : Fin 8) => BReg.ofImage (imgDword d (0x180 + 8 * i.val))
    p := Vector.ofFn fun (i : Fin 8) => (imgNat d 0x1C0 1).testBit i.val
    fmt := .ofNat 16 (imgNat d 0x1C8 2)
    k := Vector.ofFn fun (i : Fin 8) => .ofNat 128 (imgNat d (0x1D0 + 16 * i.val) 16)
    v := Vector.ofFn fun (i : Fin 32) => .ofNat 1024 (imgNat d (0x400 + 128 * i.val) 128)
    cw := x.cw.loaded d, latch := (imgNat d 8 8).testBit 1, fails := loadedFails d time, lost := [], mkRec := none
    mbSrc := 0, icSrc := 0 }

/-- CTXLOAD (R159, R162): a tile-enabled thread, and an image with another identifier, make it illegal; a page of the image that cannot
be accessed goes before its identifier: DESIGN CHOICE, log 106. Poison of the rest comes last (R66). The replaced thread's ticket-table entries, where no CTXSAVE has freed or detached them, stay the context's: DESIGN CHOICE, log 77. -/
def execCtxload (a : Reg) (s : State) : Out :=
  s.needMode 1 (
    let c := s.cur
    if s.me.tile then .next (s.trapC (exc 1 s.me.instrWord))
    else
      s.after (do
        let (s, l) ← s.mapRange (s.who c) .load (imageAddr (s.getX a)) imageSize
        let (s, d) ← s.readMem c (l.take 8)
        return (s, l, d)) fun (t, l, d) =>
        if imgNat d 0 8 ≠ imageId then .next (s.trapC (exc 1 s.me.instrWord))
        else s.after (t.readMem c l) fun (u, d) =>
          .next (((u.modMe fun x => x.loadImage d s.dev.time).leaveFused c).endC .next))

end Sys2Proof.Machine
end

