-- ==== Sys2Proof/Machine/Answers.lean ====
section
/-! DEFINITION. What arrives at a source core: answers to its fabric accesses (R189, R299, R311), the notice of a ticket and
the settlement of a flow (R305, R344), and BUSY (R345). -/

namespace Sys2Proof.Machine

/-! ## Entries by owner -/

/-- The access an answer is for. -/
def State.accessOf (s : State) (core : CoreId) (o : FabOwner) : Option TkEntry :=
  ((s.core core).accesses.find? fun e => e.1 == o).map (·.2)

/-- A core's ghost of a queue becomes another, or goes. -/
def CoreSt.setGhost (k : CoreSt) (q : BitVec 2) (e : Option TkEntry) : CoreSt :=
  { k with ghosts := k.ghosts.filterMap fun g => if g.1 == q then e.map fun e => (q, e) else some g }

/-- Replace an access. -/
def State.setAccess (s : State) (core : CoreId) (o : FabOwner) (e : TkEntry) : State :=
  match o with
  | .entry n => s.setTk core n.toNat e
  | .queue q =>
    if (s.core core).ghosts.any fun g => g.1 == q then s.modCore core fun k => k.setGhost q (some e)
    else match s.headCmd core q with
    | some c => s.setHead core q { c with unit := some e }
    | none => s

/-- A cancel obligation ends (R305). -/
def State.endCancel (s : State) (core : CoreId) (o : FabOwner) : State :=
  match o with
  | .entry n => s.freeTk core n.toNat
  | .queue q => s.modCore core fun k => k.setGhost q none

/-- The context an entry of a core belongs to. -/
def TkEntry.owner (e : TkEntry) (core : CoreId) : CtxId := ctxOf core e.ctx

/-- A posted store of a resident thread has failed: the failure waits for its report, the oldest store first (R197). -/
def State.recordFail (s : State) (core : CoreId) (e : TkEntry) (t : BitVec 16) (poison : Bool) : State :=
  let f : Fail := { addr := e.addr, ticket := t, poison := poison, seq := e.seq, at_ := s.dev.time, due := false }
  s.modCtx (e.owner core) fun x =>
    { x with fails := x.fails.filter (fun g => g.seq ≤ f.seq) ++ f :: x.fails.filter fun g => f.seq < g.seq }

/-- An entry's access is settled for good without data: a store acknowledged or failed, a cancel obligation ended. -/
def State.endEntry (s : State) (core : CoreId) (n : Nat) (e : TkEntry) (fail : Option (BitVec 16)) (poison : Bool) : State :=
  let s := s.freeTk core n
  match e.kind with
  | .read => s
  | .posted => match fail with | some t => s.recordFail core e t poison | none => s
  | .detached => match e.fwd with
    | some r => s.forwardStore core r (fail.map fun t => (e.addr, t))
    | none => s
  | .cancel => s

/-! ## Settling a flow (R344) -/

/-- Put a settlement on its way: to the package's own NIU, or to the fabric. -/
def State.sendService (s : State) (core : CoreId) (home : PkgId) (own : Event) (far : Output) : State :=
  let s := s.countSent core
  if home = s.niu.pkgNum then s.post own else s.emit far

/-- A replay takes the flow's route, or a new one where no request of the flow is outstanding (R351). -/
def State.sendReplay (s : State) (q : Packet) : State × Packet := s.inject q .fabricReplay .replay
def State.sendSkip (s : State) (core : CoreId) (home : PkgId) : State :=
  s.sendService core home (.fabricSkip s.niu.pkgNum core) (.skip home core)
def State.sendCancel (s : State) (core : CoreId) (home : PkgId) : State :=
  s.sendService core home (.fabricCancel s.niu.pkgNum core) (.cancel home core)

/-- The access, its notice having come, is replayed. -/
def TkEntry.replayed (e : TkEntry) (ok : Bool) : TkEntry :=
  { e with state := if ok then .noticeOk else .noticeFail, replaying := true, noted := some ok }

/-- The notice of a ticket has settled the access that was answered TICKET: from then on it serves those answered BLOCKED, until the
home gives the number to another (R344). -/
def State.serveNote (s : State) (core : CoreId) (e : TkEntry) : State :=
  if e.state = .ticket then
    let f := s.flowOr core e.packet.dest
    s.setFlow { f with served := e.ticket :: f.served.filter (· != e.ticket) }
  else s

/-- A new TICKET(t) has no notice yet where the one that stands has served an earlier t. -/
def State.openTicket (s : State) (core : CoreId) (dest : PkgId) (a : FabAnswer) : State :=
  match a with
  | .ticket t =>
    let f := s.flowOr core dest
    if f.served.contains t then
      s.setFlow { f with notes := f.notes.filter fun n => n.1 != t, served := f.served.filter (· != t) }
    else s
  | .ok _ => s
  | .blocked _ => s
  | .poison => s
  | .refused => s

/-- Settle one access whose notice has arrived: cancelled, replayed, or skipped (R305, R344). -/
def State.settleOne (s : State) (core : CoreId) (o : FabOwner) (e : TkEntry) (ok : Bool) : State :=
  let home := e.packet.dest
  match e.kind, o with
  | .cancel, o =>
    let s := (s.sendCancel core home).endCancel core o
    match e.fwd with
    | some r => s.forwardNotice core r ok
    | none => s
  | _, _ =>
    if e.state == .blocked || ok then
      let (s, q) := s.sendReplay e.packet
      s.setAccess core o { e.replayed ok with packet := q }
    else
      let s := s.sendSkip core home
      match e.kind, o with
      | .posted, .entry n => s.endEntry core n.toNat e (some e.ticket) false
      | .detached, .entry n => s.endEntry core n.toNat e (some e.ticket) false
      | _, _ => s.setAccess core o { e with state := .noticeFail, noted := some ok }

/-- The access of lowest sequence number. -/
def oldestAccess : List (FabOwner × TkEntry) → Option (FabOwner × TkEntry)
  | [] => none
  | a :: r =>
    match oldestAccess r with
    | some b => if b.2.seq < a.2.seq then some b else some a
    | none => some a

/-- The first access of a flow that is not settled: its answer is not known, or it waits for its notice. -/
def State.unsettled (s : State) (core : CoreId) (home : PkgId) : Option (FabOwner × TkEntry) :=
  oldestAccess ((s.core core).accesses.filter fun e =>
    e.2.packet.dest == home && (e.2.state == .sent || e.2.state == .ticket || e.2.state == .blocked))

/-- Settle the flow's accesses in their order, as far as answers and notices are known (R344), and nothing while lost requests of the
flow wait for the loss log (R257, R357). -/
def State.settleFlow (s : State) (core : CoreId) (home : PkgId) : Nat → State
  | 0 => s
  | n + 1 =>
    match s.unsettled core home with
    | none => s
    | some (o, e) =>
      if e.state == .sent ∨ ¬(s.flowOr core home).lost.isEmpty then s
      else match (s.flowOr core home).notes.lookup e.ticket with
        | none => s
        | some ok => ((s.serveNote core e).settleOne core o e ok).settleFlow core home n

/-- Nothing of the flow is unsettled or unanswered: its notices have served. DEDUCED, log 29. -/
def State.quietFlow (s : State) (core : CoreId) (home : PkgId) : State :=
  if (s.core core).accesses.any fun e => e.2.packet.dest == home then s
  else match s.flow core home with
    | some f => s.setFlow { f with notes := [], served := [] }
    | none => s

/-- Every access a core can have (R189, R290). -/
def accessCount : Nat := 40

/-- After an answer or a notice: settle, and let the copy engine look again. -/
def State.goOn (s : State) (core : CoreId) (home : PkgId) : State :=
  ((s.settleFlow core home accessCount).quietFlow core home).wakeEngines core

/-! ## BUSY (R345) -/

def Busy.is (b : Busy) (core : CoreId) (dest : PkgId) : Bool := b.core == core && b.dest == dest

/-- An answer comes from a package: the request it held is answered, and the wait goes on for a time; an answer without BUSY
ends the series. DEDUCED, log 28. -/
def State.busyAnswered (s : State) (core : CoreId) (dest : PkgId) : State :=
  s.modNiu fun u => { u with
    busy := (u.busy.filter fun b => !(b.is core dest) || b.held || b.backoff).map fun b =>
      if b.is core dest ∧ b.held then { b with held := false, backoff := true } else b }

/-- BUSY_RECEIVE (R345): no new request goes to the package until the held one is answered. -/
def execBusyReceive (s : State) : Out :=
  match s.now with
  | some (.busyReceive core dest) =>
    let n := match s.niu.busy.find? fun b => b.is core dest with | some b => b.count | none => 0
    let b : Busy := { core := core, dest := dest, count := n + 1, held := true, backoff := false }
    .next ((s.modNiu fun u => { u with busy := b :: u.busy.filter fun b => !(b.is core dest) }).modCore core fun k =>
      { k with recvd := k.recvd + 1 })
  | _ => .next s

/-- Microseconds waited after the n-th consecutive BUSY (R345). -/
def backoffTime (n : Nat) : Nat := min 64 (2 ^ (n - 1))

/-- BUSY_BACKOFF_EXPIRY (R345): the wait after the answer is over. -/
def execBusyBackoffExpiry (s : State) : Out :=
  match s.now with
  | some (.busyBackoffExpiry core dest) =>
    .next ((s.modNiu fun u => { u with
      busy := u.busy.map fun b => if b.is core dest then { b with backoff := false } else b }).wakeEngines core)
  | _ => .next s

/-! ## Answers (R189) -/

/-- The ticket of a TICKET or BLOCKED answer. -/
def heldState : FabAnswer → Option (TkState × BitVec 16)
  | .ticket t => some (.ticket, t)
  | .blocked t => some (.blocked, t)
  | .ok _ => none
  | .poison => none
  | .refused => none

/-- An access that waits for a ticket; one whose bundle was squashed is then held as on a parked thread (R299).
One already called up makes no second upcall when its replay is answered with another ticket: DESIGN CHOICE, log 109. -/
def TkEntry.hold (e : TkEntry) (st : TkState) (t : BitVec 16) : TkEntry :=
  { e with state := st, ticket := t, replaying := false, told := e.told || e.squashed, squashed := false }

/-- The failure a store's answer reports: none where it is acknowledged (R189, R342). -/
def storeFail : FabAnswer → Option (BitVec 16)
  | .ok _ => none
  | _ => some 0xFFFF

/-- An answer that ends the wait of an access. -/
def State.answerEntry (s : State) (core : CoreId) (o : FabOwner) (e : TkEntry) (a : FabAnswer) : State :=
  let done := { e with state := .done, answer := some a, replaying := false }
  match o, e.kind with
  | .queue _, .cancel => s.endCancel core o
  | .queue _, _ => s.setAccess core o done
  | .entry n, .read => if e.squashed then s.freeTk core n.toNat else s.setAccess core o done
  | .entry n, _ => s.endEntry core n.toNat e (storeFail a) (a == .poison)

/-- The answer to an access is a packet that the NIU delivers (R315): its request went out, to this package or along a route. -/
def State.cameIn (s : State) (e : TkEntry) : Bool := e.packet.dest == s.niu.pkgNum || !e.packet.route.isEmpty

/-- An access is known to be lost, and waits for its record: nothing but that record completes it (R357). -/
def State.isLost (s : State) (core : CoreId) (o : FabOwner) (e : TkEntry) : Bool :=
  (s.flowOr core e.packet.dest).lost.any fun g => g.owner == o && g.seq == e.seq

/-- An access of a thread whose atomic a drain has abandoned, unretired (R389). -/
def State.isAbandoned (s : State) (core : CoreId) (e : TkEntry) : Bool := e.kind == .read && s.power.abandoned.contains (e.owner core)

/-- FABRIC_RESPONSE (R189, R255): an answer arrives at the source core; a late one for a lost request, or for an abandoned one, is nothing
(R357, R389). -/
def execFabricResponse (s : State) : Out :=
  match s.now with
  | some (.fabricResponse core o a) =>
    match s.accessOf core o with
    | none => .next s
    | some e =>
      if ¬e.outstanding ∨ s.isLost core o e ∨ s.isAbandoned core e then .next s
      else
        let s := if s.cameIn e then s.modCore core fun k => { k with recvd := k.recvd + 1 } else s
        let s := (s.busyAnswered core e.packet.dest).openTicket core e.packet.dest a
        let s := match heldState a with
          | some (st, t) => s.setAccess core o (e.hold st t)
          | none => s.answerEntry core o e a
        .next (s.goOn core e.packet.dest)
  | _ => .next s

/-- TICKET_NOTICE (R344): the notice of a ticket arrives, and the flow is settled as far as it goes. -/
def execTicketNotice (s : State) : Out :=
  match s.now with
  | some (.ticketNotice core home t ok) =>
    let f := s.flowOr core home
    let s := s.setFlow { f with notes := (t, ok) :: f.notes.filter (fun n => n.1 != t), served := f.served.filter (· != t) }
    .next ((s.modCore core fun k => { k with recvd := k.recvd + 1 }).goOn core home)
  | _ => .next s

end Sys2Proof.Machine
end

