-- ==== Sys2Proof/Machine/Sha.lean ====
section
/-! DEFINITION. SHA-384 (R369, R373, R374, R391), which the manual names and FIPS 180-4 defines. PRESUMED, log 9. -/

namespace Sys2Proof.Machine

/-! ## Constants -/

/-- The greatest number below x + 2 ^ n, from x on, whose k-th power is at most v. -/
def rootFrom (k v : Nat) : Nat → Nat → Nat
  | 0, x => x
  | n + 1, x => rootFrom k v n (if (x + 2 ^ n) ^ k ≤ v then x + 2 ^ n else x)

/-- The first 64 bits of the fraction of the k-th root of a number below 8 ^ k. -/
def rootBits (k p : Nat) : Nat := rootFrom k (p * 2 ^ (64 * k)) 67 0 % 2 ^ 64

/-- The first eighty primes: what no smaller prime below 20 divides. -/
def shaPrimes : List Nat :=
  (List.range 410).filter fun n => decide (2 ≤ n) && [2, 3, 5, 7, 11, 13, 17, 19].all fun d => decide (n ≤ d) || n % d != 0

/-- The constants of the 80 rounds: of the cube roots of the first eighty primes. -/
def shaRoundConstants : List Nat := shaPrimes.map (rootBits 3)
/-- The chain before the first block: of the square roots of the ninth to the sixteenth prime. -/
def shaStart : List Nat := ((shaPrimes.drop 8).take 8).map (rootBits 2)

/-! ## Words -/

/-- A word turned right by n bits. -/
def shaTurn (n x : Nat) : Nat := (x / 2 ^ n ||| x * 2 ^ (64 - n)) % 2 ^ 64
/-- The exclusive or of a word's turns. -/
def shaTurns (l : List Nat) (x : Nat) : Nat := (l.map fun n => shaTurn n x).foldl (· ^^^ ·) 0
/-- Where x has a one the bit of y, elsewhere that of z. -/
def shaChoose (x y z : Nat) : Nat := z ^^^ (x &&& (y ^^^ z))
/-- The bit that two of the three have. -/
def shaMajority (x y z : Nat) : Nat := (x &&& (y ||| z)) ||| (y &&& z)

/-! ## Blocks -/

/-- One round of a chain of eight words: its constant and its word of the schedule. -/
def shaRound (kw : Nat) : List Nat → List Nat
  | [a, b, c, d, e, f, g, h] =>
    let t := h + shaTurns [14, 18, 41] e + shaChoose e f g + kw
    [(t + shaTurns [28, 34, 39] a + shaMajority a b c) % 2 ^ 64, a, b, c, (d + t) % 2 ^ 64, e, f, g]
  | l => l

/-- The word of a schedule that follows sixteen of it. -/
def shaNext (w : List Nat) : Nat :=
  let mix := fun (l : List Nat) (n i : Nat) => shaTurns l (w.getD i 0) ^^^ w.getD i 0 / 2 ^ n
  (mix [19, 61] 6 14 + w.getD 9 0 + mix [1, 8] 7 1 + w.getD 0 0) % 2 ^ 64

/-- The rounds of a block, by their constants, over the next sixteen words of its schedule. -/
def shaRounds : List Nat → List Nat → List Nat → List Nat
  | [], _, l => l
  | k :: r, w, l => shaRounds r (w.drop 1 ++ [shaNext w]) (shaRound (k + w.getD 0 0) l)

/-- The sixteen words of a block, most significant byte first. -/
def shaBlock (d : List Byte) : List Nat := (List.range 16).map fun i => ofBytes ((d.drop (8 * i)).take 8).reverse

/-- A padded string, block by block, by the constants of the rounds. -/
def shaBlocks (ks : List Nat) : Nat → List Byte → List Nat → List Nat
  | 0, _, l => l
  | n + 1, d, l => shaBlocks ks n (d.drop 128) (((shaRounds ks (shaBlock d) l).zip l).map fun p => (p.1 + p.2) % 2 ^ 64)

/-- The padding: a one bit, zeros, and the length in bits. -/
def shaPadded (d : List Byte) : List Byte :=
  d ++ (0x80 :: List.replicate ((239 - d.length % 128) % 128) 0) ++ (toBytes 16 (8 * d.length)).reverse

/-- SHA-384 of a byte string: 48 bytes. -/
def sha384 (d : List Byte) : List Byte :=
  let p := shaPadded d
  ((shaBlocks shaRoundConstants (p.length / 128) p shaStart).take 6).flatMap fun w => (toBytes 8 w).reverse

end Sys2Proof.Machine
end

