-- ==== Sys2Proof/Machine/Curve.lean ====
section
/-! DEFINITION. ECDSA over brainpoolP384r1 with SHA-384 (R369, R373, R374): the manual names the scheme and the curve; FIPS 186 defines
the one and RFC 5639 the other. PRESUMED, log 9. -/

namespace Sys2Proof.Machine

/-! ## Arithmetic modulo a number -/

/-- x to the power e, whose bits are at most so many. -/
def powMod (m x : Nat) : Nat → Nat → Nat
  | 0, _ => 1
  | n + 1, e =>
    let h := powMod m x n (e / 2)
    if e % 2 = 1 then h * h % m * x % m else h * h % m

/-- The inverse modulo a prime of 384 bits. -/
def inverseMod (m x : Nat) : Nat := powMod m x 384 (m - 2)

/-! ## The curve (RFC 5639) -/

/-- The field's prime. -/
def curveP : Nat := 0x8CB91E82A3386D280F5D6F7E50E641DF152F7109ED5456B412B1DA197FB71123ACD3A729901D1A71874700133107EC53
/-- The coefficients of y² = x³ + a x + b. -/
def curveA : Nat := 0x7BC382C63D8C150C3C72080ACE05AFA0C2BEA28E4FB22787139165EFBA91F90F8AA5814A503AD4EB04A8C7DD22CE2826
def curveB : Nat := 0x04A8C7DD22CE28268B39B55416F0447C2FB77DE107DCD2A62E880EA53EEB62D57CB4390295DBC9943AB78696FA504C11
/-- The base point. -/
def curveBase : Nat × Nat :=
  (0x1D1C64F068CF45FFA2A63A81B7C13F6B8847A3E77EF14FE3DB7FCAFE0CBD10E8E826E03436D646AAEF87B2E247D4AF1E,
   0x8ABE1D7520F9C2A45CB1EB8E95CFD55262B70B29FEEC5864E19C054FF99129280E4646217791811142820341263C5315)
/-- The number of the curve's points, a prime. -/
def curveOrder : Nat := 0x8CB91E82A3386D280F5D6F7E50E641DF152F7109ED5456B31F166E6CAC0425A7CF3AB6AF6B7FC3103B883202E9046565

/-- A pair of coordinates is a point of the curve. -/
def onCurve (p : Nat × Nat) : Bool :=
  p.1 < curveP && p.2 < curveP && p.2 * p.2 % curveP == (p.1 * p.1 * p.1 + curveA * p.1 + curveB) % curveP

/-- The third point on the line of slope m through (x, y) and x', mirrored. -/
def alongLine (m x y x' : Nat) : Nat × Nat :=
  let z := (m * m + 2 * curveP - x - x') % curveP
  (z, (m * (curveP + x - z) + curveP - y) % curveP)

/-- The sum of two points; none is the point at infinity. -/
def addPoints : Option (Nat × Nat) → Option (Nat × Nat) → Option (Nat × Nat)
  | none, q => q
  | p, none => p
  | some p, some q =>
    if p.1 ≠ q.1 then
      some (alongLine ((curveP + q.2 - p.2) * inverseMod curveP (curveP + q.1 - p.1) % curveP) p.1 p.2 q.1)
    else if (p.2 + q.2) % curveP = 0 then none
    else some (alongLine ((3 * p.1 * p.1 + curveA) * inverseMod curveP (2 * p.2) % curveP) p.1 p.2 q.1)

/-- A point taken k times, where k has at most so many bits. -/
def timesPoint (p : Nat × Nat) : Nat → Nat → Option (Nat × Nat)
  | 0, _ => none
  | n + 1, k =>
    let h := timesPoint p n (k / 2)
    let d := addPoints h h
    if k % 2 = 1 then addPoints d (some p) else d

/-! ## Signatures -/

/-- A big-endian number. -/
def bigNat (d : List Byte) : Nat := ofBytes d.reverse
/-- A number as n bytes, most significant first. -/
def bigBytes (n v : Nat) : List Byte := (toBytes n v).reverse

/-- The uncompressed form of a point: 97 bytes. -/
def pointBytes (p : Nat × Nat) : List Byte := 4 :: (bigBytes 48 p.1 ++ bigBytes 48 p.2)

/-- A signature (r, then s) verifies over a digest, under a public key. -/
def ecdsaVerifies (key digest sig : List Byte) : Bool :=
  let q := (bigNat ((key.drop 1).take 48), bigNat ((key.drop 49).take 48))
  let r := bigNat (sig.take 48)
  let s := bigNat ((sig.drop 48).take 48)
  let inRange := fun n => 0 < n && n < curveOrder
  let w := inverseMod curveOrder s
  let sum := addPoints (timesPoint curveBase 384 (bigNat digest * w % curveOrder)) (timesPoint q 384 (r * w % curveOrder))
  key.head? == some 4 && onCurve q && inRange r && inRange s && sum.any fun t => t.1 % curveOrder == r

/-- The public key of a private key below the order. -/
def publicKey (d : Nat) : List Byte := pointBytes ((timesPoint curveBase 384 d).getD (0, 0))

/-- The signature of a digest with a private key and the random number k of this signature. -/
def ecdsaSign (d k : Nat) (digest : List Byte) : List Byte :=
  let r := ((timesPoint curveBase 384 k).elim 0 (·.1)) % curveOrder
  let s := inverseMod curveOrder k * (bigNat digest + r * d) % curveOrder
  bigBytes 48 r ++ bigBytes 48 s

end Sys2Proof.Machine
end

