-- ==== Sys2Proof/Machine/Niu.lean ====
section
/-! DEFINITION. The network interface as a home: windows (R338, R339), tickets and source entries (R341, R342), page service
(R343), settlements (R344), and the hold (R345). -/

namespace Sys2Proof.Machine

/-! ## Sending -/

/-- Answer a packet: to a core of this package, or over the fabric, by its route backwards (R342, R350). -/
def State.answer (s : State) (q : Packet) (a : FabAnswer) : State :=
  if q.srcPkg = s.niu.pkgNum then s.post (.fabricResponse q.srcCore q.owner a)
  else s.emit (.answer q.srcPkg q.srcCore q.owner a (s.niu.reverse q.route))

/-- A ticket's notice to a source (R343). -/
def State.notify (s : State) (pkg : PkgId) (core : CoreId) (t : BitVec 16) (ok : Bool) : State :=
  if pkg = s.niu.pkgNum then s.post (.ticketNotice core s.niu.pkgNum t ok) else s.emit (.notice pkg core t ok)

/-- Held packets are looked at anew. -/
def State.reAdmit (s : State) : State := if s.niu.held.isEmpty then s else s.post .niuHeldAdmit

/-! ## Windows (R339) -/

/-- A window table entry. -/
structure Window where
  index : Nat
  any : Bool
  rd : Bool
  wr : Bool
  base : Nat
  size : Nat
  va : Nat
  asn : BitVec 16
  deriving DecidableEq, Repr

/-- The window of four doublewords, unless the entry is invalid. -/
def windowOf (i : Nat) (d : Vector Dword 4) : Option Window :=
  let w0 := d[0]
  let size := d[1].toNat
  let va := d[2].toNat
  if w0.getLsbD 0 ∧ slice 4 8 w0 = 0 ∧ slice 50 14 w0 = 0 ∧ size ≠ 0 ∧ size % 4096 = 0 ∧ va % 4096 = 0 ∧ va < 2 ^ 56 then
    some { index := i, any := w0.getLsbD 1, rd := w0.getLsbD 2, wr := w0.getLsbD 3, base := (slice 12 38 w0).toNat * 4096
           size := size, va := va, asn := slice 0 16 d[3] }
  else none

/-- Entry i of the window table, from the NIU's copy or from memory, which it then copies (R339). A copied entry stays in use
until a kind-4 shootdown, a write of WINBASE or WINCNT notwithstanding: DESIGN CHOICE, log 30. One in a poisoned line refuses the packet
and makes a machine check: DESIGN CHOICE, log 114. -/
def State.windowEntry (s : State) (i : Nat) : Except Stop (State × Vector Dword 4) :=
  match s.dev.wins.lookup i with
  | some d => .ok (s, d)
  | none => do
    let a := s.dev.winBase.toNat + 32 * i
    let w0 ← s.physDword false a
    let w1 ← s.physDword false (a + 8)
    let w2 ← s.physDword false (a + 16)
    let w3 ← s.physDword false (a + 24)
    let d : Vector Dword 4 := #v[w0, w1, w2, w3]
    return ((s.agentRead a).modDev fun v => { v with wins := (i, d) :: v.wins }, d)

/-- The first valid window that holds an offset, from entry i on. A WINCNT above 256 has that many entries searched, and a window of 256 or
above is named in a service record by its low byte: DESIGN CHOICE, log 99. -/
def State.findWindow (s : State) (off i : Nat) : Nat → Except Stop (State × Option Window)
  | 0 => return (s, none)
  | n + 1 => do
    let (s, d) ← s.windowEntry i
    match windowOf i d with
    | some w => if w.base ≤ off ∧ off < w.base + w.size then return (s, some w) else s.findWindow off (i + 1) n
    | none => s.findWindow off (i + 1) n

/-- The kind of access of a packet (R188). -/
def homeKind (q : Packet) : Kind :=
  match q.kind with
  | .load => .load
  | .store => .store
  | .amo => .rmw
  | .cas => .rmw

/-- A window lets a packet in (R339, R342). -/
def State.windowAllows (s : State) (w : Window) (q : Packet) : Bool :=
  (w.any || (s.dev.partId != 0 && q.partId == s.dev.partId)) &&
  (!(homeKind q).reads || w.rd) && (!(homeKind q).writes || w.wr)

/-! ## Translation at home (R322, R323, R342) -/

/-- What the home's walk finds of a packet. -/
inductive HomeWalk where
  /-- it may be performed, at this physical address -/
  | go (pa : Nat) (t : Treat)
  | refused
  /-- the page is not present, or a D update is refused -/
  | absent (dref : Bool)
  deriving DecidableEq, Repr

/-- Walk as a user-mode access in a window's address space; A is set where dref refuses D too (R323). -/
def State.homeWalk (s : State) (w : Window) (k : Kind) (va : Nat) : Except Stop (State × HomeWalk) := do
  let (s, as) ← s.asLookup w.asn
  match as with
  | none => return (s, .absent false)
  | some as =>
    let found ← s.walkFrom va 4 as.root
    let s := s.walkLines va 4 as.root
    match found with
    | .absent => return (s, .absent false)
    | .malformed => return (s, .refused)
    | .leaf level p at_ =>
      if ¬pteU p ∨ ¬permits k p then return (s, .refused)
      else if k.writes ∧ ¬pteD p ∧ as.dref then return (if pteA p then s else s.putPte at_ (p ||| 0x40), .absent true)
      else
        let p' := needed k p
        let s := if p' = p then s else s.putPte at_ p'
        return (s, .go (leafAddr (leafShift level p) p va) (pteTreat p))

/-! ## Performing (R188, R254) -/

/-- The bytes of a packet that take part: their index in it. -/
def packetParts (q : Packet) : List Nat := (List.range q.len.toNat).filter fun i => q.mask.getLsbD i

/-- The whole line is written (R187). -/
def packetWhole (q : Packet) : Bool := q.kind == .store && q.len == 128 && q.mask == BitVec.allOnes 128

/-- The new value of an atomic (R195, R196). -/
def atomicResult (q : Packet) (old : Nat) : Nat :=
  let w := 8 * q.len.toNat
  let y := q.data.toNat % 2 ^ w
  match q.kind with
  | .cas => if old = y then q.data.toNat / 2 ^ 64 % 2 ^ w else old
  | _ => amoFn w q.op.toNat old y

/-- A device register under a packet: an aligned doubleword, or 32 bits written to an interrupt file (R318).
DEDUCED, log 37. -/
def State.performDev (s : State) (q : Packet) (off : Nat) : State × FabAnswer :=
  if inFiles off then
    if q.kind = .store ∧ q.len = 4 ∧ off % 4 = 0 ∧ q.mask.toNat % 16 = 15 then
      (s.postFirst (.registerWrite .supervisor (.ofNat 28 off) (.ofNat 64 (q.data.toNat % 2 ^ 32))), .ok 0)
    else (s, .ok 0)
  else if off % 8 ≠ 0 ∨ q.len ≠ 8 then (s, .ok 0)
  else
    let old := (s.devRead off).toNat
    let write := fun (v : Nat) => s.postFirst (.registerWrite .supervisor (.ofNat 28 off) (.ofNat 64 v))
    match q.kind with
    | .load => (s, .ok (.ofNat 1024 old))
    | .store => if q.mask.toNat % 256 = 255 then (write (q.data.toNat % 2 ^ 64), .ok 0) else (s, .ok 0)
    | _ => (write (atomicResult q old), .ok (.ofNat 1024 old))

/-- A memory-side line's pins. -/
def State.mscPin (s : State) (line : Nat) (up : Bool) : State :=
  { s with msc := s.msc.map fun e => if e.line == line then { e with pins := if up then e.pins + 1 else e.pins - 1 } else e }

/-- Other lines of a line's set in the memory-side cache that are pinned (R275). -/
def State.mscPinned (s : State) (line : Nat) : Nat := ((s.mscMates line).filter fun e => e.pins != 0 && e.line != line).length

/-- A packet's write, all of one line, is made at its home (R254, R274): on a D or S page in the memory-side cache, where the line is
pinned until the write, which is made at once, is performed; on a U page without allocation. DEDUCED, log 53. -/
def State.writeAtHome (s : State) (t : Treat) (line : Nat) (write : State → State) : State :=
  if t = .U then write (s.claim none line)
  else (write (((s.mscPut line true).mscPin line true).claim none line)).mscPin line false

/-- Write a packet's bytes at their home. -/
def State.fabricWrite (s : State) (t : Treat) (l : List (Nat × Byte)) (line : Nat) : State := s.writeAtHome t line (·.writeMem l)

/-- Perform a packet at its home (R254), where poison meets it as any access (R187, R362); where two other lines of its set are pinned
it waits (R275). -/
def State.performHome (s : State) (q : Packet) (r : Region) (t : Treat) : Except Stop (State × FabAnswer) :=
  match r with
  | .dev off => .ok (s.performDev q off)
  | r =>
    let loc := r.loc
    let line := loc / 128
    let n := q.len.toNat
    let s := s.settlePin line
    if s.poisoned loc ∧ ¬packetWhole q ∧ ¬q.poison then .ok (s, .poison)
    else if (homeKind q).writes ∧ t ≠ .U ∧ 2 ≤ s.mscPinned line then .error .wait
    else if q.poison then .ok (s.writeAtHome t line (·.setPoison loc), .ok 0)
    else match q.kind with
    | .load =>
      let s := if t = .U then s else (s.share none line).mscPut line false
      .ok (s, .ok (.ofNat 1024 (ofBytes (readCells s.mem loc n))))
    | .store =>
      let s := if packetWhole q then s.clearPoison loc else s
      let d := bytesOf n q.data
      .ok (s.fabricWrite t ((packetParts q).map fun i => (loc + i, d.getD i 0)) line, .ok 0)
    | _ =>
      let old := ofBytes (readCells s.mem loc n)
      .ok (s.fabricWrite t (cellsAt loc (toBytes n (atomicResult q old))) line, .ok (.ofNat 1024 old))

/-! ## Tickets and source entries (R341) -/

/-- Tickets live at once, source entries, records of the service ring (R341, R343). -/
def ticketLimit : Nat := 4096
def sourceLimit : Nat := 2048
def serviceRecords : Nat := 256

def Source.is (e : Source) (pkg : PkgId) (core : CoreId) : Bool := e.pkg == pkg && e.core == core
def State.source (s : State) (pkg : PkgId) (core : CoreId) : Option Source := s.niu.sources.find? fun e => e.is pkg core
def State.setSource (s : State) (e : Source) : State :=
  s.modNiu fun u => { u with sources := e :: u.sources.filter fun f => !(f.is e.pkg e.core) }

/-- Whether a ticket has been served. -/
def State.served (s : State) (t : BitVec 16) : Bool := s.niu.tickets.any fun k => k.num == t && k.served

/-- The number after t, wrapping from 0xFFFE to 0 (R341). -/
def nextTicket (t : BitVec 16) : BitVec 16 := .ofNat 16 ((t.toNat + 1) % 0xFFFF)
/-- The first number after t that no live ticket has. -/
def Niu.freeTicket (u : Niu) (t : BitVec 16) : Nat → BitVec 16
  | 0 => nextTicket t
  | n + 1 => if u.tickets.any fun k => k.num == nextTicket t then u.freeTicket (nextTicket t) n else nextTicket t

/-- The access code of a service record (R343). -/
def serviceCode (q : Packet) (dref : Bool) : Nat :=
  if dref then 3 else match q.kind with
    | .load => 0
    | .store => 1
    | _ => 2

/-- A new ticket's record, SVTAIL, and the interrupt (R343). DEDUCED, log 32. -/
def State.serviceRecord (s : State) (t : BitVec 16) (w : Window) (q : Packet) (va : Nat) (dref : Bool) : State :=
  let base := (slice 13 43 s.dev.svBase).toNat * 2 ^ 13
  let rec32 := bytesOf 2 t ++ toBytes 1 (serviceCode q dref) ++ toBytes 1 w.index ++ bytesOf 2 w.asn ++ toBytes 2 0 ++
    toBytes 8 va ++ toBytes 2 q.srcPkg.toNat ++ toBytes 2 q.srcCore.toNat ++ toBytes 12 0
  let s := s.physWrite false (base + 32 * (s.dev.svTail.toNat % serviceRecords)) rec32
  let s := s.modDev fun d => { d with svTail := d.svTail + 1 }
  if targetOn s.dev.svTgt then s.raise (targetCtx s.dev.svTgt) 1 64 else s

/-- The live, unserved ticket of a page, or a new one; none where neither can be had now (R345). -/
def State.pageTicket (s : State) (w : Window) (q : Packet) (va : Nat) (dref : Bool) : Option (State × BitVec 16) :=
  match s.niu.tickets.find? fun k => !k.served && k.asn == w.asn && k.page == va / 4096 with
  | some k => some (s, k.num)
  | none =>
    if ticketLimit ≤ s.niu.tickets.length ∨ serviceRecords ≤ (s.dev.svTail - s.dev.svHead).toNat then none
    else
      let t := s.niu.freeTicket s.niu.lastTicket ticketLimit
      let k : Ticket := { num := t, asn := w.asn, page := va / 4096, served := false }
      some ((s.modNiu fun u => { u with tickets := k :: u.tickets, lastTicket := t }).serviceRecord t w q va dref, t)

/-! ## Arrive, Admit, Settle (R342) -/

/-- What becomes of a packet: taken in, or held until something frees (R345). -/
abbrev Taken := Option State

/-- A ticket that is served and that no entry names is freed (R341). -/
def State.freeTickets (s : State) : State :=
  s.modNiu fun u => { u with tickets := u.tickets.filter fun k => !k.served || u.sources.any fun e => e.t == k.num }

/-- Answer TICKET: the source's entry names the ticket and counts the answer. -/
def State.ticketAnswer (s : State) (q : Packet) (w : Window) (va : Nat) (dref : Bool) (e : Option Source) : Taken :=
  match e with
  | none =>
    if sourceLimit ≤ s.niu.sources.length then none
    else (s.pageTicket w q va dref).map fun (s, t) =>
      (s.setSource { pkg := q.srcPkg, core := q.srcCore, t := t, c := 1, s := 0 }).answer q (.ticket t)
  | some e =>
    (s.pageTicket w q va dref).map fun (s, t) => ((s.setSource { e with t := t, c := e.c + 1 }).freeTickets).answer q (.ticket t)

/-- The context that takes a machine check on a server core: the first context with a thread on the lowest-numbered server
core of a die. DESIGN CHOICE, log 31. -/
def State.serverCtx (s : State) (die : Nat) : CtxId :=
  let cores := ((List.range 128).map fun n => (.ofNat 10 (die * 128 + n) : CoreId)).filter s.isServer
  match cores with
  | [] => ctxOf (.ofNat 10 (die * 128)) 0
  | a :: _ => ((ctxsOfCore a).find? fun c => (s.ctx c).st != .idle).getD (ctxOf a 0)

/-- A walk of the NIU that read poison, or memory of a failed pair: a machine check on a server core, and REFUSED (R362).
DESIGN CHOICE, log 31. -/
def State.walkPoison (s : State) (q : Packet) (detail unit loc : Nat) : State :=
  (s.checkIn (s.serverCtx 0) detail unit loc).answer q .refused

/-- Admit (R342), under a window that holds the packet's offset. An address that runs past 2^56 is walked with its top index wrapped, and
recorded as it is: DESIGN CHOICE, log 94. -/
def State.admitIn (s : State) (q : Packet) (e : Option Source) (w : Window) : Except Stop Taken := do
  let va := w.va + (q.off.toNat - w.base)
  let (s, r) ← s.homeWalk w (homeKind q) va
  match r with
  | .refused => return some (s.answer q .refused)
  | .absent dref => return s.ticketAnswer q w va dref e
  | .go pa t =>
    let r := s.region pa
    s.reach false r
    let (s, a) ← s.performHome q r t
    return some (s.answer q a)

/-- Admit (R342). -/
def State.admitNew (s : State) (q : Packet) (e : Option Source) : Except Stop Taken := do
  let (s, w) ← s.findWindow q.off.toNat 0 s.dev.winCnt
  match w with
  | none => return some (s.answer q .refused)
  | some w => if s.windowAllows w q then s.admitIn q e w else return some (s.answer q .refused)

/-- Admit, its stops met: poison is answered REFUSED, memory not ready yet holds the packet. -/
def State.admitOr (s : State) (q : Packet) (e : Option Source) : Except Fault Taken :=
  match s.admitNew q e with
  | .ok t => .ok t
  | .error (.machine d u l) => .ok (some (s.walkPoison q d u l))
  | .error (.fault f) => .error f
  | .error (.trap _) => .ok (some (s.answer q .refused))
  | .error (.dirtyRefused _ _ _) => .ok (some (s.answer q .refused))
  | .error .wait => .ok none

/-- Arrive (R342). -/
def State.arrive (s : State) (q : Packet) : Except Fault Taken :=
  match s.source q.srcPkg q.srcCore with
  | some e => .ok (some ((s.setSource { e with c := e.c + 1 }).answer q (.blocked e.t)))
  | none => s.admitOr q none

/-- The end of Settle: an entry whose ticket is served and whose answers are all settled is deleted. -/
def State.endSettle (s : State) (pkg : PkgId) (core : CoreId) : State :=
  match s.source pkg core with
  | none => s
  | some e =>
    if s.served e.t ∧ e.s = e.c then
      (s.modNiu fun u => { u with sources := u.sources.filter fun f => !(f.is pkg core) }).freeTickets
    else s

/-- Settle for a replay; one that needs a new ticket while none can be had is held: DESIGN CHOICE, log 93. -/
def State.settleReplay (s : State) (q : Packet) : Except Fault Taken :=
  match s.source q.srcPkg q.srcCore with
  | none => .ok (some (s.answer q .refused))
  | some e =>
    let e := { e with s := e.s + 1 }
    let t := s.setSource e
    let r : Except Fault Taken :=
      if s.served e.t then t.admitOr q (some e)
      else .ok (some ((t.setSource { e with c := e.c + 1 }).answer q (.blocked e.t)))
    r.map fun o => o.map fun s => s.endSettle q.srcPkg q.srcCore

/-- Settle for a skip or a cancel. -/
def State.settleOnly (s : State) (pkg : PkgId) (core : CoreId) : State :=
  match s.source pkg core with
  | none => s
  | some e => (s.setSource { e with s := e.s + 1 }).endSettle pkg core

/-! ## The hold (R345) -/

/-- The source of a settlement. -/
def HeldMsg.settler : HeldMsg → Option (PkgId × CoreId)
  | .request _ => none
  | .replay q => some (q.srcPkg, q.srcCore)
  | .settled p c => some (p, c)
def HeldMsg.isRequest : HeldMsg → Bool
  | .request _ => true
  | .replay _ => false
  | .settled _ _ => false

/-- A packet behind these held ones has to wait: a request behind any held request (R345), a settlement behind a held replay of its source:
DESIGN CHOICE, log 93. -/
def mustWait (l : List Held) (m : HeldMsg) : Bool :=
  if m.isRequest then l.any fun h => h.msg.isRequest else l.any fun h => h.msg.settler == m.settler

/-- Try to take a packet in. -/
def State.tryTake (s : State) (m : HeldMsg) : Except Fault Taken :=
  match m with
  | .request q => s.arrive q
  | .replay q => s.settleReplay q
  | .settled p c => .ok (some (s.settleOnly p c))

/-- A packet comes to the NIU: taken in, or held. -/
def State.receivePacket (s : State) (m : HeldMsg) : Except Fault State :=
  let hold := s.modNiu fun u => { u with held := u.held ++ [{ msg := m, busySent := false }] }
  if mustWait s.niu.held m then .ok hold
  else match s.tryTake m with
    | .error f => .error f
    | .ok none => .ok hold
    | .ok (some t) => .ok t

/-- What an event does that may meet unreachable memory. -/
def orFault (r : Except Fault State) (k : State → State) : Out :=
  match r with
  | .ok s => .next (k s)
  | .error f => .fault f

/-- FABRIC_REQUEST (R342). -/
def execFabricRequest (s : State) : Out :=
  match s.now with
  | some (.fabricRequest q) => orFault (s.receivePacket (.request q)) id
  | _ => .next s

/-- FABRIC_REPLAY (R342, R344). -/
def execFabricReplay (s : State) : Out :=
  match s.now with
  | some (.fabricReplay q) => orFault (s.receivePacket (.replay q)) State.reAdmit
  | _ => .next s

/-- FABRIC_SKIP (R342, R344). -/
def execFabricSkip (s : State) : Out :=
  match s.now with
  | some (.fabricSkip p c) => orFault (s.receivePacket (.settled p c)) State.reAdmit
  | _ => .next s

/-- FABRIC_CANCEL (R305, R342). -/
def execFabricCancel (s : State) : Out :=
  match s.now with
  | some (.fabricCancel p c) => orFault (s.receivePacket (.settled p c)) State.reAdmit
  | _ => .next s

/-- Take in what can be taken of the held packets, in order; those left are kept. -/
def State.takeHeld (s : State) (kept : List Held) : List Held → Except Fault State
  | [] => .ok (s.modNiu fun u => { u with held := kept })
  | h :: r =>
    if mustWait kept h.msg then s.takeHeld (kept ++ [h]) r
    else match s.tryTake h.msg with
      | .error f => .error f
      | .ok none => s.takeHeld (kept ++ [h]) r
      | .ok (some t) => t.takeHeld kept r

/-- NIU_HELD_ADMIT (R345): a resource has freed. -/
def execNiuHeldAdmit (s : State) : Out :=
  match s.now with
  | some .niuHeldAdmit => orFault (s.takeHeld [] s.niu.held) id
  | _ => .next s

/-- Mark the held request that has been told of. -/
def tellBusy (q : Packet) (h : Held) : Held := if h.msg == .request q then { h with busySent := true } else h

/-- NIU_BUSY (R345): the request at the head of the hold has waited 16 µs. -/
def execNiuBusy (s : State) : Out :=
  match s.now with
  | some .niuBusy =>
    match s.niu.held.find? fun h => h.msg.isRequest with
    | some ⟨.request q, false⟩ =>
      let s := s.modNiu fun u => { u with held := u.held.map (tellBusy q) }
      if q.srcPkg = s.niu.pkgNum then .next (s.post (.busyReceive q.srcCore s.niu.pkgNum))
      else .next (s.emit (.busy q.srcPkg q.srcCore))
    | _ => .next s
  | _ => .next s

/-- TKDONE (R343): a live, unserved ticket is served, and every source whose entry names it is told. -/
def execTkdone (s : State) : Out :=
  match s.now with
  | some (.tkdone v) =>
    let t := slice 0 16 v
    let ok := !v.getLsbD 16
    if s.niu.tickets.any fun k => k.num == t && !k.served then
      let s := s.modNiu fun u => { u with tickets := u.tickets.map fun k => if k.num == t then { k with served := true } else k }
      let told := (s.niu.sources.reverse.filter fun e => e.t == t).foldl (fun s e => s.notify e.pkg e.core t ok) s
      .next told.freeTickets.reAdmit
    else .next s
  | _ => .next s

end Sys2Proof.Machine
end

