-- ==== Sys2Proof/Machine/Package.lean ====
section
/-! DEFINITION. Events of the package around the cores: caches (R240, R241, R264, R273-R276), the host's memory requests and
links (R261, R328, R329), HDM decoder 0 (R317, R368), inter-core sends (R308), gang stop (R313-R316), shootdown (R325-R327),
and the passing of time. -/

namespace Sys2Proof.Machine

/-! ## Caches -/

/-- The line number in the model's lists of a physical line; none for device register space. -/
def State.lineOf (s : State) (l : LineNo) : Option Nat :=
  match s.region (l.toNat * 128) with
  | .dev _ => none
  | r => some (r.loc / 128)

/-- S_DIRTY_WRITEBACK (R241): the core's dirty bytes of an S line are written back, and the line stays, clean. -/
def execSDirtyWriteback (s : State) : Out :=
  match s.now with
  | some (.sDirtyWriteback core l) =>
    match s.lineOf l with
    | some n => .next (s.writeBackS core fun e => e.line == n)
    | none => .next s
  | _ => .next s

/-- CACHE_EVICTION (R273): level 0 a core's L1, 1 a skein's cache, 2 the memory-side caches. -/
def execCacheEviction (s : State) : Out :=
  match s.now with
  | some (.cacheEviction level u l) =>
    match s.lineOf l with
    | none => .next s
    | some n =>
      match level.toNat with
      | 0 => .next (s.evictL1 u n)
      | 1 => .next (s.evictSkein (u.setWidth 7) n)
      | 2 => .next { s with msc := s.msc.filter fun e => e.line != n || e.pins != 0 }
      | _ => .next s
  | _ => .next s

/-- The skein whose pin holds a request to skein k for a line: one of its own, and for a request of another package, which reaches every
copy of this one, any (R240, R276). -/
def State.holderOf (s : State) (k : SkeinId) (line : Nat) (outside : Bool) : Option SkeinId :=
  if (s.skein k).sc.any fun l => l.line == line && l.pins != 0 && l.permission then some k
  else if outside then s.pinHolder line
  else none

/-- COHERENCE_REQUEST (R276): at a line pinned with permission the request is held until the pin ends; any other is answered, where the
line is pinned without permission as though the cache did not hold it. A request of another package leaves it a holder (R240).
DEDUCED, log 53. -/
def execCoherenceRequest (s : State) : Out :=
  match s.now with
  | some (.coherenceRequest k l excl outside) =>
    match s.lineOf l with
    | none => .next s
    | some n =>
      match s.holderOf k n outside with
      | some h => .next (s.modSkein h fun x => { x with held := x.held ++ [(n, excl, outside)] })
      | none => .next (s.answerFor k n excl outside)
  | _ => .next s

/-! ## Hosts -/

/-- Whether a host's access to memory reaches the bytes: its own memory, or HBM exposed over CXL.mem (R317, R328). -/
def State.hostReaches (s : State) (r : Region) : Bool :=
  match r with
  | .dev _ => false
  | .peer _ => false
  | .host _ => true
  | .hbm off => s.dev.committed && s.cxlUp && s.boot.ready.getLsbD (9 + homeDie off)

/-- The bytes that an access takes, and the size it must be aligned to, none where it need not be. -/
def accessSize : HostAccess → Nat × Bool
  | .read n => (n, false)
  | .write d => (d.length, false)
  | .amo _ dw _ => (if dw then 8 else 4, true)
  | .lr _ dw => (if dw then 8 else 4, true)
  | .sc _ dw _ => (if dw then 8 else 4, true)

/-- A line the host writes whole clears its poison; a part of a poisoned line is not written (R187). A pin ends first (R276). The
reservations of the line end (R244). -/
def State.hostWrite (s : State) (loc : Nat) (d : List Byte) : State :=
  let s := s.settlePin (loc / 128)
  let s :=
    if s.poisoned loc then
      if loc % 128 = 0 ∧ d.length = 128 then (s.clearPoison loc).homeWrite loc d else s
    else s.homeWrite loc d
  s.track (loc / 128) true []

/-- The response to a host's read, on the link of the line (R329, R362). -/
def State.hostAnswer (s : State) (a : PAddr) (loc n : Nat) : State :=
  s.emit (.hostRead (s.linkFor a.toNat) a (readCells s.mem loc n) (s.poisoned loc))

/-- A host takes a line exclusive: every copy of the part is invalidated (R240). No write of the line has come, so that reservations of it
stand (R244). -/
def State.hostClaim (s : State) (line : Nat) : State :=
  ((s.settlePin line).giveOutside line).track line true (s.reserved line)

/-- A hart has no reservation any more. -/
def State.unreserve (s : State) (hart : Nat) : State :=
  { s with away := s.away.map fun e => { e with reserved := e.reserved.filter (· != hart) } }

/-- A hart reserves a line, and none other (R262). -/
def State.reserve (s : State) (line hart : Nat) : State :=
  let s := s.unreserve hart
  { s with away := s.away.map fun e => if e.line == line then { e with reserved := hart :: e.reserved } else e }

/-- A host's access to memory, inside one line (R244, R261, R262): coherent with D pages by back-invalidation; an atomic reads and
writes in one step. A store-conditional writes while its hart's reservation stands, which no write of the line has followed. -/
def State.hostPerform (s : State) (a : PAddr) (loc : Nat) : HostAccess → State
  | .read n =>
    let line := loc / 128
    let held : Bool := s.away.any fun e => e.line == line && e.excl
    ((((s.settlePin line).share none line).mscPut line false).track line held (s.reserved line)).hostAnswer a loc n
  | .write d => s.hostWrite loc d
  | .amo f dw v =>
    let size := if dw then 8 else 4
    let s := s.hostClaim (loc / 128)
    let old := ofBytes (readCells s.mem loc size)
    (s.hostAnswer a loc size).hostWrite loc (toBytes size (amoFn (8 * size) f.toNat old (v.toNat % 2 ^ (8 * size))))
  | .lr hart dw => ((s.hostClaim (loc / 128)).reserve (loc / 128) hart).hostAnswer a loc (if dw then 8 else 4)
  | .sc hart dw v =>
    if (s.reserved (loc / 128)).contains hart then (s.hostWrite loc (toBytes (if dw then 8 else 4) v.toNat)).unreserve hart
    else s.unreserve hart

/-- A host's access to device register space (R318), which is open from Safelight on (R366): an aligned doubleword, or 32 bits written to
an interrupt file; it reads zero from the skein blocks up, and the same where the access is of any other kind. -/
def State.hostDevice (s : State) (a : PAddr) (off : Nat) : HostAccess → State
  | .read n =>
    let d := if n = 8 ∧ off % 8 = 0 ∧ off < 0x1000000 ∧ ¬inFiles off then bytesOf 8 (s.devRead off) else List.replicate n 0
    s.emit (.hostRead s.linkIo a d false)
  | .write d =>
    if (d.length = 8 ∧ off % 8 = 0 ∧ ¬inFiles off) ∨ (d.length = 4 ∧ off % 4 = 0 ∧ inFiles off) then
      s.postFirst (.registerWrite .host (.ofNat 28 off) (.ofNat 64 (ofBytes d)))
    else s
  | .amo _ dw _ => s.emit (.hostRead s.linkIo a (List.replicate (if dw then 8 else 4) 0) false)
  | .lr _ dw => s.emit (.hostRead s.linkIo a (List.replicate (if dw then 8 else 4) 0) false)
  | .sc _ _ _ => s

/-- HOST_MEM_REQUEST (R261, R318, R328): a host's access. An atomic of the host to device register space is none of the accesses
R318 allows. -/
def execHostMemRequest (s : State) : Out :=
  match s.now with
  | some (.hostMemRequest a w) =>
    let (n, aligned) := accessSize w
    match s.region a.toNat with
    | .dev off => if s.boot.ready.getLsbD 0 then .next (s.hostDevice a off w) else .next s
    | r =>
      if ¬s.hostReaches r ∨ 128 < a.toNat % 128 + n ∨ (aligned ∧ a.toNat % n ≠ 0) then .next s
      else .next (s.hostPerform a r.loc w)
  | _ => .next s

/-- An agent of another package reaches memory by local address: this package's HBM, or the memory of another package or of a host of the
chassis, of which this package may hold copies (R240, R253). -/
def State.peerReaches (s : State) (r : Region) : Bool :=
  match r with
  | .dev _ => false
  | .peer _ => true
  | .host _ => true
  | .hbm off => s.dev.committed && s.boot.ready.getLsbD (9 + homeDie off)

/-- Bytes of one line that a thread, an engine or a host of another package writes by local address: they show to every thread at once, and
its package holds the line exclusive (R187, R240, R253). A part that has halted, or writes its drain record, takes none (R389). -/
def State.peerWrite (s : State) (a : PAddr) (d : List Byte) : State :=
  let r := s.region a.toNat
  if s.power.drain = .halted ∨ s.power.drain.writes ∨ ¬s.peerReaches r ∨ d = [] ∨ 128 < a.toNat % 128 + d.length then s
  else s.hostWrite r.loc d

/-- HOST_LINK_TRAINED (R328): a link is up, with CXL or as PCIe alone. -/
def execHostLinkTrained (s : State) : Out :=
  match s.now with
  | some (.hostLinkTrained n mode) => .next (s.modDev fun d => { d with links := d.links.set n.toNat mode })
  | _ => .next s

/-- HOST_LINK_DOWN (R329): the other link carries everything. -/
def execHostLinkDown (s : State) : Out :=
  match s.now with
  | some (.hostLinkDown n) => .next (s.modDev fun d => { d with links := d.links.set n.toNat .down })
  | _ => .next s

/-- HDM_COMMIT (R317, R328, R368): only while READY.done is 1 and the host link runs CXL, at a base that is a multiple of
1 GiB and leaves the HBM inside the physical address space; otherwise it fails with the CXL commit-error indication.
DEDUCED, log 34. -/
def execHdmCommit (s : State) : Out :=
  match s.now with
  | some (.hdmCommit base) =>
    if s.dev.committed then .next s
    else if ¬s.boot.ready.getLsbD 63 ∨ ¬s.cxlUp ∨ base.toNat % 2 ^ 30 ≠ 0 ∨ 2 ^ 56 < base.toNat + Config.hbmSize then
      .next (s.modDev fun d => { d with hdmError := true })
    else .next (s.modDev fun d => { d with hbmBase := base.toNat, committed := true, hdmError := false })
  | _ => .next s

/-! ## Inter-core sends (R308) -/

/-- ICSEND: a write to the block of a core names a context. -/
def execIcsend (s : State) : Out :=
  match s.now with
  | some (.icsend core v) =>
    .next ((s.modCore core fun k => { k with icq := k.icq ++ [targetCtx v] }).post (.icsendDeliver core))
  | _ => .next s

/-- ICSEND_DELIVER: cw.ipend bit 2 in the context named, the written block's core as the source; a context that holds no
thread gets nothing. -/
def execIcsendDeliver (s : State) : Out :=
  match s.now with
  | some (.icsendDeliver core) =>
    match (s.core core).icq with
    | [] => .next s
    | c :: r =>
      let s := s.modCore core fun k => { k with icq := r }
      if (s.ctx c).st = .idle then .next s else .next (s.raise c 2 (core.setWidth 64))
  | _ => .next s

/-! ## Gang stop (R313-R316) -/

/-- Set a pending bit in every context that holds a thread. -/
def State.raiseAll (s : State) (bit : Nat) : State :=
  (s.listedCtxs.filter fun c => (s.ctx c).st != .idle).foldl (fun s c => s.raise c bit 0) s

/-- A user context that the stop finds: a begun head multiply runs to its end ahead of the round, and a bundle waiting in step 1 is
squashed, unless it is one that is let finish (R299, R314). -/
def State.stopUser (s : State) (c : CtxId) : State :=
  let x := s.ctx c
  if x.mode ≠ 0 ∨ ¬(x.st = .running ∨ x.st = .parked) then s
  else
    let t := s.modCore (coreOf c) fun k => { k with tq := aheadFirst (ctxInCore c) k.tq }
    if s.gangStops c ∧ x.st = .running ∧ x.phase = .first then t.giveUp c else t

/-- The snapshots of R315. -/
def CoreSt.snapshot (k : CoreSt) : CoreSt := { k with gsret := k.retired, gssent := k.sent, gsrecv := k.recvd }

/-- The stop takes effect now: it is armed and not yet in effect. -/
def State.gangDue (s : State) : Bool := s.dev.gsctl.getLsbD 0 && !s.gang

/-- Steps 3 and 4 of the stop: the snapshots, then the interrupt (R314, R315). -/
def State.gangSnapshot (s : State) : State :=
  (({ s with cores := s.cores.map fun (e : Nat × CoreSt) => (e.1, e.2.snapshot) }.modDev fun d =>
    { d with gsSnap := false }).raiseAll 3)

/-- GANG_STOP_TRIGGER (R314): package time has come to GSTIME with arm set; the snapshots follow once every user bundle that step 1
lets finish has retired. DESIGN CHOICE, log 17. -/
def execGangStopTrigger (s : State) : Out :=
  match s.now with
  | some .gangStopTrigger =>
    if s.gangDue then
      let t := s.dev.gstime
      let s := s.modDev fun d => { d with gsctl := d.gsctl ||| 2, time := if d.time.ult t then t else d.time, gsSnap := true }
      let s := s.listedCtxs.foldl State.stopUser s
      .next (if s.gangSettles then s else s.gangSnapshot)
    else if s.dev.gsSnap ∧ ¬s.gangSettles then .next s.gangSnapshot
    else .next s
  | _ => .next s

/-- GANG_RELEASE (R316): stopped and arm are cleared; launch claims and copy units go on. A release before step 1 of the stop has settled
takes the snapshots of step 2 then: DESIGN CHOICE, log 111. -/
def execGangRelease (s : State) : Out :=
  match s.now with
  | some .gangRelease =>
    let s := if s.dev.gsSnap then s.gangSnapshot else s
    let s := s.modDev fun d => { d with gsctl := d.gsctl &&& ~~~(3 : Dword) }
    .next (s.listedCores.foldl (fun s c => (s.wakeEngines c).post (.launchClaim c)) s)
  | _ => .next s

/-! ## Shootdown (R325-R327) -/

def State.setSdq (s : State) (n : BitVec 5) (q : Sdq) : State := s.modDev fun d => { d with sdq := tableSet d.sdq n.toNat q }

/-- The kind of a descriptor, its ASN, and whether the table of R326 allows it in a slot. -/
def sdKind (w : Vector Dword 4) : Nat := (slice 0 4 w[0]).toNat
def sdAsn (w : Vector Dword 4) : BitVec 16 := slice 16 16 w[0]
def sdAllowed (n : BitVec 5) (w : Vector Dword 4) : Bool :=
  sdKind w ≤ 4 && (sdKind w != 4 || n == 16) && slice 4 12 w[0] == 0 && w[3].toNat % 8 == 0

/-- A cached leaf lies in the range of a descriptor; size 0 means every address (R326). -/
def TlbEntry.inRange (e : TlbEntry) (w : Vector Dword 4) : Bool :=
  let lo := e.vpn * 4096 / 2 ^ e.shift * 2 ^ e.shift
  w[2] == 0 || (lo < w[1].toNat + w[2].toNat && w[1].toNat < lo + 2 ^ e.shift)

/-- A cached leaf that a request drops. -/
def TlbEntry.shotBy (e : TlbEntry) (w : Vector Dword 4) : Bool :=
  match sdKind w with
  | 0 => true
  | 1 => !e.global && e.asn == sdAsn w
  | 2 => (e.global || e.asn == sdAsn w) && e.inRange w
  | 3 => e.inRange w
  | _ => false

/-- A cached address-space entry that a request drops. -/
def AsEntry.shotBy (e : AsEntry) (w : Vector Dword 4) : Bool :=
  match sdKind w with
  | 0 => true
  | 1 => e.asn == sdAsn w
  | 2 => e.asn == sdAsn w
  | 3 => true
  | _ => false

/-- Drop what a request names (R326, R327). -/
def State.shoot (s : State) (w : Vector Dword 4) : State :=
  if sdKind w = 4 then s.modDev fun d => { d with wins := [] }
  else
    { s with cores := s.cores.map fun (e : Nat × CoreSt) =>
      (e.1, { e.2 with tlb := e.2.tlb.filter fun t => !t.shotBy w, ast := e.2.ast.filter fun a => !a.shotBy w }) }.modDev
        fun d => { d with ast := d.ast.filter fun a => !a.shotBy w }

/-- The writes of copy units that have been placed are made (R274, R327). -/
def State.landUnits (s : State) (core : CoreId) : State :=
  (List.range 4).foldl (fun s n =>
    let q : BitVec 2 := .ofNat 2 n
    match s.headCmd core q with
    | some c => match c.pin with
      | some (loc, t, _) => s.landUnit core q c loc t
      | none => s
    | none => s) s

/-- SHOOTDOWN_REQUEST (R325-R327): the slot's request is taken and drops its entries; a start while one is in progress is
ignored. -/
def execShootdownRequest (s : State) : Out :=
  match s.now with
  | some (.shootdownRequest n) =>
    let q := s.sdq n
    if 16 < n.toNat ∨ q.busy.isSome then .next s
    else
      let bad := !sdAllowed n q.w
      let s := s.setSdq n { q with busy := some (q.w, bad) }
      .next ((if bad then s else s.shoot q.w).post (.shootdownComplete n))
  | _ => .next s

/-- SHOOTDOWN_COMPLETE (R327): every access under a dropped entry has been performed, then the completion word is written.
DEDUCED, log 33. -/
def execShootdownComplete (s : State) : Out :=
  match s.now with
  | some (.shootdownComplete n) =>
    match (s.sdq n).busy with
    | none => .next s
    | some (w, bad) =>
      let s := s.listedCores.foldl (fun s c => (s.drainCore c).landUnits c) s
      let s := s.physWrite false w[3].toNat (toBytes 8 ((slice 32 32 w[0]).toNat + (if bad then 2 ^ 32 else 0)))
      .next (s.setSdq n { s.sdq n with busy := none })
  | _ => .next s

/-! ## The passing of time (R4) -/

/-- Entries of a core's launch queue that have waited long enough to be raised, each as often as is due (R280). -/
def CoreSt.aged (k : CoreSt) (cyc : Nat) : List Nat :=
  (List.range k.lq.length).flatMap fun n => match k.lq[n]? with
    | some e => List.replicate (min (3 - e.req.prio.toNat) ((cyc - e.since) / agingCycles)) n
    | none => []

/-- Contexts of a core whose TMMAP has waited 256 cycles for a partner (R231). -/
def CoreSt.unpaired (k : CoreSt) (cyc : Nat) : List (BitVec 3) :=
  (k.tq.filter fun t => t.pair.any fun w => w.since + 256 ≤ cyc).map (·.ctx)

/-- What falls due on a core as time passes: the aging of launches (R280), and TMMAPs that find no partner (R231). -/
def State.dueOn (s : State) (core : CoreId) : State :=
  let k := s.core core
  let s := (k.aged s.cyc).foldl (fun s n => s.post (.launchEntryAging core (.ofNat 4 n))) s
  (k.unpaired s.cyc).foldl (fun s c => s.post (.tmmapPairTimeout (ctxOf core c))) s

/-- What falls due as time passes: the gang stop (R314), and what the cores wait for. -/
def State.dueNow (s : State) : State :=
  let s := if s.gangDue ∧ s.dev.gstime.ule s.dev.time then s.post .gangStopTrigger else s
  s.listedCores.foldl State.dueOn s

/-- Nanoseconds that package time gains while ns pass: less what is held, and slewed at most 500 ppm (R354). -/
def Niu.gain (u : Niu) (ns : Nat) : Nat × Niu :=
  let held := min u.hold ns
  let most : Int := ns / 2000
  let c := if held = 0 then clampInt (-most) most u.slew else 0
  (((ns - held : Nat) + c).toNat, { u with hold := u.hold - held, slew := u.slew - c })

/-- One cycle passes: every core's arbiter chooses anew (R281). DESIGN CHOICE, log 15. -/
def State.nextCycle (s : State) : State := (s.toCycle (s.cyc + 1)).dueNow

/-- Time passes, but for a part that has halted (R389): first on the arbiters and the Gauges. DEDUCED, log 60. -/
def State.elapse (s : State) (ns cycles : Nat) : State :=
  let (n, u) := s.niu.gain ns
  if s.power.drain = .halted ∨ s.power.drain.writes then s
  else
    let s := s.toCycle (s.cyc + cycles)
    ({ s with niu := u }.modDev fun d => { d with time := d.time + BitVec.ofNat 64 n }).dueNow

end Sys2Proof.Machine
end

