-- ==== Sys2Proof/Machine/Ports.lean ====
section
/-! DEFINITION. Sahora ports (R348, R349), lost requests and the loss log (R356-R358), and package time across the fabric
(R354). -/

namespace Sys2Proof.Machine

/-! ## Ports (R349) -/

def State.port (s : State) (p : BitVec 3) : Port := s.niu.port p.toNat
def State.setPort (s : State) (p : BitVec 3) (v : Port) : State := s.modNiu fun u => { u with ports := tableSet u.ports p.toNat v }

/-- The ports that are Up. -/
def State.upPorts (s : State) : List (BitVec 3) :=
  ((List.range 8).map fun n => BitVec.ofNat 3 n).filter fun p => (s.port p).state == .up

/-- READY.done: Safelight is reached, every die and pair is ready or failed, every port Up, Absent or Failed (R367). -/
def State.allDone (s : State) : Bool :=
  s.boot.ready.getLsbD 0 &&
  (List.range 8).all fun d =>
    let st := (s.port (.ofNat 3 d)).state
    (s.boot.ready.getLsbD (1 + d) || s.boot.ready.getLsbD (25 + d)) &&
    (s.boot.ready.getLsbD (9 + d) || s.boot.ready.getLsbD (33 + d)) &&
    (st == .up || st == .absent || st == .failed)

/-- Set a READY bit. -/
def State.setReady (s : State) (n : Nat) : State :=
  { s with boot := { s.boot with ready := s.boot.ready ||| .ofNat 64 (2 ^ n) } }

/-- A unit has reported: READY.done may now be set (R367). -/
def State.checkDone (s : State) : State := if s.allDone then s.setReady 63 else s

/-- A failed port is known no longer. DEDUCED, log 40. -/
def Niu.mend (u : Niu) (n : PkgId) (p : BitVec 3) : Niu := { u with failedPorts := u.failedPorts.filter fun e => (e.1, e.2.1) != (n, p) }

/-- PORT_UP (R349, R14): training has succeeded, so neither end of the link is Failed, and the two ends agree on a version (R346); the
first port to come up tells the package its place in the fabric. -/
def execPortUp (s : State) : Out :=
  match s.now with
  | some (.portUp p peer) =>
    let x := s.port p
    if (x.state ≠ .training ∧ x.state ≠ .retraining) ∨ ¬s.bringsUp ∨ s.agreed (2 + p.toNat) = 0 then .next s
    else
      let first : Bool := slice 17 8 s.boot.ready == 0
      let s := s.setPort p { x with state := .up, peer := peer, fails := [] }
      let s := s.modNiu fun u =>
        let u := if first then { u with pkgNum := .ofNat 13 (beside u.ringC u.ringD peer.toNat (otherWay p.toNat)) } else u
        let far := u.farEnd (u.pkgNum, p)
        (u.mend u.pkgNum p).mend far.1 far.2
      .next (s.setReady (17 + p.toNat)).checkDone
  | _ => .next s

/-- PORT_RETRAIN_ENTER (R349): an Up port trains again; its retry buffer keeps every flit. -/
def execPortRetrainEnter (s : State) : Out :=
  match s.now with
  | some (.portRetrainEnter p) =>
    let x := s.port p
    if x.state = .up then .next (s.setPort p { x with state := .retraining, fails := [] }) else .next s
  | _ => .next s

/-- PORT_RETRAIN (R349): a Failed port starts training. -/
def execPortRetrain (s : State) : Out :=
  match s.now with
  | some (.portRetrain p) =>
    let x := s.port p
    if x.state = .failed then .next ((s.setPort p { x with state := .training }).modNiu fun u => u.mend u.pkgNum p) else .next s
  | _ => .next s

/-- FLIT_CRC_FAILURE (R349): the flit is resent and counted; the sixteenth failure within 1 ms makes the port retrain. -/
def execFlitCrcFailure (s : State) : Out :=
  match s.now with
  | some (.flitCrcFailure p) =>
    let x := s.port p
    if x.state ≠ .up ∧ x.state ≠ .retraining then .next s
    else
      let recent := (s.dev.time :: x.fails.filter fun t => (s.dev.time - t).ule 1000000).take 16
      let s := s.setPort p { x with crc := x.crc + 1, fails := recent }
      if x.state = .up ∧ recent.length = 16 then .next (s.post (.portRetrainEnter p)) else .next s
  | _ => .next s

/-! ## Lost requests (R356-R358) -/

/-- The kind of a loss record (R358). -/
def lossKind (o : FabOwner) (q : Packet) : Nat :=
  match o, q.kind with
  | .queue _, .store => 3
  | .queue _, _ => 4
  | .entry _, .store => 0
  | .entry _, .load => 2
  | .entry _, _ => 1

/-- A loss record (R358). -/
def lossRecord (o : FabOwner) (e : TkEntry) : Dword :=
  .ofNat 64 (e.packet.off.toNat + (e.packet.len.toNat - 1) % 128 * 2 ^ 50 + lossKind o e.packet * 2 ^ 57 + e.ctx.toNat * 2 ^ 60 +
    (if e.kind = .detached then 2 ^ 63 else 0))

/-- Records an entry holds, and entries the ring holds (R358). -/
def lossPerEntry : Nat := 28
def lossEntries : Nat := 1024

/-- Ring index of the entry written n after the next one. -/
def State.lossIndex (s : State) (n : Nat) : Nat := (s.niu.llTail.toNat + n) % lossEntries

/-- Free entries of the loss log. -/
def State.lossRoom (s : State) : Nat := lossEntries - (s.niu.llTail - s.niu.llHead).toNat

/-- Write one entry: LLTAIL, then LLTGT's interrupt (R358). DEDUCED, log 41. -/
def State.writeLoss (s : State) (f : Flow) (g : LostReq) (recs : List Dword) (more : Bool) : State :=
  let base := (slice 18 38 s.niu.llBase).toNat * 2 ^ 18
  let next := if more then s.lossIndex 1 else 0xFFFF
  let body := bytesOf 4 s.niu.llTail ++ toBytes 2 f.core.toNat ++ toBytes 2 f.dest.toNat ++ toBytes 2 g.pkg.toNat ++
    toBytes 1 g.port.toNat ++ toBytes 1 0 ++ toBytes 2 recs.length ++ toBytes 2 next ++ bytesOf 8 g.at_ ++ toBytes 8 0 ++
    recs.flatMap (bytesOf 8)
  let s := s.physWrite false (base + 256 * s.lossIndex 0) (body ++ List.replicate (256 - body.length) 0)
  let s := s.modNiu fun u => { u with llTail := u.llTail + 1 }
  if targetOn s.niu.llTgt then s.raise (targetCtx s.niu.llTgt) 1 66 else s

/-- The access of a lost request, which no answer has completed. -/
def State.lostAccess (s : State) (core : CoreId) (g : LostReq) : Option TkEntry := (s.accessOf core g.owner).filter fun e => e.seq == g.seq

/-- The record of a lost request as its entry is written: a store may have been detached since the failure was learned (R305, R358). -/
def State.recordNow (s : State) (core : CoreId) (g : LostReq) : Dword :=
  match s.lostAccess core g with
  | some e => lossRecord g.owner e
  | none => g.record

/-- Complete one lost request, whose record stands in an entry (R357). -/
def State.completeLost (s : State) (core : CoreId) (entry : Nat) (g : LostReq) : State :=
  match s.lostAccess core g with
  | none => s
  | some e =>
    match g.owner, e.kind with
    | .entry n, .posted =>
      let c := e.owner core
      (s.freeTk core n.toNat).modCtx c fun x => { x with lost := if x.lost.contains entry then x.lost else x.lost ++ [entry] }
    | .entry n, .detached => s.endEntry core n.toNat e none false
    | o, .cancel => s.endCancel core o
    | o, _ => s.answerEntry core o e .refused

/-- The lost requests at the head of a list that one failure took. -/
def sameLoss : List LostReq → List LostReq
  | [] => []
  | g :: r => g :: r.takeWhile fun h => h.pkg == g.pkg && h.port == g.port && h.at_ == g.at_

/-- A flow's lost requests as they still stand, in place. -/
def State.setLost (s : State) (f : Flow) (l : List LostReq) : State :=
  s.modNiu fun u => { u with flows := u.flows.map fun g => if g.core == f.core && g.dest == f.dest then { g with lost := l } else g }

/-- Write the entries of a flow's lost requests while the log has room, each for one failure and at most 28 records, and complete
each entry's requests (R357, R358). Answers what is left. -/
def State.logLost (s : State) (f : Flow) (l : List LostReq) : Nat → State × List LostReq
  | 0 => (s, l)
  | n + 1 =>
    match l with
    | [] => (s, [])
    | g :: _ =>
      if s.lossRoom = 0 then (s, l)
      else
        let now := (sameLoss l).take lossPerEntry
        let more := decide (lossPerEntry < (sameLoss l).length)
        let entry := s.lossIndex 0
        let s := s.writeLoss f g (now.map (s.recordNow f.core)) more
        let s := s.modNiu fun u => { u with llChain := if more then some (f.core, f.dest) else none }
        let s := now.foldl (fun s g => s.completeLost f.core entry g) s
        s.logLost f (l.drop now.length) n

/-- A flow's lost requests go to the log as far as it has room; with the last the flow is released and chooses a new route (R357).
DEDUCED, log 41. -/
def State.flushFlow (s : State) (f : Flow) : State :=
  if f.lost.isEmpty then s
  else
    let (s, l) := s.logLost f f.lost f.lost.length
    if l.isEmpty then
      let f := s.flowOr f.core f.dest
      (s.setFlow { f with route := [], lost := [] }).goOn f.core f.dest
    else s.setLost f l

/-- Flows that wait for the loss log are looked at anew, one whose next entry is already named first. -/
def State.flushLost (s : State) : State :=
  let waiting := s.niu.flows.reverse.filter fun f => !f.lost.isEmpty
  let named := fun (f : Flow) => s.niu.llChain == some (f.core, f.dest)
  (waiting.filter named ++ waiting.filter fun f => !named f).foldl State.flushFlow s

/-- Put accesses in order of sending. -/
def insertAccess (a : FabOwner × TkEntry) : List (FabOwner × TkEntry) → List (FabOwner × TkEntry)
  | [] => [a]
  | b :: r => if a.2.seq < b.2.seq then a :: b :: r else b :: insertAccess a r

/-- The unanswered requests of a flow whose route crosses a port, in order (R356); at_ is when the port failed. -/
def State.lostOf (s : State) (f : Flow) (n : PkgId) (p : BitVec 3) (at_ : Dword) : List LostReq :=
  (((s.core f.core).accesses.filter fun e =>
      e.2.outstanding && e.2.packet.dest == f.dest && s.niu.crosses e.2.packet.route n p &&
        !s.isLost f.core e.1 e.2).foldl
    (fun l a => insertAccess a l) []).map fun e =>
      { owner := e.1, seq := e.2.seq, pkg := n, port := p, at_ := at_, record := lossRecord e.1 e.2 }

/-- The NIU learns of a failed port: its lost requests are logged and completed (R356, R357). DEDUCED, log 40. -/
def State.learnFailure (s : State) (n : PkgId) (p : BitVec 3) (at_ : Dword) : State :=
  let s := s.modNiu fun u => { u.mend n p with failedPorts := (n, p, at_) :: (u.mend n p).failedPorts }
  let s := s.modNiu fun u => { u with flows := u.flows.map fun f => { f with lost := f.lost ++ s.lostOf f n p at_ } }
  s.flushLost

/-- Flood a notice on the Up ports (R356). -/
def State.flood (s : State) (n : PkgId) (p : BitVec 3) (at_ : Dword) : State :=
  if s.upPorts.isEmpty then s else s.emit (.portFailure n p at_)

/-- PORT_FAILED (R349, R356): a port that has not come back to Up in time. -/
def execPortFailed (s : State) : Out :=
  match s.now with
  | some (.portFailed p) =>
    let x := s.port p
    if x.state ≠ .retraining ∧ x.state ≠ .training then .next s
    else
      let s := (s.setPort p { x with state := .failed }).checkDone
      .next ((s.flood s.niu.pkgNum p s.dev.time).learnFailure s.niu.pkgNum p s.dev.time)
  | _ => .next s

/-- The failure that a notice tells of, or a later one of that port, is known. -/
def Niu.knows (u : Niu) (n : PkgId) (p : BitVec 3) (t : Dword) : Bool :=
  u.failedPorts.any fun e => e.1 == n && e.2.1 == p && t.ule e.2.2

/-- PORT_FAILURE_NOTICE (R356): a notice not known yet is flooded on, and acted on. -/
def execPortFailureNotice (s : State) : Out :=
  match s.now with
  | some (.portFailureNotice n p t) =>
    if s.niu.knows n p t then .next s else .next ((s.flood n p t).learnFailure n p t)
  | _ => .next s

/-! ## Package time (R354) -/

/-- TIMECTL.gm. -/
def Niu.master (u : Niu) : Bool := u.timectl.getLsbD 0

/-- Send a Sync on ports. -/
def State.sendSync (s : State) (ports : List (BitVec 3)) (v : Dword) : State := ports.foldl (fun s p => s.emit (.sync p v)) s

/-- SYNC_SEND (R354): the grandmaster sends its time on every Up port. -/
def execSyncSend (s : State) : Out :=
  match s.now with
  | some .syncSend => if s.niu.master then .next (s.sendSync s.upPorts s.dev.time) else .next s
  | _ => .next s

/-- What a follower does with a measured offset: locked it slews; before lock it steps forward, or holds the count (R354). -/
def State.follow (s : State) (off : Int) : State :=
  if s.niu.locked then s.modNiu fun u => { u with slew := off }
  else if 0 ≤ off then (s.modDev fun d => { d with time := d.time + BitVec.ofInt 64 off }).modNiu fun u => { u with hold := 0 }
  else s.modNiu fun u => { u with hold := (-off).toNat }

/-- SYNC_MESSAGE (R354): a follower corrects its count and passes the message on, corrected by the link's delay. -/
def execSyncMessage (s : State) : Out :=
  match s.now with
  | some (.syncMessage p v) =>
    if s.niu.master then .next s
    else
      let t := v + (s.port p).delay.setWidth 64
      let off := (t - s.dev.time).toInt
      let near : Bool := -10 ≤ off && off ≤ 10
      let lose : Bool := s.niu.locked && (off < -1000 || 1000 < off)
      let s := s.modNiu fun u => { u with
        offset := off, lastSync := s.dev.time
        good := if near then (match u.good with | some g => some g | none => some s.dev.time) else none }
      let s := (s.follow off).sendSync (s.upPorts.filter (· != p)) t
      .next (if lose then s.post .timeLockLoss else s).dueNow
  | _ => .next s

/-- PDELAY_MEASURE (R354): a port's link delay. -/
def execPdelayMeasure (s : State) : Out :=
  match s.now with
  | some (.pdelayMeasure p d) => .next (s.setPort p { s.port p with delay := d })
  | _ => .next s

/-- One second, in nanoseconds. -/
def second : Dword := 1000000000

/-- The offset has stayed within 10 ns for 1 s. -/
def State.offsetGood (s : State) : Bool :=
  match s.niu.good with
  | some t => second.ule (s.dev.time - t)
  | none => false

/-- TIME_LOCK (R354): the offset has stayed within 10 ns for 1 s; the grandmaster's own is zero. DEDUCED, log 59. -/
def execTimeLock (s : State) : Out :=
  match s.now with
  | some .timeLock => if s.niu.master ∨ s.offsetGood then .next (s.modNiu fun u => { u with locked := true }) else .next s
  | _ => .next s

/-- TIME_LOCK_LOSS (R354, R355): no Sync for 1 s, or an offset above 1 µs. -/
def execTimeLockLoss (s : State) : Out :=
  match s.now with
  | some .timeLockLoss =>
    let gone : Bool := second.ule (s.dev.time - s.niu.lastSync) || s.niu.offset < -1000 || 1000 < s.niu.offset
    if s.niu.locked ∧ ¬s.niu.master ∧ gone then .next (s.modNiu fun u => { u with locked := false, timeLost := true, good := none, slew := 0 }) else .next s
  | _ => .next s

/-- PTSET (R355): the grandmaster's time, forward only. -/
def execPtset (s : State) : Out :=
  match s.now with
  | some (.ptset v) =>
    if s.niu.master ∧ s.dev.time.ult v then .next (s.modDev fun d => { d with time := v }).dueNow else .next s
  | _ => .next s

end Sys2Proof.Machine
end

