-- ==== Sys2Proof/Machine/Errors.lean ====
section
/-! DEFINITION. Errors (R359-R361, R365), scrub, and the termination of tenants (R363, R364). -/

namespace Sys2Proof.Machine

/-! ## Tenants (R363, R364) -/

/-- The skeins of the tenants that a mask names. -/
def Ras.skeinsOf (r : Ras) (mask : BitVec 16) : List SkeinId :=
  ((List.range 128).map fun n => BitVec.ofNat 7 n).filter fun k =>
    match r.tenantOf k with
    | some t => mask.getLsbD t
    | none => false

/-- A ticket-table entry of a terminated tenant: a cancel is owed where a notice or an answer is still to come (R305, R364). -/
def TkEntry.terminate (e : TkEntry) : Option TkEntry :=
  if e.outstanding || e.state == .ticket || e.state == .blocked then some { e with kind := .cancel, fwd := none } else none

/-- A copy unit whose answer or notice is still to come: the same. -/
def unitOwed : List CqEntry → Option TkEntry
  | .cmd c :: _ => c.unit.bind TkEntry.terminate
  | _ => none

/-- A core of a terminated tenant: queues emptied, cancels owed, L1 and instruction cache wiped (R364). -/
def CoreSt.terminate (k : CoreSt) : CoreSt :=
  { k with
    lq := [], cq := Vector.replicate 4 [], tq := [], fwd := [], l1 := [], icache := [], fused := []
    ghosts := k.ghosts ++ (List.range 4).filterMap fun q => (unitOwed (k.cq.toList.getD q [])).map fun e => (.ofNat 2 q, e)
    tk := k.tk.filterMap fun e => e.2.terminate.map fun f => (e.1, f) }

/-- A router entry that goes with a terminated skein: a hold entry for one of its cores, or a launch of one of its copy
queues. -/
def RouterWait.goesWith (w : RouterWait) (k : SkeinId) : Bool :=
  (w.hold && skeinOfCore w.core == k) ||
  (match w.origin with
    | .copy core _ _ => skeinOfCore core == k
    | .spawn _ => false
    | .mailbox _ => false)

/-- No completion action of the core's threads is left: a message of one that still waits for a slot goes (R335, R364). -/
def State.dropCoreMessages (s : State) (core : CoreId) : State :=
  s.modDev fun d => { d with msgs := d.msgs.filter fun g => coreOf g.source != core }

/-- Terminate what runs on one core (R364): its modified lines are written back, but for poisoned ones; an S line that it has written whole
is none (R187). -/
def State.terminateCore (s : State) (core : CoreId) : State :=
  let s := s.dropCoreMessages core
  let s := s.writeBackS core fun e => e.whole || !s.poisoned (e.line * 128)
  let dirty := (s.core core).l1.filter fun l => (s.core core).dirtyD l.line && !s.poisoned (l.line * 128)
  let s := dirty.foldl (fun s l => s.mscPut l.line true) s
  let s := (ctxsOfCore core).foldl (fun s c => (s.setCtx c Ctx.reset).dropTurn c) s
  (s.modCore core CoreSt.terminate).post (.routerFill core)

/-- Terminate what runs on one skein (R364); the requests that its pins held are answered, its caches being empty (R276). -/
def State.terminateSkein (s : State) (k : SkeinId) : State :=
  let dirty := (s.skein k).sc.filter fun l => l.state == .modified && !s.poisoned (l.line * 128)
  let s := dirty.foldl (fun s l => s.mscPut l.line true) s
  let s := s.modDev fun d => { d with router := d.router.filter fun w => !w.goesWith k }
  let s := (List.range 8).foldl (fun s n => s.terminateCore (coreInSkein k (.ofNat 3 n))) s
  let held := (s.skein k).held
  held.foldl (fun s h => s.answerFor k h.1 h.2.1 h.2.2) (s.modSkein k fun x => { x with sc := [], held := [], eng := [] })

/-- Terminate the tenants of a mask; cancels whose notice is known are sent at once. -/
def State.terminate (s : State) (mask : BitVec 16) : State :=
  let ks := s.ras.skeinsOf mask
  let s := ks.foldl State.terminateSkein s
  (s.niu.flows.filter fun f => ks.contains (skeinOfCore f.core)).foldl (fun s f => s.goOn f.core f.dest) s

/-- TNKILL (R364). -/
def execTnkill (s : State) : Out :=
  match s.now with
  | some (.tnkill v) => .next (s.terminate (slice 0 16 v))
  | _ => .next s

/-! ## Corrected errors (R359, R360) -/

/-- A record of a corrected error for the same unit and place. -/
def sameError (u : BitVec 4) (loc a : Dword) (r : Vector Dword 8) : Bool :=
  recKind r == 0 && slice 3 4 r[0] == u && r[1] == loc && r[2] == a

/-- One more occurrence, saturating. -/
def moreOf (r : Vector Dword 8) : Vector Dword 8 :=
  let n := slice 16 16 r[0]
  r.set 0 (splice 16 (if n = BitVec.allOnes 16 then n else n + 1) r[0])

/-- Add to the record of a list that p picks. -/
def countOne (p : Vector Dword 8 → Bool) : List (Nat × Vector Dword 8) → List (Nat × Vector Dword 8)
  | [] => []
  | e :: r => if p e.2 then (e.1, moreOf e.2) :: r else e :: countOne p r

/-- Mark the newest record: an error goes unrecorded (R360). -/
def markNewest : List (Nat × Vector Dword 8) → List (Nat × Vector Dword 8)
  | [] => []
  | [e] => [(e.1, e.2.set 0 (e.2[0] ||| 0x8000000000000000))]
  | e :: f :: r => e :: markNewest (f :: r)

/-- The ring is full. -/
def Ras.full (r : Ras) : Bool := 256 ≤ (r.tail - r.head).toNat

/-- Record a corrected error; a full ring only counts it, or marks that it went unrecorded. -/
def State.recordCorrected (s : State) (u : BitVec 4) (loc a : Dword) : State :=
  if s.ras.full then
    if s.ras.ring.any fun e => sameError u loc a e.2 then s.modRas fun r => { r with ring := countOne (sameError u loc a) r.ring }
    else s.modRas fun r => { r with ring := markNewest r.ring }
  else (s.record 0 u.toNat loc a 0 0 0 0).1

/-- CORRECTED_ERROR (R359): no value changes; the error is recorded. -/
def execCorrectedError (s : State) : Out :=
  match s.now with
  | some (.correctedError u loc a) => .next (s.recordCorrected u loc (a.setWidth 64 &&& ~~~(127 : Dword)))
  | _ => .next s

/-- PATROL_SCRUB (R359): the line is read, and written back corrected: nothing that can be read changes. -/
def execPatrolScrub (s : State) : Out :=
  match s.now with
  | some (.patrolScrub _) => .next s
  | _ => .next s

/-! ## Uncorrectable errors (R359, R361, R365) -/

/-- The context that a record's place names (R360). -/
def placeCtx (loc : Dword) : CtxId := slice 15 7 loc ++ slice 3 3 loc ++ slice 0 3 loc

/-- The line's copies go, and the line is poisoned (R361). -/
def State.poisonLine (s : State) (line : Nat) : State := (s.removeLine line).setPoison (line * 128)

/-- The tenants that a poisoned line terminates: all of the package where the error lies in a DKRANGE or on a server core
(R365). -/
def State.afterPoison (s : State) (loc : Dword) (a : Nat) : State :=
  if s.ras.inDk a ∨ (loc.getLsbD 14 ∧ s.isServer (coreOf (placeCtx loc))) then s.terminate (BitVec.allOnes 16) else s

/-- An uncorrectable error that poisons its line: the record, the poison, the termination. -/
def State.poisonError (s : State) (u : BitVec 4) (loc : Dword) (a : PAddr) : State :=
  let line := a.toNat / 128 * 128
  let s := (s.record 1 u.toNat loc (.ofNat 64 line) 0 0 0 0).1
  match s.region line with
  | .dev _ => s
  | r => (s.poisonLine (r.loc / 128)).afterPoison loc line

/-- A machine check with its record's place given. -/
def State.errorCheck (s : State) (c : CtxId) (detail unit : Nat) : State :=
  let (s, i) := s.record 2 unit (errPlace c) 0 0 0 0 0
  s.giveCheck c detail i

/-- The tenants that an error in a context's own stores terminates (R365). -/
def State.afterCheck (s : State) (c : CtxId) : State := s.terminate (s.doomed c false)

/-- The core that a record's place names. -/
def placeCore (loc : Dword) : CoreId := coreOf (placeCtx loc)

/-- A clean line is refetched (R359): the copy with the error goes, of the instruction caches, the L1, the skein cache or the
memory-side cache. A skein cache's line goes from the caches of its skein. -/
def State.refetch (s : State) (u : Nat) (loc : Dword) (line : Nat) : State :=
  match u with
  | 1 => { s with msc := s.msc.filter fun e => e.line != line || e.modified || e.pins != 0 }
  | 2 => s.modSkein (slice 15 7 loc) fun k => { k with sc := k.sc.filter fun e => e.line != line || e.state == .modified || e.pins != 0 }
  | 3 => s.modCore (placeCore loc) fun k =>
      { k with l1 := k.l1.filter fun e => e.line != line || (if e.s then e.dirty != 0 else e.state == .modified) }
  | _ => s.modCore (placeCore loc) fun k => { k with icache := k.icache.filter fun e => e.line != line }

/-- A corrected error in a clean line, which is refetched. -/
def State.cleanError (s : State) (u : BitVec 4) (loc : Dword) (a : PAddr) : State :=
  let line := a.toNat / 128 * 128
  let s := s.recordCorrected u loc (.ofNat 64 line)
  match s.region line with
  | .dev _ => s
  | r => s.refetch u.toNat loc (r.loc / 128)

/-- UNCORRECTABLE_ERROR (R359): by the store it lies in. -/
def execUncorrectableError (s : State) : Out :=
  match s.now with
  | some (.uncorrectableError u loc a modified) =>
    match u.toNat with
    | 0 => .next (s.poisonError u loc a)
    | 1 => if modified then .next (s.poisonError u loc a) else .next (s.cleanError u loc a)
    | 2 => if modified then .next (s.poisonError u loc a) else .next (s.cleanError u loc a)
    | 3 => if modified then .next (s.poisonError u loc a) else .next (s.cleanError u loc a)
    | 4 => .next (s.cleanError u loc a)
    | 5 => .next ((s.errorCheck (placeCtx loc) 2 5).afterCheck (placeCtx loc))
    | 6 => .next ((s.errorCheck (placeCtx loc) 2 6).afterCheck (placeCtx loc))
    | 10 => .next ((s.errorCheck (placeCtx loc) 3 10).afterCheck (placeCtx loc))
    | 11 => .next s
    | 12 => .next s
    | 13 => .next s
    | 14 => .next s
    | 15 => .next s
    | n => .next ((s.errorCheck (s.serverCtx (slice 7 3 loc).toNat) 2 n).terminate (BitVec.allOnes 16))
  | _ => .next s

/-- AGENT_DIED (R361): the line becomes poisoned; the record names the directory. DEDUCED, log 43. -/
def execAgentDied (s : State) : Out :=
  match s.now with
  | some (.agentDied l) => .next (s.poisonError 8 0 (.ofNat 56 (l.toNat * 128)))
  | _ => .next s

end Sys2Proof.Machine
end

