-- ==== Sys2Proof/Machine/Boot.lean ====
section
/-! DEFINITION. Start (R366-R368), the firmware image (R369-R371), the Darkroom's commands (R372-R375), wipe (R376), and the
server mask's lock (R378). -/

namespace Sys2Proof.Machine

/-! ## Byte strings -/

/-- n bytes of a string from an offset; bytes beyond its end read zero. -/
def part (d : List Byte) (off n : Nat) : List Byte := (List.range n).map fun i => d.getD (off + i) 0
/-- A little-endian field of a string. -/
def field (d : List Byte) (off n : Nat) : Nat := ofBytes (part d off n)
/-- Every byte is zero. -/
def allZero (d : List Byte) : Bool := d.all (· == 0)

/-! ## The drain record in flash (R391, R392) -/

def drainMagic : Nat := 0x4C494146

/-- The record's length field. -/
def recordLength (d : List Byte) : Nat := field d 48 8

/-- A record verifies: magic, version, a length that the flash area holds, and the hash (R391). -/
def recordVerifies (d : List Byte) : Bool :=
  field d 0 4 == drainMagic && field d 4 2 == 1 && 4096 ≤ recordLength d && recordLength d ≤ d.length &&
  part d 64 48 == sha384 (part d 0 64 ++ part d 4096 (recordLength d - 4096))

/-- PFSTAT at start (R392). DEDUCED, log 47. -/
def pfstatOf (d : List Byte) : Dword :=
  if recordVerifies d then
    .ofNat 64 (1 + field d 40 1 % 2 * 4 + field d 32 4 % 2 ^ 14 * 2 ^ 16 + field d 36 4 % 2 ^ 12 * 2 ^ 30)
  else if field d 0 4 = drainMagic then 8 else 0

/-- Where the copy of the record stands in HBM (R392). -/
def recordCopyAt : Nat := 0x17E0000000

/-! ## Reset (R366, R376) -/

/-- An entry of the agenda that comes from outside the part. -/
def Input.fromOutside : Input → Bool
  | .event _ => true
  | .own _ => false
  | .elapse _ _ => true
  | .peerWrite _ _ => true

/-- The Fixer's wipe (R376): everything goes but fuses, flash and what lies outside the part. DESIGN CHOICE, log 45. -/
def State.wiped (s : State) (f : Fuses) : State :=
  { State.reset with
    agenda := s.agenda.filter Input.fromOutside, out := s.out, free := s.free, mem := s.mem.filter fun c => 2 ^ 56 ≤ c.1
    poison := s.poison.filter fun l => 2 ^ 49 ≤ l, boot := { Boot.reset with fuses := f, flash := s.boot.flash }
    power := { Power.reset with pfstat := pfstatOf s.boot.flash.drain } }

/-- RESET_RELEASE: the wipe, then the image is verified (R366, R376). -/
def execResetRelease (s : State) : Out :=
  match s.now with
  | some .resetRelease => .next ((s.wiped s.boot.fuses).postHead .imageVerify)
  | _ => .next s

/-! ## The firmware image (R369, R370) -/

/-- Key slots accepted in a life-cycle state, unless revoked (R375). -/
def Fuses.keyAllowed (f : Fuses) (slot : Nat) : Bool :=
  slot < 4 && !f.revoked.getLsbD slot && (f.lcstate != 0 || slot == 0)

/-- The checks of R369, in order: the code of the first that fails, 0 where all pass. The signature's encoding: PRESUMED, log 9. -/
def imageError (f : Fuses) (d : List Byte) : Nat :=
  let len := field d 8 8
  if field d 0 4 ≠ 0x3834534B then 1
  else if field d 4 2 ≠ 1 ∨ ¬allZero (part d 161 7) ∨ ¬allZero (part d 264 248) then 2
  else if ¬f.keyAllowed (field d 6 1) ∨ sha384 (part d 64 97) ≠ bytesOf 48 (f.keyHash.toList.getD (field d 6 1) 0) then 3
  else if field d 7 1 < f.rollback then 4
  else if len = 0 ∨ 8388096 < len then 5
  else if sha384 (part d 512 len) ≠ part d 16 48 then 6
  else if ¬ecdsaVerifies (part d 64 97) (sha384 (part d 0 168)) (part d 168 96) then 7
  else 0

/-- A slot's error: 8 where it cannot be read. -/
def slotError (f : Fuses) : Option (List Byte) → Nat
  | none => 8
  | some d => imageError f d

/-- The image runs: header and payload as they were verified (R369, R374). -/
def Boot.run (b : Boot) (src : BitVec 2) (d : List Byte) : Boot :=
  { b with src := src, stage := if b.fuses.lcstate = 3 then 3 else 1, svn := .ofNat 8 (field d 7 1)
           image := part d 0 (512 + field d 8 8) }

/-- Slot A, then slot B, else recovery wait (R369, R371). -/
def Boot.verify (b : Boot) : Boot :=
  let a := slotError b.fuses b.flash.slotA
  if a = 0 then b.run 0 (b.flash.slotA.getD [])
  else
    let b := { b with err := .ofNat 8 a }
    let e := slotError b.fuses b.flash.slotB
    if e = 0 then b.run 1 (b.flash.slotB.getD []) else { b with err := .ofNat 8 e, stage := 2 }

/-- IMAGE_VERIFY (R369). -/
def execImageVerify (s : State) : Out :=
  match s.now with
  | some .imageVerify => if s.boot.stage = 0 then .next { s with boot := s.boot.verify } else .next s
  | _ => .next s

/-- A source delivers a level: a change of the effective level is counted, and every thread has its notice (R382). A drain
ignores levels (R389). -/
def State.relevel (s : State) (f : Power → Power) : State :=
  if s.power.drain ≠ .none then s
  else
    let p := f s.power
    if p.level = s.power.level then { s with power := p }
    else { s with power := { p with chg := p.chg + 1 } }.raiseAll 4

/-- The Darkroom's rings: mailbox 0's addresses, which the host may read and not write (R331), lie where a host can post before any HBM
is exposed (R366, R371): above the HBM's place at 0. Free values beyond that: DESIGN CHOICE, log 89. -/
def darkroomAddr (n bits : Nat) : Dword :=
  .ofNat 64 (2 ^ 40 ||| ((Config.darkroomRing n).toNat % 2 ^ 56 / 2 ^ bits * 2 ^ bits))

/-- SAFELIGHT (R366): enumeration gives BAR0 its base, mailbox 0 of both directions opens, READY.safe is set, and the Shutter
levels received so far are applied. -/
def execSafelight (s : State) : Out :=
  match s.now with
  | some (.safelight bar) =>
    if s.boot.stage = 0 ∨ s.boot.ready.getLsbD 0 then .next s
    else
      let s := s.modDev fun d => { d with bar0 := bar.toNat }
      let s := s.setH2d 0 { s.h2d 0 with cfg := (s.h2d 0).cfg ||| 1, base := darkroomAddr 0 14, ack := darkroomAddr 1 12 }
      let s := s.setD2h 0 { s.d2h 0 with cfg := (s.d2h 0).cfg ||| 1, base := darkroomAddr 2 14 }
      .next ((s.setReady 0).checkDone.relevel fun p => { p with applied := true })
  | _ => .next s

/-! ## Units (R367, R368) -/

/-- The lowest-numbered die whose HBM pair is ready. -/
def State.firstHbm (s : State) : Option Nat := (List.range 8).find? fun d => s.boot.ready.getLsbD (9 + d)

/-- Place the payload's copy, if it is not there yet and a pair is ready (R368). -/
def State.placePayload (s : State) : State :=
  match s.boot.payloadAt, s.firstHbm with
  | none, some e =>
    let off := e * 0x1800000000 + 0x1780000000
    { s.writeMem (cellsAt off (s.boot.image.drop 512)) with boot := { s.boot with payloadAt := some off } }
  | _, _ => s

/-- The thread that a die's readiness starts on a server core (R41): R21's values, in firmware mode at cw.fwvec. -/
def firmwareCtx (pc exitpc : Dword) : Ctx :=
  { Ctx.reset with
    st := .starting, pc := pc, b := (Vector.replicate 8 ⟨0, false⟩).set 0 (.to exitpc true)
    cw := { Cw.reset with status := 3 } }

/-- The package cores of a die. -/
def dieCores (d : Nat) : List CoreId := (List.range 128).map fun n => BitVec.ofNat 10 (d * 128 + n)

/-- A core of a die that becomes ready: cw.fwvec, and on a server core the firmware thread (R368). -/
def State.startCore (s : State) (fw : Dword) (core : CoreId) : State :=
  let s := s.modCore core fun k => { k with fwvec := fw }
  if s.isServer core then
    (s.setCtx (ctxOf core 0) (firmwareCtx fw (s.core core).exitpc)).addTurn (ctxOf core 0)
  else s

/-- The launches held for a die's cores are served (R279, R368). -/
def State.serveDie (s : State) (d : Nat) : State :=
  ((s.dev.router.map (·.core)).dedup.filter fun c => c.toNat / 128 == d).foldl (fun s c => s.post (.routerFill c)) s

/-- A unit's bit, for ready or failed, is set already. -/
def State.reported (s : State) (a b : Nat) : Bool := s.boot.ready.getLsbD a || s.boot.ready.getLsbD b

/-- DIE_READY (R367, R368): no die becomes ready before the payload's copy exists. -/
def execDieReady (s : State) : Out :=
  match s.now with
  | some (.dieReady n ok) =>
    if ¬s.bringsUp ∨ s.reported (1 + n.toNat) (25 + n.toNat) then .next s
    else if ¬ok then .next (s.setReady (25 + n.toNat)).checkDone
    else
      let s := s.placePayload
      match s.boot.payloadAt with
      | none => .next s
      | some off =>
        let fw : Dword := .ofNat 64 (s.dev.hbmBase + off)
        let s := (dieCores n.toNat).foldl (fun s c => s.startCore fw c) s
        .next ((s.setReady (1 + n.toNat)).checkDone.serveDie n.toNat)
  | _ => .next s

/-- The verified drain record is copied to HBM (R392). DEDUCED, log 47. -/
def State.copyRecord (s : State) : State :=
  let d := s.boot.flash.drain
  if recordVerifies d then
    { s.writeMem (cellsAt recordCopyAt (part d 0 (recordLength d))) with
      power := { s.power with pfstat := s.power.pfstat ||| 2 } }
  else s

/-- HBM_PAIR_READY (R367): accesses that waited for the pair go on. -/
def execHbmPairReady (s : State) : Out :=
  match s.now with
  | some (.hbmPairReady n ok) =>
    if ¬s.bringsUp ∨ s.reported (9 + n.toNat) (33 + n.toNat) then .next s
    else
      let s := s.setReady ((if ok then 9 else 33) + n.toNat)
      let s := if ok ∧ n = 0 then s.copyRecord else s
      .next ((s.listedCores.foldl State.wakeEngines s.checkDone).reAdmit)
  | _ => .next s

/-! ## The Darkroom's commands (R372) -/

/-- Reply, and consume the entry (R372). DEDUCED, log 44. -/
def State.reply (s : State) (code : BitVec 16) (status : Nat) : State :=
  let s := if (s.d2h 0).isOpen then
      if (s.d2h 0).free = 0 then s.dropMessage 0
      else s.postEntry 0 1 0xFFFF (bytesOf 2 code ++ toBytes 1 status ++ List.replicate 53 0)
    else s
  (s.emit (.darkroom code (.ofNat 8 status))).consume 0 4 0 0

/-- Bytes of the staging window (R371). -/
def stagingSize : Nat := 8 * 2 ^ 20

/-- RECOVER (R371, R372). -/
def execRecover (s : State) : Out :=
  match s.now with
  | some (.recover len) =>
    if s.boot.stage ≠ 2 ∨ stagingSize < len.toNat then .next (s.reply 0x101 1)
    else
      let d := readCells s.boot.staging 0 len.toNat
      let e := imageError s.boot.fuses d
      if e = 0 then .next ({ s with boot := s.boot.run 2 d }.reply 0x101 0)
      else .next ({ s with boot := { s.boot with err := .ofNat 8 e } }.reply 0x101 2)
  | _ => .next s

/-- COMMIT (R370, R372): rollback fuses are blown up to the running image's svn. -/
def execCommit (s : State) : Out :=
  match s.now with
  | some (.commit svn) =>
    if ¬s.boot.running ∨ svn ≠ s.boot.svn then .next (s.reply 0x102 1)
    else
      let f := { s.boot.fuses with rollback := max s.boot.fuses.rollback (min svn.toNat 63) }
      .next ({ s with boot := { s.boot with fuses := f } }.reply 0x102 0)
  | _ => .next s

/-- Measurement 1 (R374): zero until the mask is locked (R373). -/
def Boot.measure1 (b : Boot) : List Byte :=
  if b.srvlock then
    sha384 (bytesOf 8 b.fuses.harv ++ b.srvmask.toList.flatMap (bytesOf 8) ++ toBytes 8 b.fuses.lcstate.toNat)
  else List.replicate 48 0

/-- A private number of the curve, 1 to the order less 1, from a free value. -/
def curveSecret (n : Nat) : Nat := 1 + n % (curveOrder - 1)

/-- Bytes 0 to 143 of the report, then the identity key's public half (R373, R374). -/
def Boot.report (b : Boot) (pkg : PkgId) (nonce : BitVec 256) : List Byte :=
  let keyed : Bool := b.fuses.lcstate == 1 || b.fuses.lcstate == 2
  toBytes 4 1 ++ toBytes 1 b.fuses.lcstate.toNat ++ toBytes 1 (field b.image 6 1) ++ bytesOf 1 b.svn ++
  toBytes 1 b.fuses.rollback ++ toBytes 2 pkg.toNat ++ toBytes 6 0 ++ bytesOf 32 nonce ++ sha384 b.image ++ b.measure1 ++
  (if keyed then publicKey (curveSecret (Config.identitySecret ())) else List.replicate 97 0) ++ toBytes 7 0

/-- The report, signed with the identity key (R373, R374); no signature where there is no key. n numbers the draw. -/
def Boot.signed (b : Boot) (r : List Byte) (n : Nat) : List Byte :=
  let keyed : Bool := b.fuses.lcstate == 1 || b.fuses.lcstate == 2
  r ++ (if keyed then ecdsaSign (curveSecret (Config.identitySecret ())) (curveSecret (Config.signatureNonce n)) (sha384 r)
    else List.replicate 96 0) ++ List.replicate 168 0

/-- ATTEST (R373). -/
def execAttest (s : State) : Out :=
  match s.now with
  | some (.attest nonce) =>
    if ¬s.boot.running then .next (s.reply 0x103 1)
    else
      let r := s.boot.signed (s.boot.report s.niu.pkgNum nonce) s.free
      .next ({ s with free := s.free + 1, boot := { s.boot with attrep := r } }.reply 0x103 0)
  | _ => .next s

/-- LCADV (R375): one step at a time; the wipe, the fuse, then the reset. DEDUCED, log 44. -/
def execLcadv (s : State) : Out :=
  match s.now with
  | some (.lcadv target) =>
    if target.toNat ≠ s.boot.fuses.lcstate.toNat + 1 ∨ 3 < target.toNat then .next (s.reply 0x104 1)
    else
      let s := s.wiped s.boot.fuses
      .next ({ s with boot := { s.boot with fuses := { s.boot.fuses with lcstate := target.setWidth 2 } } }.postHead .resetRelease)
  | _ => .next s

/-- REVOKE (R372): not the running image's key slot. -/
def execRevoke (s : State) : Out :=
  match s.now with
  | some (.revoke k) =>
    if 3 < k.toNat ∨ (s.boot.running ∧ k.toNat = field s.boot.image 6 1) then .next (s.reply 0x105 1)
    else
      let f := { s.boot.fuses with revoked := s.boot.fuses.revoked ||| .ofNat 4 (2 ^ k.toNat) }
      .next ({ s with boot := { s.boot with fuses := f } }.reply 0x105 0)
  | _ => .next s

/-- DARKROOM_UNKNOWN_COMMAND (R372): always refused. -/
def execDarkroomUnknownCommand (s : State) : Out :=
  match s.now with
  | some (.darkroomUnknownCommand code) => .next (s.reply code 1)
  | _ => .next s

/-- SRVLOCK (R378): a firmware-mode write of 1. -/
def execSrvlock (s : State) : Out :=
  match s.now with
  | some (.srvlock v) => if v.getLsbD 0 then .next s.lockServers else .next s
  | _ => .next s

end Sys2Proof.Machine
end

