-- ==== Sys2Proof/Machine/Float.lean ====
section
/-! DEFINITION. Floating-point formats (R108, R109), exact values, Round (R112, R113), the operations of R115 and R116, and
the conversions of R117-R120. -/

namespace Sys2Proof.Machine

/-! ## Formats -/

/-- The formats of R108 that hold elements. -/
inductive Fmt where
  | fp64
  | fp32
  | fp16
  | bf16
  | e4m3
  | e5m2
  | e2m1
  deriving DecidableEq, Repr

/-- Fraction bits. -/
def Fmt.frac : Fmt → Nat
  | .fp64 => 52 | .fp32 => 23 | .fp16 => 10 | .bf16 => 7 | .e4m3 => 3 | .e5m2 => 2 | .e2m1 => 1
/-- Exponent bits. -/
def Fmt.exp : Fmt → Nat
  | .fp64 => 11 | .fp32 => 8 | .fp16 => 5 | .bf16 => 8 | .e4m3 => 4 | .e5m2 => 5 | .e2m1 => 2
def Fmt.bias : Fmt → Nat
  | .fp64 => 1023 | .fp32 => 127 | .fp16 => 15 | .bf16 => 127 | .e4m3 => 7 | .e5m2 => 15 | .e2m1 => 1
def Fmt.width (F : Fmt) : Nat := 1 + F.exp + F.frac
def Fmt.hasInf : Fmt → Bool
  | .fp64 => true | .fp32 => true | .fp16 => true | .bf16 => true | .e4m3 => false | .e5m2 => true | .e2m1 => false
/-- The exponent of the last place of a subnormal. -/
def Fmt.last (F : Fmt) : Int := 1 - (F.bias : Int) - F.frac
/-- The sign bit. -/
def Fmt.sign (F : Fmt) (neg : Bool) : Nat := if neg then 2 ^ (F.exp + F.frac) else 0
/-- Exponent field all ones, fraction zero. -/
def Fmt.top (F : Fmt) : Nat := (2 ^ F.exp - 1) * 2 ^ F.frac
/-- The magnitude bits of the largest finite value (R108). -/
def Fmt.maxCode : Fmt → Nat
  | .e4m3 => 0x7E
  | .e2m1 => 0x7
  | F => F.top - 1
/-- The canonical NaN (R108); 0x0 for E2M1, which has none (R113). -/
def Fmt.nan : Fmt → Nat
  | .e4m3 => 0x7F
  | .e2m1 => 0
  | F => F.top + 2 ^ (F.frac - 1)

/-- The format of a type code (R87), FP32 where the code names none. -/
def fmtOf (ty : Nat) : Fmt :=
  match ty with
  | 4 => .fp16 | 5 => .bf16 | 6 => .fp32 | 7 => .fp64 | 8 => .e4m3 | 9 => .e5m2 | 10 => .e2m1 | _ => .fp32
/-- The format of a scalar code or a ty3 code: .hf, .bf, .sf, .df (R87, R167). -/
def fmtOf2 (t : Nat) : Fmt := fmtOf (4 + t)

/-! ## Values -/

/-- An exact value: a NaN (signalling or not), an infinity, or (−1)^neg × m × 2^e. A value that no dyadic holds stands as
one with a bit set below every place that can matter. -/
inductive Val where
  | nan (signalling : Bool)
  | inf (neg : Bool)
  | fin (neg : Bool) (m : Nat) (e : Int)
  deriving DecidableEq, Repr

def Val.isNan : Val → Bool
  | .nan _ => true | _ => false
def Val.isSnan : Val → Bool
  | .nan s => s | _ => false
def Val.isZero : Val → Bool
  | .fin _ m _ => m == 0 | _ => false
def Val.neg : Val → Val
  | .nan s => .nan s | .inf n => .inf !n | .fin n m e => .fin (!n) m e

/-- Decode(F, e) (R108, R109). -/
def Fmt.decode (F : Fmt) (c : Nat) : Val :=
  let neg := c / 2 ^ (F.exp + F.frac) % 2 == 1
  let mag := c % 2 ^ (F.exp + F.frac)
  let E := mag / 2 ^ F.frac
  let f := mag % 2 ^ F.frac
  if F.maxCode < mag then
    if F.hasInf && mag == F.top then .inf neg
    else .nan (F.width ≥ 16 && f < 2 ^ (F.frac - 1))
  else if E = 0 then .fin neg f F.last
  else .fin neg (2 ^ F.frac + f) (F.last + E - 1)

/-! ## Rounding -/

/-- m / 2^k rounded to an integer (R112). -/
def roundShift (mode : Rm) (neg : Bool) (m k : Nat) : Nat :=
  let q := m / 2 ^ k
  let r := m % 2 ^ k
  let up := match mode with
    | .rne => 2 ^ k < 2 * r || (2 * r == 2 ^ k && q % 2 == 1)
    | .rtz => false
    | .rup => !neg && r != 0
    | .rdn => neg && r != 0
    | .rmm => 2 ^ k ≤ 2 * r && k != 0
  if up then q + 1 else q

/-- m × 2^e rounded to a multiple of 2^g, over 2^g. -/
def roundTo (mode : Rm) (neg : Bool) (m : Nat) (e g : Int) : Nat :=
  if g ≤ e then m * 2 ^ (e - g).toNat else roundShift mode neg m (g - e).toNat

/-- Whether m × 2^e is a multiple of 2^g. -/
def onGrid (m : Nat) (e g : Int) : Bool := decide (g ≤ e) || m % 2 ^ (g - e).toNat == 0

/-- ToInf(mode, sign) (R113). -/
def toInf (mode : Rm) (neg : Bool) : Bool :=
  match mode with
  | .rne => true | .rmm => true | .rtz => false | .rup => !neg | .rdn => neg

/-- Round(F, v, mode, sat) (R113). -/
def Fmt.round (F : Fmt) (v : Val) (mode : Rm) (sat : Bool) : Nat × FpFlags :=
  match v with
  | .nan _ => (F.nan, noFlags)
  | .inf neg =>
    if F.hasInf ∧ ¬sat then (F.sign neg + F.top, noFlags)
    else if F = .e4m3 ∧ ¬sat then (F.nan, { noFlags with nv := true })
    else (F.sign neg + F.maxCode, { noFlags with nv := true })
  | .fin neg m e =>
    if m = 0 then (F.sign neg, noFlags)
    else
      let gt : Int := e + Nat.log2 m - F.frac
      let t := roundTo mode neg m e gt
      let g : Int := if gt < F.last then F.last else gt
      let q := roundTo mode neg m e g
      let nx := !onGrid m e g
      let tiny := decide (gt < F.last) && decide (t < 2 ^ (F.last + F.frac - gt).toNat)
      let flags : FpFlags := { noFlags with nx := nx, uf := nx && tiny }
      let code := (g - F.last).toNat * 2 ^ F.frac + q
      if F.maxCode < code then
        let flags := { flags with of := true, nx := true }
        if sat ∨ (¬F.hasInf ∧ F ≠ .e4m3) ∨ ¬toInf mode neg then (F.sign neg + F.maxCode, flags)
        else if F = .e4m3 then (F.nan, flags)
        else (F.sign neg + F.top, flags)
      else (F.sign neg + code, flags)

/-! ## Exact operations (R115) -/

/-- An exact result with nv and dz. -/
abbrev Exact := Val × FpFlags
def nvIf (b : Bool) : FpFlags := { noFlags with nv := b }

/-- An invalid operation. -/
def invalid : Exact := (.nan false, nvIf true)

/-- m × 2^e as a multiple of 2^g, for g ≤ e. -/
def scaleTo (neg : Bool) (m : Nat) (e g : Int) : Int :=
  let n : Int := m * 2 ^ (e - g).toNat
  if neg then -n else n

/-- The exact sum of two finite values; the sign of a zero sum follows R115. -/
def sumFin (mode : Rm) (s : Bool) (m : Nat) (e : Int) (t : Bool) (n : Nat) (f : Int) : Val :=
  let g := if e < f then e else f
  let i := scaleTo s m e g + scaleTo t n f g
  if i = 0 then (if m = 0 ∧ n = 0 ∧ s = t then .fin s 0 0 else .fin (mode == .rdn) 0 0)
  else .fin (decide (i < 0)) i.natAbs g

/-- a + b. -/
def fpAdd (mode : Rm) (a b : Val) : Exact :=
  let nv := nvIf (a.isSnan || b.isSnan)
  match a, b with
  | .nan _, _ => (.nan false, nv)
  | _, .nan _ => (.nan false, nv)
  | .inf s, .inf t => if s = t then (.inf s, noFlags) else invalid
  | .inf s, .fin _ _ _ => (.inf s, noFlags)
  | .fin _ _ _, .inf t => (.inf t, noFlags)
  | .fin s m e, .fin t n f => (sumFin mode s m e t n f, noFlags)

/-- a × b. -/
def fpMul (a b : Val) : Exact :=
  let nv := nvIf (a.isSnan || b.isSnan)
  match a, b with
  | .nan _, _ => (.nan false, nv)
  | _, .nan _ => (.nan false, nv)
  | .inf s, .inf t => (.inf (s != t), noFlags)
  | .inf s, .fin t n _ => if n = 0 then invalid else (.inf (s != t), noFlags)
  | .fin s m _, .inf t => if m = 0 then invalid else (.inf (s != t), noFlags)
  | .fin s m e, .fin t n f => (.fin (s != t) (m * n) (e + f), noFlags)

/-- a × b + c, exact. -/
def fpFma (mode : Rm) (a b c : Val) : Exact :=
  let p := fpMul a b
  let r := fpAdd mode p.1 c
  (r.1, p.2.union r.2)

/-- m / n to 69 or more bits, with a bit below that says whether anything is left. -/
def quotient (neg : Bool) (m n : Nat) (e : Int) : Val :=
  let sh := Nat.log2 n + 70
  let q := m * 2 ^ sh / n
  let rest := m * 2 ^ sh % n
  .fin neg (2 * q + (if rest = 0 then 0 else 1)) (e - sh - 1)

/-- a / b. -/
def fpDiv (a b : Val) : Exact :=
  let nv := nvIf (a.isSnan || b.isSnan)
  match a, b with
  | .nan _, _ => (.nan false, nv)
  | _, .nan _ => (.nan false, nv)
  | .inf _, .inf _ => invalid
  | .inf s, .fin t _ _ => (.inf (s != t), noFlags)
  | .fin s _ _, .inf t => (.fin (s != t) 0 0, noFlags)
  | .fin s m e, .fin t n f =>
    if n = 0 then (if m = 0 then invalid else (.inf (s != t), { noFlags with dz := true }))
    else if m = 0 then (.fin (s != t) 0 0, noFlags)
    else (quotient (s != t) m n (e - f), noFlags)

/-- The largest r below 2^k with r² ≤ n. -/
def isqrtFrom (n : Nat) : Nat → Nat → Nat
  | 0, r => r
  | k + 1, r => isqrtFrom n k (if (r + 2 ^ k) * (r + 2 ^ k) ≤ n then r + 2 ^ k else r)
def isqrt (n : Nat) : Nat := isqrtFrom n (Nat.log2 n / 2 + 1) 0

/-- √a. -/
def fpSqrt (a : Val) : Exact :=
  match a with
  | .nan s => (.nan false, nvIf s)
  | .inf neg => if neg then invalid else (.inf false, noFlags)
  | .fin neg m e =>
    if m = 0 then (.fin neg 0 0, noFlags)
    else if neg then invalid
    else
      let sh : Nat := if e % 2 = 0 then 140 else 141
      let n := m * 2 ^ sh
      let r := isqrt n
      (.fin false (2 * r + (if r * r = n then 0 else 1)) ((e - sh) / 2 - 1), noFlags)

/-- Deliver an exact result: Round with sat = 0, and the flags together (R115). -/
def Fmt.deliver (F : Fmt) (mode : Rm) (x : Exact) : Nat × FpFlags :=
  let r := F.round x.1 mode false
  (r.1, r.2.union x.2)

/-! ## Order (R116, R168) -/

/-- The integers two finite values are in units of the smaller exponent. -/
def alignFin (s : Bool) (m : Nat) (e : Int) (t : Bool) (n : Nat) (f : Int) : Int × Int :=
  let g := if e < f then e else f
  (scaleTo s m e g, scaleTo t n f g)

/-- a < b; false with a NaN; −0 equals +0. -/
def Val.lt (a b : Val) : Bool :=
  match a, b with
  | .nan _, _ => false
  | _, .nan _ => false
  | .inf s, .inf t => s && !t
  | .inf s, .fin _ _ _ => s
  | .fin _ _ _, .inf t => !t
  | .fin s m e, .fin t n f => let p := alignFin s m e t n f; decide (p.1 < p.2)

/-- A value with the sign set. -/
def Val.isNeg : Val → Bool
  | .nan _ => false | .inf n => n | .fin n _ _ => n

/-- a is the lesser under minimumNumber's order: −0 before +0 (R116). -/
def Val.before (a b : Val) : Bool := a.lt b || (a.isZero && b.isZero && a.isNeg && !b.isNeg)

/-- minimumNumber and maximumNumber on encodings (R116): one of the operands, unrounded, or the canonical NaN. -/
def Fmt.pick (F : Fmt) (max : Bool) (a b : Nat) : Nat × FpFlags :=
  let u := F.decode a
  let v := F.decode b
  let nv := nvIf (u.isSnan || v.isSnan)
  if u.isNan then (if v.isNan then F.nan else b, nv)
  else if v.isNan then (a, nv)
  else if max then (if u.before v then b else a, nv)
  else (if v.before u then b else a, nv)

/-- FCond(cc, a, b) with nv (R168). -/
def fcond (cc : Nat) (a b : Val) : Bool × FpFlags :=
  let any := a.isNan || b.isNan
  let quiet := nvIf (a.isSnan || b.isSnan)
  let loud := nvIf any
  match cc with
  | 0 => (!any && !a.lt b && !b.lt a, quiet)
  | 1 => (any || a.lt b || b.lt a, quiet)
  | 2 => (!any && a.lt b, loud)
  | 3 => (!any && !a.lt b, loud)
  | 4 => (!any && !b.lt a, loud)
  | 5 => (!any && b.lt a, loud)
  | 12 => (any, quiet)
  | _ => (!any, quiet)

/-- FCLASS's bit (R170). -/
def Fmt.classBit (F : Fmt) (c : Nat) : Nat :=
  match F.decode c with
  | .nan s => if s then 8 else 9
  | .inf n => if n then 0 else 7
  | .fin n m _ =>
    if m = 0 then (if n then 3 else 4)
    else if m < 2 ^ F.frac then (if n then 2 else 5)
    else if n then 1 else 6

/-! ## Conversions -/

/-- Floating point to floating point (R117). -/
def fpToFp (S T : Fmt) (mode : Rm) (sat : Bool) (c : Nat) : Nat × FpFlags :=
  let v := S.decode c
  let r := T.round v mode sat
  (r.1, r.2.union (nvIf (v.isSnan || (T == .e2m1 && v.isNan))))

/-- The bounds of an integer of width w. -/
def intMin (w : Nat) (uns : Bool) : Int := if uns then 0 else -(2 ^ (w - 1))
def intMax (w : Nat) (uns : Bool) : Int := if uns then 2 ^ w - 1 else 2 ^ (w - 1) - 1

/-- Floating point to an integer of width w (R118), as the w bits of the result. -/
def fpToInt (S : Fmt) (w : Nat) (uns : Bool) (mode : Rm) (c : Nat) : Nat × FpFlags :=
  let put (i : Int) : Nat := (BitVec.ofInt w i).toNat
  match S.decode c with
  | .nan _ => (0, nvIf true)
  | .inf n => (put (if n then intMin w uns else intMax w uns), nvIf true)
  | .fin neg m e =>
    let q : Int := roundTo mode neg m e 0
    let i := if neg then -q else q
    if i < intMin w uns then (put (intMin w uns), nvIf true)
    else if intMax w uns < i then (put (intMax w uns), nvIf true)
    else (put i, { noFlags with nx := !onGrid m e 0 })

/-- An integer's exact value; an integer zero is +0. -/
def intVal (i : Int) : Val := .fin (decide (i < 0)) i.natAbs 0
/-- The integer that w bits stand for. -/
def readInt (w : Nat) (uns : Bool) (c : Nat) : Int := if uns then (c % 2 ^ w : Nat) else toSigned w c

/-- An integer to floating point (R118). -/
def intToFp (w : Nat) (uns : Bool) (T : Fmt) (mode : Rm) (sat : Bool) (c : Nat) : Nat × FpFlags :=
  T.round (intVal (readInt w uns c)) mode sat

/-- Convert between two type codes (R117, R118); one side at least is floating point. -/
def convert (S T : Nat) (uns sat : Bool) (mode : Rm) (c : Nat) : Nat × FpFlags :=
  if S < 4 then intToFp (widthOf S) uns (fmtOf T) mode sat c
  else if T < 4 then fpToInt (fmtOf S) (widthOf T) uns mode c
  else fpToFp (fmtOf S) (fmtOf T) mode sat c

/-! ## MX blocks (R119, R120) -/

/-- An element's value under its block's scale (R119). -/
def mxVal (F : Fmt) (scale c : Nat) : Val :=
  if scale % 256 = 255 then .nan false
  else match F.decode c with
    | .nan _ => .nan false
    | .inf n => .inf n
    | .fin n m e => .fin n m (e + (scale % 256 : Nat) - 127)

/-- Expand one element to a wider format (R119). -/
def mxExpand (F T : Fmt) (mode : Rm) (scale c : Nat) : Nat × FpFlags := T.round (mxVal F scale c) mode false

/-- emax(F) (R120). -/
def mxEmax : Fmt → Int
  | .e4m3 => 8 | .e5m2 => 15 | _ => 2

/-- floor(log2 |v|) of a finite non-zero value. -/
def Val.log2 : Val → Option Int
  | .fin _ m e => if m = 0 then none else some (e + Nat.log2 m)
  | _ => none

/-- The greatest of the logarithms present. -/
def maxLog : List Val → Option Int
  | [] => none
  | v :: r =>
    match v.log2, maxLog r with
    | some a, some b => some (if a < b then b else a)
    | some a, none => some a
    | none, o => o

/-- v × 2^k. -/
def Val.scale : Val → Int → Val
  | .fin n m e, k => .fin n m (e + k)
  | v, _ => v

/-- Pack 32 source values into a block: the scale, the elements and the flags (R120). -/
def mxPack (F : Fmt) (mode : Rm) (vs : List Val) : Nat × List Nat × FpFlags :=
  if vs.any fun v => v.isNan || (match v with | .inf _ => true | _ => false) then
    (0xFF, vs.map fun _ => F.nan, nvIf true)
  else match maxLog vs with
    | none => (0x7F, vs.map fun v => F.sign v.isNeg, noFlags)
    | some l =>
      let x := clampInt (-127) 127 (l - mxEmax F)
      let rs := vs.map fun v => F.round (v.scale (-x)) mode true
      ((x + 127).toNat, rs.map (·.1), rs.foldl (fun f r => f.union r.2) noFlags)

/-! ## Reductions (R123-R125) -/

/-- A node passed on alone: a NaN becomes the canonical NaN (R123, R125). -/
def Fmt.lone (F : Fmt) (c : Nat) : Nat × FpFlags :=
  let v := F.decode c
  (if v.isNan then F.nan else c, nvIf v.isSnan)

/-- The floating-point sum of two encodings. -/
def Fmt.addCodes (F : Fmt) (mode : Rm) (a b : Nat) : Nat × FpFlags :=
  F.deliver mode (fpAdd mode (F.decode a) (F.decode b))

/-- One level of the tree over its nodes (R123). -/
def treeLevel (F : Fmt) (mode : Rm) : List (Option Nat) → List (Option Nat) × FpFlags
  | a :: b :: r =>
    let t := treeLevel F mode r
    match a, b with
    | none, none => (none :: t.1, t.2)
    | some x, none => let n := F.lone x; (some n.1 :: t.1, n.2.union t.2)
    | none, some y => let n := F.lone y; (some n.1 :: t.1, n.2.union t.2)
    | some x, some y => let n := F.addCodes mode x y; (some n.1 :: t.1, n.2.union t.2)
  | l => (l, noFlags)

/-- The tree's root after its levels (R123). -/
def treeRoot (F : Fmt) (mode : Rm) : Nat → List (Option Nat) → Option Nat × FpFlags
  | 0, l => (l.headD none, noFlags)
  | n + 1, l =>
    let t := treeLevel F mode l
    let r := treeRoot F mode n t.1
    (r.1, t.2.union r.2)

/-- The greatest or least of the active elements on a floating-point type (R124). -/
def fpExtreme (F : Fmt) (max : Bool) : List Nat → Nat × FpFlags
  | [] => (F.sign max + F.top, noFlags)
  | [c] => F.lone c
  | c :: r => let t := fpExtreme F max r; let p := F.pick max c t.1; (p.1, p.2.union t.2)

end Sys2Proof.Machine
end

