-- ==== Sys2Proof/Machine/TileMath.lean ====
section
/-! DEFINITION. Tile arithmetic: rows and elements (R110, R213), TileDotFP (R126, R127), integer sums (R128), drains (R129),
and the largest magnitude (R226). -/

namespace Sys2Proof.Machine

/-! ## Fields of a row -/

/-- n fields of w bits of a number, lowest first. -/
def fields (w : Nat) : Nat → Nat → List Nat
  | 0, _ => []
  | n + 1, v => v % 2 ^ w :: fields w n (v / 2 ^ w)

/-- The number whose fields of w bits these are. -/
def joinFields (w : Nat) : List Nat → Nat
  | [] => 0
  | a :: r => a % 2 ^ w + 2 ^ w * joinFields w r

/-- The 64 rows of a tile, each a number of 2,048 bits (R213). -/
def tileRows (t : Tile) : List Nat := fields 2048 64 t.toNat
/-- The tile made of 64 rows. -/
def tileOf (rows : List Nat) : Tile := .ofNat 131072 (joinFields 2048 rows)

/-! ## fmt (R49) -/

def fmtA (f : BitVec 16) : Nat := f.toNat % 16
def fmtB (f : BitVec 16) : Nat := f.toNat / 16 % 16
def fmtAcc (f : BitVec 16) : Nat := f.toNat / 256 % 4
def fmtScl (f : BitVec 16) : Nat := f.toNat / 1024 % 4
def fmtRnd (f : BitVec 16) : Nat := f.toNat / 4096 % 4
def fmtSat (f : BitVec 16) : Bool := f.getLsbD 14
def fmtTop (f : BitVec 16) : Bool := f.getLsbD 15

/-- Drain rounding (R49, R112). -/
def drainMode (f : BitVec 16) : Rm :=
  match fmtRnd f with
  | 1 => .rtz
  | 2 => .rmm
  | _ => .rne

/-- The floating-point format of an element code (R49). -/
def tileFmt (code : Nat) : Fmt :=
  match code with
  | 0 => .bf16 | 1 => .fp16 | 2 => .e4m3 | 3 => .e5m2 | _ => .e2m1
/-- The element width of a code, in bits. -/
def tileWidth (code : Nat) : Nat :=
  match code with
  | 0 => 16 | 1 => 16 | 4 => 4 | _ => 8

/-- The accepted pairs (R228). -/
def pairOk (f : BitVec 16) : Bool :=
  let a := fmtA f
  let b := fmtB f
  let acc := fmtAcc f
  (acc == 0 && ((a == 0 && b == 0) || (a == 1 && b == 1) || ((a == 2 || a == 3) && (b == 2 || b == 3)) || (a == 4 && b == 4))) ||
  (acc == 1 && (a == 5 || a == 6) && (b == 5 || b == 6))

/-- A multiply raises the format fault (R222). -/
def multiplyBad (f : BitVec 16) (mx : Bool) : Bool :=
  !pairOk f || decide (2 ≤ fmtScl f) || (mx && fmtScl f == 0) || (!mx && fmtScl f == 1) ||
  (mx && !(fmtA f == 2 || fmtA f == 3 || fmtA f == 4)) || fmtTop f
/-- An instruction that reads accumulators raises it (R222). -/
def accBad (f : BitVec 16) : Bool := decide (2 ≤ fmtAcc f) || fmtTop f
/-- A drain that converts raises it (R222). -/
def drainBad (f : BitVec 16) (t : Nat) : Bool :=
  accBad f || fmtRnd f == 3 || ((t == 5 || t == 6) && fmtAcc f == 0)

/-! ## TileDotFP (R126) -/

/-- One product cut to a multiple of 2^g, in units of it, truncated in magnitude. -/
def truncTo (g : Int) : Val → Int
  | .fin n m e =>
    let q : Int := if g ≤ e then (m * 2 ^ (e - g).toNat : Nat) else (m / 2 ^ (g - e).toNat : Nat)
    if n then -q else q
  | _ => 0

/-- The greatest floor(log2 |p|) of the products that are not zero. -/
def topLog : List Val → Option Int
  | [] => none
  | p :: r =>
    match p with
    | .fin _ m e =>
      if m = 0 then topLog r
      else match topLog r with
        | some t => some (max t (e + Nat.log2 m))
        | none => some (e + Nat.log2 m)
    | _ => topLog r

/-- GroupSum of the products of a group. -/
def groupSum (ps : List Val) : Val :=
  if ps.any (·.isNan) ∨ (ps.contains (.inf false) ∧ ps.contains (.inf true)) then .nan false
  else if ps.contains (.inf false) then .inf false
  else if ps.contains (.inf true) then .inf true
  else match topLog ps with
    | none => .fin false 0 0
    | some e =>
      let i : Int := (ps.map (truncTo (e - 40))).sum
      .fin (decide (i < 0)) i.natAbs (e - 40)

/-- The exact products of two runs of elements; 0 × ∞ gives a NaN. -/
def products : List Val → List Val → List Val
  | a :: r, b :: t => (fpMul a b).1 :: products r t
  | _, _ => []

/-- One group joins the accumulator, rounded to FP32 to nearest even. -/
def joinGroup (acc s : Val) : Val :=
  match acc, s with
  | .fin _ _ _, .fin _ _ _ => Fmt.fp32.decode (Fmt.fp32.round (fpAdd .rne acc s).1 .rne false).1
  | _, _ => (fpAdd .rne acc s).1

/-- Cut a list into runs of n; at most k of them. -/
def runs {α : Type} (n : Nat) : Nat → List α → List (List α)
  | 0, _ => []
  | k + 1, l => l.take n :: runs n k (l.drop n)

/-- A group's sum under its two scales (R126). -/
def scaleGroup (sa sb : Nat) (s : Val) : Val :=
  if sa = 255 ∨ sb = 255 then .nan false else s.scale ((sa : Int) - 127 + (sb - 127))

/-- TileDotFP over the groups of two rows; scales, where given, are one for each group. -/
def dotFp (acc : Val) : List (List Val) → List (List Val) → Option (List Nat × List Nat) → Val
  | ga :: ra, gb :: rb, sc =>
    let s := groupSum (products ga gb)
    match sc with
    | none => dotFp (joinGroup acc s) ra rb none
    | some (x, y) => dotFp (joinGroup acc (scaleGroup (x.headD 127) (y.headD 127) s)) ra rb (some (x.tail, y.tail))
  | _, _, _ => acc

/-- The FP32 bits of a result element; every NaN is the canonical one (R127). -/
def tileDot (c : Nat) (a b : List (List Val)) (sc : Option (List Nat × List Nat)) : Nat :=
  (Fmt.fp32.round (dotFp (Fmt.fp32.decode c) a b sc) .rne false).1

/-- The integer sum of R128, modulo 2^32. -/
def intDot (c : Nat) : List Int → List Int → Nat
  | a :: r, b :: t => intDot ((BitVec.ofInt 32 (c + a * b)).toNat) r t
  | _, _ => c % 2 ^ 32

/-- An operand row as groups of 32 decoded elements. -/
def rowGroups (code row : Nat) : List (List Val) :=
  let k := 2048 / tileWidth code
  runs 32 (k / 32) ((fields (tileWidth code) k row).map (tileFmt code).decode)

/-- An operand row of integers. -/
def rowInts (code row : Nat) : List Int := (fields 8 256 row).map (readInt 8 (code == 6))

/-- One row of D: A's row against the 64 rows of B. -/
def dotRow {α : Type} (dot : Nat → α → α → Nat → Nat) (a : α) : List Nat → List α → Nat → List Nat
  | c :: rc, b :: rb, i => dot c a b i :: dotRow dot a rc rb (i + 1)
  | _, _, _ => []

/-- A 64 × 64 step (R229): rows of A, B and C as raw bits, and the scale rows of A and B where .mx is used. -/
def tileStep (f : BitVec 16) (a b c : List Nat) (sc : Option (List (List Nat) × List (List Nat))) : List Nat :=
  let row (l : List Nat) : Nat := joinFields 32 l
  if fmtAcc f = 1 then
    let bs := b.map (rowInts (fmtB f))
    List.zipWith (fun ra rc => row (dotRow (fun c x y _ => intDot c x y) (rowInts (fmtA f) ra) (fields 32 64 rc) bs 0)) a c
  else
    let bs := b.map (rowGroups (fmtB f))
    (List.zip (List.zip a c) (List.range 64)).map fun ((ra, rc), r) =>
      row (dotRow (fun c x y j =>
        tileDot c x y (sc.map fun (sa, sb) => (sa.getD r [], sb.getD j []))) (rowGroups (fmtA f) ra) (fields 32 64 rc) bs 0)

/-! ## Drains (R129) -/

/-- One accumulator converted to an element code. -/
def drain1 (f : BitVec 16) (t : Nat) (e : Nat) : Nat :=
  if t = 5 ∨ t = 6 then
    let i := toSigned 32 e
    if fmtSat f then (BitVec.ofInt 8 (clampInt (intMin 8 (t == 6)) (intMax 8 (t == 6)) i)).toNat else e % 256
  else
    let v := if fmtAcc f = 1 then intVal (toSigned 32 e) else Fmt.fp32.decode e
    ((tileFmt t).round v (drainMode f) (fmtSat f)).1

/-- A row's 64 accumulators converted: a number of 64 × width bits. -/
def drainRow (f : BitVec 16) (t row : Nat) : Nat := joinFields (tileWidth t) ((fields 32 64 row).map (drain1 f t))

/-- The largest magnitude of accumulators (R116, R226). -/
def largest (f : BitVec 16) (es : List Nat) : Nat :=
  if fmtAcc f = 1 then es.foldl (fun m e => max m (toSigned 32 e).natAbs) 0
  else
    let good := es.filter fun e => !(Fmt.fp32.decode e).isNan
    if good.isEmpty ∧ ¬es.isEmpty then 0x7FC00000 else good.foldl (fun m e => max m (e % 2 ^ 31)) 0

/-! ## Register operations (R232) -/

/-- Each accumulator of a tile replaced: row number, column, old value. -/
def mapAcc (g : Nat → Nat → Nat → Nat) (t : Tile) : Tile :=
  tileOf ((List.zip (tileRows t) (List.range 64)).map fun (row, r) =>
    joinFields 32 ((List.zip (fields 32 64 row) (List.range 64)).map fun (e, s) => g r s e))

/-- Two tiles' accumulators combined. -/
def zipAcc (g : Nat → Nat → Nat) (a b : Tile) : Tile :=
  tileOf (List.zipWith (fun x y => joinFields 32 (List.zipWith g (fields 32 64 x) (fields 32 64 y))) (tileRows a) (tileRows b))

/-- FP32 addition and multiplication to nearest even, NaN canonical (R232). -/
def acc32Add (a b : Nat) : Nat := (Fmt.fp32.deliver .rne (fpAdd .rne (Fmt.fp32.decode a) (Fmt.fp32.decode b))).1
def acc32Mul (a b : Nat) : Nat := (Fmt.fp32.deliver .rne (fpMul (Fmt.fp32.decode a) (Fmt.fp32.decode b))).1

/-- TTR in elements of w bytes (R232): within each band of 64 columns, rows and columns change places. -/
def transpose (w : Nat) (t : Tile) : Tile :=
  let src := (tileRows t).map (fields (8 * w) (256 / w))
  tileOf ((List.range 64).map fun r =>
    joinFields (8 * w) ((List.range (4 / w)).flatMap fun q => src.map fun row => row.getD (64 * q + r) 0))

/-- Bytes [hi - 1 : lo] of a row replaced. -/
def putPart (row lo hi v : Nat) : Nat :=
  row % 2 ^ (8 * lo) + 2 ^ (8 * lo) * (v % 2 ^ (8 * (hi - lo))) + 2 ^ (8 * hi) * (row / 2 ^ (8 * hi))

/-- TCVT's destination: part h of each row receives the converted accumulators of the source row. -/
def convertPart (f : BitVec 16) (t h : Nat) (d a : Tile) : Tile :=
  let size := 64 * tileWidth t / 8
  tileOf (List.zipWith (fun rd ra => putPart rd (size * h) (size * (h + 1)) (drainRow f t ra)) (tileRows d) (tileRows a))

end Sys2Proof.Machine
end

