-- ==== Sys2Proof/Machine/Tile.lean ====
section
/-! DEFINITION. Tile instructions: enabling and slots (R13, R48, R217-R220, R395), operands (R215, R216), TLD and TST
(R224-R226), multiplies (R227-R231), register operations (R232), and saving (R233, R304). -/

namespace Sys2Proof.Machine

/-! ## Tile state (R48, R217) -/

/-- The thread becomes tile-enabled with eight slots. -/
def State.enableTiles (s : State) : State :=
  let slots := s.newSlots (skeinOf s.cur) 8
  s.modMe fun x => { x with tile := true, tslots := slots, m := Vector.replicate 8 0 }

/-- An instruction that needs tile state (R48). -/
def State.needTile (s : State) (k : Out) : Out := if s.me.tile then k else .next (s.trapC (exc 1 s.me.instrWord))
/-- The format fault (R222). -/
def State.needFormat (s : State) (bad : Bool) (k : Out) : Out :=
  if bad then .next (s.trapC (exc 0x0D (zext s.me.fmt))) else k

/-! ## The command queue and the engines' work (R283, R284) -/

/-- The queue is full: the context is not ready (R283). -/
def State.tileQueueFull (s : State) : Bool := 8 ≤ s.myCore.tq.length
/-- What needs a free entry of the core's tile command queue waits for one. -/
def State.needQueue (s : State) (k : Out) : Out := if s.tileQueueFull then .next (s.waitTiles [coreOf s.cur]) else k

/-- What takes an entry of the queue and n new slots waits for both (R220). -/
def State.needSlots (s : State) (n : Nat) (k : Out) : Out :=
  s.needQueue (if s.obtains s.cur n then k else .next (s.waitTiles (coresOfSkein (skeinOf s.cur))))

/-- What executes as the thread's oldest unretired tile instruction waits until the older ones have retired (R219). -/
def State.needOldest (s : State) (k : Out) : Out := if s.tileBusy s.cur then .next (s.waitTiles [coreOf s.cur]) else s.needQueue k

/-- Every step of a command. -/
def TileCmd.steps (t : TileCmd) : List TileStep := t.waiting ++ t.running
/-- Change every step of a command. -/
def TileCmd.mapSteps (f : TileStep → TileStep) (t : TileCmd) : TileCmd :=
  { t with waiting := t.waiting.map f, running := t.running.map f }

/-- A number that no step of the queue has. -/
def CoreSt.freshStep (k : CoreSt) : Nat := (k.tq.flatMap fun t => t.steps.map (·.id)).foldl max 0 + 1

/-- The steps that have still to write what a context's tile registers hold (R284). -/
def CoreSt.writers (k : CoreSt) (c : BitVec 3) (regs : List Nat) : List Nat :=
  (k.tq.filter (·.ctx == c)).flatMap fun t =>
    (t.steps.filter fun st => st.writes.any fun r => regs.contains r).map (·.id)

/-- A context's tile registers get new slots: older steps write the old ones (R220). -/
def CoreSt.renameTiles (k : CoreSt) (c : BitVec 3) (regs : List Nat) : CoreSt :=
  { k with tq := k.tq.map fun t =>
      if t.ctx = c then t.mapSteps fun st => if st.writes.any fun r => regs.contains r then { st with writes := none } else st
      else t }

/-- The work of a step: its engine, the tile registers it reads, and the one it writes. -/
structure TileWork where
  engine : Nat
  reads : List Nat
  writes : Option Nat
  deriving DecidableEq, Repr

/-- Steps numbered from n on, each with those it waits for. -/
def CoreSt.numberSteps (k : CoreSt) (c : BitVec 3) (n : Nat) : List TileWork → List TileStep
  | [] => []
  | w :: r => { id := n, engine := w.engine, needs := k.writers c w.reads, writes := w.writes } :: k.numberSteps c (n + 1) r

/-- The sibling pair of a core in its skein: cores 2n and 2n + 1 (R231). -/
def pairOf (core : CoreId) : BitVec 2 := core.extractLsb' 1 2

/-- A command's steps go to the arbiter (R284); a TMMAP's wait there, and its partner is looked for (R231). The slots that the registers it
writes held before stay in use until it retires (R220). -/
def State.engineWork (s : State) (cycles : Nat) (work : List TileWork) (pair : Option PairWait) : State :=
  let c := ctxInCore s.cur
  let k := s.myCore
  let cmd : TileCmd :=
    { ctx := c, fmt := s.me.fmt, cycles := cycles, waiting := k.numberSteps c k.freshStep work, running := []
      old := (work.filterMap (·.writes)).map fun d => s.me.tslots.getD d 0, begun := false, ahead := false, pair := pair }
  let k := k.renameTiles c (work.filterMap (·.writes))
  let s := s.modCore (coreOf s.cur) fun _ => { k with tq := k.tq ++ [cmd] }
  if pair.isSome then s.post (.tmmapPair (skeinOf s.cur) (pairOf (coreOf s.cur)))
  else work.foldl (fun s w => s.postOnce (.tileGrant (skeinOf s.cur) (.ofNat 2 w.engine))) s

/-- Write tile registers from m[d] upward into new slots, with the engines' work; reads n: the tile registers that the n-th
result's step reads. DESIGN CHOICE, log 22. -/
def State.writeTiles (s : State) (d : Nat) (ts : List Tile) (cycles : Nat) (reads : Nat → List Nat) (pair : Option PairWait) : State :=
  let slots := s.newSlots (skeinOf s.cur) ts.length
  let work := (List.zip slots (List.range ts.length)).map fun (e, n) => { engine := e, reads := reads n, writes := some (d + n) : TileWork }
  let s :=
    if cycles = 0 then s.modCore (coreOf s.cur) fun k => k.renameTiles (ctxInCore s.cur) ((List.range ts.length).map (d + ·))
    else s.engineWork cycles work pair
  s.modMe fun x =>
    let x := { x with tslots := putSlots x.tslots d slots }
    (List.zip (List.range ts.length) ts).foldl (fun x (i, t) => x.setM (.ofNat 3 (d + i)) t) x

/-! ## TCFG, TZERO, TREL (R217, R218) -/

/-- TCFG (R217, R219); it takes an entry of the command queue, as every tile instruction does (R283), and waits for the slots of a thread that
it makes tile-enabled, with those that the thread has held back for it (R220): DESIGN CHOICE, log 115. -/
def execTcfg (q : BitVec 3) (f : BitVec 1) (a : Reg) (i : BitVec 16) (s : State) : Out :=
  let v := if f = 1 then slice 0 16 (s.getX a) else i
  s.needOldest (
    if s.me.tile then .next ((s.modMe fun x => { x with fmt := v }).setP q true).endLong
    else if ¬s.tileRoom s.cur then .next (s.setP q false).endLong
    else if s.enables (skeinOf s.cur) then .next ((s.enableTiles.modMe fun x => { x with fmt := v }).setP q true).endLong
    else .next (s.waitTiles (coresOfSkein (skeinOf s.cur))))

/-- TZERO (R218). -/
def execTzero (d : BitVec 3) (s : State) : Out :=
  s.needTile (s.needSlots 1 (.next (s.writeTiles d.toNat [0] 8 (fun _ => []) none).endLong))

/-- TREL (R218, R219): fmt stays; the command queue as for TCFG. -/
def execTrel (s : State) : Out :=
  s.needTile (s.needOldest (
    .next (s.modMe fun x => { x with tile := false, tslots := [], m := Vector.replicate 8 0 }).endLong))

/-! ## Memory operands (R215, R216) -/

/-- The rows and bytes a geometry word gives an operand of h rows. -/
def geomRows (g : Dword) (h : Nat) : Nat :=
  let n := g.toNat / 2 ^ 32 % 256
  if n = 0 ∨ h < n then h else n
def geomLen (g : Dword) : Nat :=
  let n := g.toNat / 2 ^ 40 % 256
  if n = 0 ∨ 8 < n then 8 else n
/-- The address of a row. -/
def rowAddr (base g : Dword) (r : Nat) : Dword := base + .ofNat 64 (r * (g.toNat % 2 ^ 32))

/-- cw.tval2 of a tile operand (R59). -/
def tileInfo (opnd row : Nat) : Dword := .ofNat 64 (2 ^ 62 + row * 2 ^ 8 + opnd)

/-- Translate the pages of an operand's rows in order: each row's address and length (R216). -/
def State.rowPages (s : State) (c : CtxId) (kind : Kind) (opnd : Nat) : Nat → List (Dword × Nat) →
    Except Stop (State × List (List PageAt))
  | _, [] => .ok (s, [])
  | r, (va, len) :: rest => do
    let (s, l) ← s.translate { s.who c with tval2 := tileInfo opnd r } kind va (upFrom va.toNat len)
    let (s, ls) ← s.rowPages c kind opnd (r + 1) rest
    return (s, l :: ls)

/-- The bytes of rows whose pages are translated. -/
def State.rowBytes (s : State) (c : CtxId) : List (List PageAt) → Except Stop (List (List ByteAt))
  | [] => .ok []
  | l :: rest => do
    let here ← s.bytesOfPages ((s.ctx c).mode == 3) l
    return here :: (← s.rowBytes c rest)

/-- Translate the rows of an operand, every page before any memory is reached (R96, R216). -/
def State.mapRows (s : State) (c : CtxId) (kind : Kind) (opnd : Nat) (rows : List (Dword × Nat)) :
    Except Stop (State × List (List ByteAt)) := do
  let (s, l) ← s.rowPages c kind opnd 0 rows
  return (s, ← s.rowBytes c l)

/-- Read translated rows, each as a number; peek: without bringing their lines into an L1, as for a TMMAP's B, whose pairing decides
which L1 that is (R231, R268). -/
def State.readRows (s : State) (c : CtxId) (peek : Bool) : List (List ByteAt) → Except Stop (State × List Nat)
  | [] => .ok (s, [])
  | l :: rest => do
    let (s, d) ← if peek then s.peekMem c l else s.readMem c l
    let (s, ns) ← s.readRows c peek rest
    return (s, ofBytes d :: ns)

/-- The rows of an operand in memory: address and bytes of each row present (R215). -/
def operandRows (base g : Dword) (h : Nat) : List (Dword × Nat) :=
  (List.range (geomRows g h)).map fun r => (rowAddr base g r, 32 * geomLen g)

/-- h rows, those not present zero. -/
def padRows (h : Nat) (rows : List Nat) : List Nat := rows ++ List.replicate (h - rows.length) 0

/-- TLD (R224); it takes an entry of the command queue and, with no engine time, frees it as it retires (R232, R283). -/
def execTld (d : BitVec 3) (b g : Reg) (s : State) : Out :=
  s.needTile (s.needSlots 1 (
    s.after (do
      let (s, l) ← s.mapRows s.cur .tileRead 2 (operandRows (s.getX b) (s.getX g) 64)
      s.readRows s.cur false l) fun r =>
      .next (r.1.writeTiles d.toNat [tileOf (padRows 64 r.2)] 0 (fun _ => []) none).endLong))

/-! ## TST (R225, R226) -/

/-- Bytes of a row that a TST writes: raw, or converted to the target. -/
def tstBytes (g : Dword) (t : Nat) : Nat :=
  if t = 15 then 32 * geomLen g else min (32 * geomLen g) (64 * tileWidth t / 8)

/-- A row as TST writes it. -/
def tstRow (f : BitVec 16) (t row : Nat) : Nat := if t = 15 then row else drainRow f t row

/-- The accumulators whose bytes a TST writes (R226). -/
def tstCounted (g : Dword) (t : Nat) (rows : List Nat) : List Nat :=
  let n := if t = 15 then tstBytes g t / 4 else tstBytes g t * 8 / tileWidth t
  (rows.take (geomRows g 64)).flatMap fun row => (fields 32 64 row).take n

/-- The line stores of all rows, in the order of the rows: a row that covers a line writes it whole (R187). Where rows overlap, the higher
row's bytes stand: DESIGN CHOICE, log 90. -/
def rowStores (rows : List (List ByteAt)) (data : List (List Byte)) : List LineStore :=
  (List.zipWith (lineStores true) rows data).flatten

/-- The line stores as poison meets them: a line that one row writes whole is written whole (R187, R222). -/
def wholeLines (ls : List LineStore) : List LineStore :=
  let line := fun (l : LineStore) => l.cells.head?.map fun c => c.1 / 128
  ls.map fun l => { l with whole := ls.any fun m => m.whole && line m == line l }

/-- The store of a TST, with the amax word where there is one, which is asked for as an AMO asks for its word (R187, R226). The merge is
not ordered against the TST's own data (R226): the model retires it behind them. DESIGN CHOICE, log 69. -/
def State.tstStore (s : State) (src : BitVec 3) (b g : Reg) (t : Nat) (amax : Option Reg) : Out :=
  let f := s.me.fmt
  let geo := s.getX g
  let rows := tileRows (s.me.getM src)
  let bad := (if t = 15 then accBad f else drainBad f t) || (amax.isSome && accBad f)
  s.needTile (s.needFormat bad (s.needQueue (
    match amax with
    | some w => if (s.getX w).toNat % 4 ≠ 0 then .next (s.trapC (exc 4 (s.getX w))) else go s f geo rows
    | none => go s f geo rows)))
where
  go (s : State) (f : BitVec 16) (geo : Dword) (rows : List Nat) : Out :=
    let c := s.cur
    let n := geomRows geo 64
    let data := (rows.take n).map fun row => toBytes (tstBytes geo t) (tstRow f t row)
    s.after (do
      let (s, l) ← s.rowPages c .tileWrite 0 0 ((List.range n).map fun r => (rowAddr (s.getX b) geo r, tstBytes geo t))
      let (s, w) ← s.rowPages c .tileBoth 6 0 (amax.map fun w => (s.getX w, 4)).toList
      let l ← s.rowBytes c l
      let w := (← s.rowBytes c w).flatten
      let ls := rowStores l data
      let s ← s.checkLines c (wholeLines ls)
      return (← s.askWord c (inMemory w), ls, w)) fun r =>
      let s := r.1.retireLines c r.2.1
      match r.2.2 with
      | w :: _ =>
        let m : BitVec 32 := .ofNat 32 (largest f (tstCounted geo t rows))
        if w.isDev then .next s.endLong
        else if w.t = .U then .next (((s.drain c).rmwAt (coreOf c) .U w.loc 4 fun old => max old m.toNat).1).endLong
        else .next (s.modMe fun x => { x with stores := x.stores ++ [.amax w.t w.loc m] }).endLong
      | [] => .next s.endLong

/-- TST (R225). -/
def execTst (a : BitVec 3) (b g : Reg) (t : BitVec 4) (s : State) : Out := s.tstStore a b g t.toNat none

/-- TST.AMAX (R226); the merge is unordered, so its scope changes nothing here. -/
def execTstAmax (a : BitVec 3) (b g : Reg) (t : BitVec 4) (w : Reg) (scope : BitVec 4) (s : State) : Out :=
  let _scope := scope
  s.tstStore a b g t.toNat (some w)

/-! ## Multiplies (R227-R231) -/

/-- Where an operand of a multiply comes from: a tile register, or memory with a base and a geometry (R227). -/
inductive TileSrc where
  | reg (m : BitVec 3)
  | mem (base geom : Dword)
  deriving DecidableEq, Repr

/-- The rows of an operand to be translated. -/
def TileSrc.rows (o : TileSrc) (h : Nat) : List (Dword × Nat) :=
  match o with
  | .reg _ => []
  | .mem b g => operandRows b g h
/-- The operand's rows below which scales are read (R229). -/
def TileSrc.scaleRows (o : TileSrc) (h : Nat) : Nat :=
  match o with
  | .reg _ => 64
  | .mem _ g => geomRows g h
/-- The operand's rows as numbers: a register's, or those read. -/
def TileSrc.value (o : TileSrc) (x : Ctx) (h : Nat) (got : List Nat) : List Nat :=
  match o with
  | .reg m => tileRows (x.getM m)
  | .mem _ _ => padRows h got

/-- The scale rows to be translated: n rows of K/32 bytes (R229). -/
def scaleAddrs (base : Dword) (per n : Nat) : List (Dword × Nat) := (List.range n).map fun q => (base + .ofNat 64 (q * per), per)

/-- Scale rows as lists of bytes; rows not read take 0x7F (R229). -/
def scaleLists (per h : Nat) (got : List Nat) : List (List Nat) :=
  got.map (fields 8 per) ++ List.replicate (h - got.length) (List.replicate per 0x7F)

/-- Rows 64i to 64i + 63. -/
def band {α : Type} (i : Nat) (l : List α) : List α := (l.drop (64 * i)).take 64

/-- The tile registers that an operand reads. -/
def TileSrc.regs : TileSrc → List Nat
  | .reg m => [m.toNat]
  | .mem _ _ => []

/-- What a TMMAP shows the arbiter, its operands translated; two B operands agree in address where the first bytes of their rows do, row
by row (R231): DESIGN CHOICE, log 110. -/
def State.pairWait (s : State) (tag : BitVec 16) (lb lsb : List (List ByteAt)) (geom : Dword) (scale : Dword) : PairWait :=
  { tag := tag, asn := s.me.cw.asn, since := s.cyc
    b := (lb.map (fun l => (l.head?.map (·.loc)).getD 0), geom, fmtB s.me.fmt, scale)
    lines := linesOf (inMemory (lb ++ lsb).flatten) }

/-- A multiply of tr × tc tiles into m[d] upward (R229): probe, read, compute, write; tag: that of a TMMAP, with its B geometry. -/
def State.multiply (s : State) (d c tr tc : Nat) (oa ob : TileSrc) (mx : BitVec 1) (sa sb : Reg)
    (tag : Option (BitVec 16 × Dword)) : Out :=
  let f := s.me.fmt
  let scaled : Bool := mx == 1
  let per := 2048 / tileWidth (fmtA f) / 32
  let ha := 64 * tr
  let hb := 64 * tc
  s.needTile (s.needFormat (multiplyBad f scaled) (s.needSlots (tr * tc) (
    s.after (do
      let cx := s.cur
      let (s, la) ← s.rowPages cx .tileRead 2 0 (oa.rows ha)
      let (s, lb) ← s.rowPages cx .tileRead 3 0 (ob.rows hb)
      let (s, lsa) ← s.rowPages cx .tileRead 4 0 (if scaled then scaleAddrs (s.getX sa) per (oa.scaleRows ha) else [])
      let (s, lsb) ← s.rowPages cx .tileRead 5 0 (if scaled then scaleAddrs (s.getX sb) per (ob.scaleRows hb) else [])
      let la ← s.rowBytes cx la
      let lb ← s.rowBytes cx lb
      let lsa ← s.rowBytes cx lsa
      let lsb ← s.rowBytes cx lsb
      let pair := tag.map fun t => s.pairWait t.1 lb lsb t.2 (s.getX sb)
      let (s, va) ← s.readRows cx false la
      let (s, vb) ← s.readRows cx tag.isSome lb
      let (s, vsa) ← s.readRows cx false lsa
      let (s, vsb) ← s.readRows cx tag.isSome lsb
      return (s, pair, va, vb, vsa, vsb)) fun (s, pair, va, vb, vsa, vsb) =>
      let x := s.me
      let ra := oa.value x ha va
      let rb := ob.value x hb vb
      let ka := scaleLists per ha vsa
      let kb := scaleLists per hb vsb
      let ts := (List.range (tr * tc)).map fun n =>
        let i := n / tc
        let j := n % tc
        tileOf (tileStep f (band i ra) (band j rb) (tileRows (x.getM (.ofNat 3 (c + n))))
          (if scaled then some (band i ka, band j kb) else none))
      .next (s.writeTiles d ts (if fmtA f = 4 then 32 else 64) (fun n => (c + n) :: (oa.regs ++ ob.regs)) pair).endLong)))

/-- An operand of TMMA (R227). -/
def State.tileSrc (s : State) (m : BitVec 1) (a g : Reg) : TileSrc :=
  if m = 1 then .mem (s.getX a) (s.getX g) else .reg (low3 a)

/-- TMMA (R229). -/
def execTmma (d c : BitVec 3) (a ga b gb : Reg) (am bm mx : BitVec 1) (sa sb : Reg) (s : State) : Out :=
  s.multiply d.toNat c.toNat 1 1 (s.tileSrc am a ga) (s.tileSrc bm b gb) mx sa sb none

/-- TMMAG (R229). -/
def execTmmag (d c h : BitVec 3) (a ga b gb : Reg) (mx : BitVec 1) (sa sb : Reg) (s : State) : Out :=
  s.multiply d.toNat c.toNat (shapeOf h.toNat).1 (shapeOf h.toNat).2 (.mem (s.getX a) (s.getX ga)) (.mem (s.getX b) (s.getX gb))
    mx sa sb none

/-- TMMAP (R231): TMMAG.2x4 with d = c = 0; the command waits for a partner with its tag. -/
def execTmmap (t a ga b gb : Reg) (mx : BitVec 1) (sa sb : Reg) (s : State) : Out :=
  s.multiply 0 0 2 4 (.mem (s.getX a) (s.getX ga)) (.mem (s.getX b) (s.getX gb)) mx sa sb
    (some (slice 0 16 (s.getX t), s.getX gb))

/-! ## Register operations (R232) -/

/-- An operation that writes one tile register from registers, those it reads named, on the engine of its new slot. -/
def State.tileOp (s : State) (bad : Bool) (d : BitVec 3) (reads : List (BitVec 3)) (t : Tile) (cycles : Nat) : Out :=
  s.needTile (s.needFormat bad (s.needSlots 1 (
    .next (s.writeTiles d.toNat [t] cycles (fun _ => reads.map (·.toNat)) none).endLong)))

/-- An operation that reads m[a] and writes no tile register; its step has no destination slot (R284), and runs on the engine of the slot it
reads: DESIGN CHOICE, log 81. -/
def State.tileRead (s : State) (bad : Bool) (a : BitVec 3) (cycles : Nat) (f : Ctx → Ctx) : Out :=
  s.needTile (s.needFormat bad (s.needQueue (
    .next ((s.engineWork cycles [{ engine := s.me.tslots.getD a.toNat 0, reads := [a.toNat], writes := none }] none).modMe f).endLong)))

/-- TADD (R232). -/
def execTadd (d a b : BitVec 3) (s : State) : Out :=
  let x := s.me
  let g := if fmtAcc x.fmt = 1 then fun a b => (a + b) % 2 ^ 32 else acc32Add
  s.tileOp (accBad x.fmt) d [a, b] (zipAcc g (x.getM a) (x.getM b)) 32

/-- e_q of TSCL: FP32 element q of v[n], then of v[n + 1] (R232). -/
def Ctx.scaleElem (x : Ctx) (n : Reg) (q : Nat) : Nat := if q < 32 then elemNat 32 (x.getV n) q else elemNat 32 (x.getV (n + 1)) (q - 32)

/-- TSCL raises the format fault (R222). -/
def tsclBad (f : BitVec 16) : Bool := fmtAcc f != 0 || fmtTop f

/-- TSCL.row (R232). -/
def execTsclRow (d a : BitVec 3) (v : Reg) (s : State) : Out :=
  let x := s.me
  s.tileOp (tsclBad x.fmt) d [a] (mapAcc (fun r _ e => acc32Mul e (x.scaleElem v r)) (x.getM a)) 32

/-- TSCL.col (R232). -/
def execTsclCol (d a : BitVec 3) (v : Reg) (s : State) : Out :=
  let x := s.me
  s.tileOp (tsclBad x.fmt) d [a] (mapAcc (fun _ q e => acc32Mul e (x.scaleElem v q)) (x.getM a)) 32

/-- TCVT (R232). -/
def execTcvt (d a h : BitVec 3) (t : BitVec 4) (s : State) : Out :=
  let x := s.me
  s.tileOp (drainBad x.fmt t.toNat) d [d, a] (convertPart x.fmt t.toNat h.toNat (x.getM d) (x.getM a)) 32

/-- TTR (R232). -/
def execTtr (d a : BitVec 3) (t : BitVec 4) (s : State) : Out :=
  s.tileOp false d [a] (transpose (2 ^ t.toNat) (s.me.getM a)) 32

/-- Bytes of half a row: row x<5:0>, half x<6> (R232). -/
def halfAt (v : Dword) : Nat := 2048 * (v.toNat % 64) + 1024 * (v.toNat / 64 % 2)

/-- TROWV (R232). -/
def execTrowv (a : BitVec 3) (x y : Reg) (s : State) : Out :=
  let v : VReg := (s.me.getM a).extractLsb' (halfAt (s.getX y)) 1024
  s.tileRead false a 4 fun c => c.setV x v

/-- TVROW (R232). -/
def execTvrow (d : BitVec 3) (x y : Reg) (s : State) : Out :=
  s.tileOp false d [d] (splice (halfAt (s.getX y)) (s.me.getV x) (s.me.getM d)) 4

/-- TAMAX (R232). -/
def execTamax (a : BitVec 3) (x : Reg) (s : State) : Out :=
  let c := s.me
  let m := largest c.fmt ((tileRows (c.getM a)).flatMap (fields 32 64))
  s.tileRead (accBad c.fmt) a 32 fun c => c.setX x (.ofNat 64 m)

/-! ## TSAVE and TRSTR (R233, R304) -/

def tileImageSize : Nat := 131136
/-- The identifier of a tile image (R304). -/
def tileImageId : Nat := 0x08010001

/-- The bytes TSAVE writes (R304). -/
def Ctx.tileImage (x : Ctx) : List Byte :=
  toBytes 8 tileImageId ++ bytesOf 8 x.fmt ++
  (List.range 8).map (fun n => if x.getM (.ofNat 3 n) = 0 then (0 : Byte) else 1) ++ toBytes 40 0 ++
  (List.range 8).flatMap fun n => bytesOf 16384 (x.getM (.ofNat 3 n))

/-- TSAVE (R219, R233). -/
def execTsave (b : Reg) (s : State) : Out :=
  s.needMode 1 (s.needTile (s.needOldest (
    s.after (do
      let (s, l) ← s.mapRange (s.who s.cur) .store (imageAddr (s.getX b)) tileImageSize
      s.writeMemBytes s.cur false l s.me.tileImage) fun s => .next s.endLong)))

/-- The thread takes a tile image's tiles and fmt. -/
def State.loadTiles (s : State) (d : List Byte) : State :=
  let s := if s.me.tile then s else s.enableTiles
  s.modMe fun x =>
    { x with fmt := .ofNat 16 (imgNat d 8 2), m := Vector.ofFn fun (i : Fin 8) => .ofNat 131072 (imgNat d (64 + 16384 * i.val) 16384) }

/-- TRSTR (R219, R233): the probe, the identifier, the quota and the free slots, and only then the image, whose poison comes last (R222).
Where a page of the image faults, that fault goes before an identifier that is not accepted, of which the spec puts either first (R66, R159,
R222, R233): DESIGN CHOICE, log 106. An identifier that is not accepted leaves nothing of the probe. -/
def execTrstr (q : BitVec 3) (b : Reg) (s : State) : Out :=
  s.needMode 1 (s.needOldest (
    s.after (do
      let (s, l) ← s.mapRange (s.who s.cur) .load (imageAddr (s.getX b)) tileImageSize
      let (s, d) ← s.readMem s.cur (l.take 8)
      return (s, l, d)) fun (t, l, d) =>
      if imgNat d 0 8 ≠ tileImageId then .next (s.trapC (exc 1 s.me.instrWord))
      else if ¬t.me.tile ∧ ¬(t.tileRoom t.cur ∧ t.enables (skeinOf t.cur)) then .next (t.setP q false).endLong
      else s.after (t.readMem t.cur l) fun r => .next ((r.1.loadTiles r.2).setP q true).endLong))

/-! ## The arbiter, the engines and the Gauge (R230, R231, R284-R287) -/

/-- An engine of a skein. -/
def SkeinSt.engine (k : SkeinSt) (e : BitVec 2) : Engine := tableGet k.eng e.toNat Engine.reset
def State.setEngine (s : State) (k : SkeinId) (e : BitVec 2) (v : Engine) : State :=
  s.modSkein k fun x => { x with eng := tableSet x.eng e.toNat v }

/-- W(c): steps a round grants a core (R284). -/
def tileWeight (sktw : BitVec 32) (c : Nat) : Nat := max 1 (sktw.toNat / 2 ^ (4 * c) % 16)

/-- A step may be granted on an engine: what it reads has been written (R284). -/
def TileStep.ready (e : Nat) (st : TileStep) : Bool := st.engine == e && st.needs.isEmpty
/-- A command has an eligible step for an engine. -/
def TileCmd.offers (t : TileCmd) (e : Nat) : Bool := t.pair.isNone && t.waiting.any (TileStep.ready e)

/-- A core of the skein whose head multiply an interrupt waits for, with an eligible step for an engine (R299). -/
def State.aheadCore (s : State) (k : SkeinId) (e : Nat) : Option Nat :=
  (List.range 8).find? fun n => (s.core (coreInSkein k (.ofNat 3 n))).tq.any fun t => t.ahead && t.offers e

/-- The core whose turn it is in the round: from the present one, its grants used, or the next with a step; a new round takes
the weights of SKTW (R284). DEDUCED, log 24. -/
def State.nextCore (s : State) (k : SkeinId) (e : Nat) (used at_ : Nat) (w : BitVec 32) : Nat → Option (Nat × Nat × BitVec 32)
  | 0 => none
  | n + 1 =>
    let core := coreInSkein k (.ofNat 3 at_)
    if ((s.core core).tq.any fun t => t.offers e) ∧ used < tileWeight w (at_ % 8) then some (at_ % 8, used, w)
    else s.nextCore k e 0 ((at_ + 1) % 8) (if at_ % 8 = 7 then (s.skein k).sktw else w) n

/-- The first command of a list that p picks, changed. -/
def modFirst (p : TileCmd → Bool) (f : TileCmd → TileCmd) : List TileCmd → List TileCmd
  | [] => []
  | a :: r => if p a then f a :: r else a :: modFirst p f r

/-- A step of the command for an engine is granted. -/
def TileCmd.grant (e : Nat) (t : TileCmd) : TileCmd :=
  match t.waiting.find? (TileStep.ready e) with
  | some st => { t with waiting := dropFirst (TileStep.ready e) t.waiting, running := t.running ++ [st], begun := true }
  | none => t
/-- The step granted on an engine. -/
def TileCmd.nextStep (e : Nat) (t : TileCmd) : Nat := ((t.waiting.find? (TileStep.ready e)).map (·.id)).getD 0
/-- A step is done, and those that waited for it wait for it no more. -/
def TileCmd.stepDone (id : Nat) (t : TileCmd) : TileCmd :=
  { t with running := t.running.filter (·.id != id) }.mapSteps fun st => { st with needs := st.needs.filter (· != id) }
/-- The command needs no partner any more. -/
def TileCmd.alone (t : TileCmd) : TileCmd := { t with pair := none }

/-- The engine time of a step in the Gauge's units. -/
def gaugeCost (cycles : Nat) : Nat := cycles * 75 / 8

/-- The core an engine serves next, with its grants in the round and the round's weights; the last says that the grant is charged
(R284, R299). -/
def State.granted (s : State) (k : SkeinId) (e : Nat) (g : Engine) : Option (Nat × Nat × BitVec 32 × Bool) :=
  let w := g.weights.getD (s.skein k).sktw
  match s.aheadCore k e with
  | some c => some (c, g.used, w, false)
  | none => (s.nextCore k e g.used g.core w 9).map fun (c, used, w) => (c, used, w, true)

/-- A step of a core's command begins on an engine, with a bubble where the format changes (R285), and counts towards the Gauge. -/
def State.beginStep (s : State) (k : SkeinId) (e : BitVec 2) (c : Nat) (t : TileCmd) (used : Nat) (w : BitVec 32) (charged : Bool) : State :=
  let core := coreInSkein k (.ofNat 3 c)
  let g := (s.skein k).engine e
  let first := fun (t : TileCmd) => t.offers e.toNat && (charged || t.ahead)
  let bubble : Bool := match g.last with | some f => f != t.fmt | none => false
  let s := s.modCore core fun y =>
    let y := { y with tq := modFirst first (TileCmd.grant e.toNat) y.tq }
    (if bubble then y.count 7 1 else y).count 8 1
  let s := s.setEngine k e
    { run := some (.ofNat 3 c, t.nextStep e.toNat, t.fmt), last := some t.fmt, core := if charged then c else g.core
      used := if charged then used + 1 else used, weights := some w }
  s.modSkein k fun x =>
    { x with gauge := { x.gauge with debt := x.gauge.debt + gaugeCost t.cycles, busy := x.gauge.busy + gaugeCost t.cycles } }

/-- TILE_GRANT: an idle engine takes the next step by weighted round robin (R284), a head multiply that an interrupt waits for ahead of
it (R299). Where no core has a step for it the engine's round is over, and the next begins at core 0 with the weights that SKTW then has:
DEDUCED, log 24. The Gauge puts a grant beyond its ceiling off to a later window, with empty cycles (R286, R295). -/
def execTileGrant (s : State) : Out :=
  match s.now with
  | some (.tileGrant k e) =>
    let s := s.gaugeNow k
    let x := s.skein k
    let g := x.engine e
    if g.run.isSome then .next s
    else match s.granted k e.toNat g with
    | none => .next (s.setEngine k e { g with core := 0, used := 0, weights := none })
    | some (c, used, w, charged) =>
      let core := coreInSkein k (.ofNat 3 c)
      match (s.core core).tq.find? fun t => t.offers e.toNat && (charged || t.ahead) with
      | none => .next s
      | some t =>
        if x.gauge.ceiling ≤ x.gauge.debt then
          .next (((s.modCore core fun y => y.count 9 (x.gauge.since + 64 - s.cyc)).postOnce (.gaugeWindow k)).postOnce (.tileGrant k e))
        else .next ((s.beginStep k e c t used w charged).post (.tileStepComplete k e))
  | _ => .next s

/-- The engines of steps that waited for a step alone. -/
def CoreSt.freed (k : CoreSt) (id : Nat) : List Nat :=
  k.tq.flatMap fun t => (t.waiting.filter fun st => st.needs == [id]).map (·.engine)

/-- TILE_STEP_COMPLETE: the engine is free for its next step, steps that read its result become eligible, and a command whose steps are
done leaves the queue as it retires, with its old slots free (R220, R230, R283, R284). The step's result was written with the instruction (R221, R229). -/
def execTileStepComplete (s : State) : Out :=
  match s.now with
  | some (.tileStepComplete k e) =>
    let g := (s.skein k).engine e
    match g.run with
    | none => .next s
    | some (c, id, _) =>
      let s := s.setEngine k e { g with run := none }
      let core := coreInSkein k c
      let more := (s.core core).freed id
      let s := s.modCore core fun y => { y with tq := retireTiles [] (y.tq.map (TileCmd.stepDone id)) }
      .next (more.foldl (fun s n => s.postOnce (.tileGrant k (.ofNat 2 n))) (s.postOnce (.tileGrant k e)))
  | _ => .next s

/-- The steps of the first of a core's waiting TMMAPs that p picks go to the arbiter. -/
def State.release (s : State) (core : CoreId) (p : TileCmd → Bool) : State :=
  match (s.core core).tq.find? fun t => t.pair.isSome && p t with
  | none => s
  | some t =>
    let s := s.modCore core fun y => { y with tq := modFirst (fun t => t.pair.isSome && p t) TileCmd.alone y.tq }
    t.waiting.foldl (fun s st => s.postOnce (.tileGrant (skeinOfCore core) (.ofNat 2 st.engine))) s

/-- A waiting TMMAP has this tag in this address space. -/
def TileCmd.tagged (tag asn : BitVec 16) (t : TileCmd) : Bool := t.pair.any fun w => w.tag == tag && w.asn == asn

/-- The B operands of a pair are fetched: once, through the L1 of core 2n, where they agree, else by each core (R231, R268). -/
def State.fetchB (s : State) (a b : CoreId) (w v : PairWait) : State :=
  let s := s.touchLines a w.lines
  if v.b = w.b then s else s.touchLines b v.lines

/-- The tagged one of a core's waiting TMMAPs that came first. -/
def CoreSt.partner (k : CoreSt) (tag asn : BitVec 16) : Option PairWait :=
  (k.tq.find? (TileCmd.tagged tag asn)).bind (·.pair)

/-- TMMAP_PAIR: the oldest waiting TMMAPs of cores 2n and 2n + 1 that have one tag and one address space (R231). -/
def execTmmapPair (s : State) : Out :=
  match s.now with
  | some (.tmmapPair k n) =>
    let a := coreInSkein k (n ++ (0 : BitVec 1))
    let b := coreInSkein k (n ++ (1 : BitVec 1))
    match ((s.core a).tq.filterMap (·.pair)).find? fun w => ((s.core b).partner w.tag w.asn).isSome with
    | some w =>
      match (s.core b).partner w.tag w.asn with
      | some v => .next (((s.fetchB a b w v).release a (TileCmd.tagged w.tag w.asn)).release b (TileCmd.tagged w.tag w.asn))
      | none => .next s
    | none => .next s
  | _ => .next s

/-- TMMAP_PAIR_TIMEOUT: a TMMAP of the context unpaired for 256 cycles runs alone, and its core fetches B (R231); the cycles have
passed. -/
def execTmmapPairTimeout (s : State) : Out :=
  match s.now with
  | some (.tmmapPairTimeout c) =>
    match (s.core (coreOf c)).tq.find? fun t => t.pair.isSome && t.ctx == ctxInCore c with
    | some t =>
      match t.pair with
      | some w =>
        .next (((s.toCycle (w.since + 256)).touchLines (coreOf c) w.lines).release (coreOf c) fun t => t.ctx == ctxInCore c)
      | none => .next s
    | none => .next s
  | _ => .next s

/-- GAUGE_WINDOW (R286): the cycles to the end of the skein's window pass. -/
def execGaugeWindow (s : State) : Out :=
  match s.now with
  | some (.gaugeWindow k) =>
    let s := s.gaugeNow k
    .next (s.toCycle ((s.skein k).gauge.since + 64))
  | _ => .next s

end Sys2Proof.Machine
end

