-- ==== Sys2Proof/Machine/Power.lean ====
section
/-! DEFINITION. The Shutter (R379-R382), shedding (R383-R386), and the power-fail drain (R388-R392). -/

namespace Sys2Proof.Machine

/-! ## The Shutter (R380-R382) -/

/-- A pin frame is valid: the sync pattern, the level and its inverse, zeros (R380). -/
def frameValid (f : BitVec 16) : Bool := slice 12 4 f == 0b1101 && slice 4 4 f == ~~~(slice 8 4 f) && slice 0 4 f == 0

/-- SHUTTER_FRAME (R380): the second of two consecutive valid frames with one level delivers it. -/
def execShutterFrame (s : State) : Out :=
  match s.now with
  | some (.shutterFrame f) =>
    if ¬frameValid f then .next { s with power := { s.power with frame := none } }
    else
      let n := slice 8 4 f
      let s' := { s with power := { s.power with frame := some n } }
      if s.power.frame = some n then .next (s'.relevel fun p => { p with pin := n }) else .next s'
  | _ => .next s

/-- SHUTTER_PIN_FAULT (R380): no valid frame for 100 us; the pin keeps its level. -/
def execShutterPinFault (s : State) : Out :=
  match s.now with
  | some .shutterPinFault => .next { s with power := { s.power with pinfault := true, frame := none } }
  | _ => .next s

/-- SHTIN (R380): ignored while VSHT has no agreed version. -/
def execShtin (s : State) : Out :=
  match s.now with
  | some (.shtin v) => if s.agreed 1 = 0 then .next s else .next (s.relevel fun p => { p with inb := slice 0 4 v })
  | _ => .next s

/-- SHUTTER_I3C_WRITE (R380): ignored while VSHT has no agreed version. -/
def execShutterI3cWrite (s : State) : Out :=
  match s.now with
  | some (.shutterI3cWrite v) => if s.agreed 1 = 0 then .next s else .next (s.relevel fun p => { p with i3c := slice 0 4 v })
  | _ => .next s

/-! ## Shedding (R383-R386) -/

/-- The first shedding step that is not at its deepest goes one setting deeper; a clock that falls lets the voltage follow
(R383, R384). DESIGN CHOICE, log 49. -/
def Power.deepen (p : Power) : Power :=
  if ¬p.cpflPaused then { p with cpflPaused := true }
  else if 1 < p.gaugeLimit then { p with gaugeLimit := max 1 (p.gaugeLimit - 2) }
  else if ¬p.twoPipes then { p with twoPipes := true }
  else if 600 < p.clock then { p with clock := p.clock - 100, settled := false }
  else if p.hbmCap < 2 then { p with hbmCap := p.hbmCap + 1 }
  else p

/-- The last shedding step in use goes one setting back; the clock rises only once the voltage has settled (R383, R384).
DESIGN CHOICE, log 49. -/
def Power.relax (p : Power) : Power :=
  if 0 < p.hbmCap then { p with hbmCap := p.hbmCap - 1 }
  else if p.clock < 2400 then (if p.settled then { p with clock := p.clock + 100 } else p)
  else if p.twoPipes then { p with twoPipes := false }
  else if p.gaugeLimit < 16 then { p with gaugeLimit := p.gaugeLimit + 1 }
  else { p with cpflPaused := false }

/-- A microsecond's measurement: the averages and the energy counters (R383, R387). DESIGN CHOICE, log 50. -/
def Power.measure (p : Power) (watts : Nat) (tn : Vector Nat 16) : Power :=
  let l := (watts :: p.samples).take 1000
  { p with samples := l, met := (l.take 100).sum * 4 ≤ powerLimit p.level * 100, energy := p.energy + watts
           tnEnergy := Vector.ofFn fun (i : Fin 16) => p.tnEnergy[i] + tn[i] }

/-- The energy attributed to each tenant that has skeins: a free value, no more than the package drew (R387). -/
def State.attributed (s : State) (watts : Nat) : Vector Nat 16 :=
  Vector.ofFn fun (t : Fin 16) =>
    if (List.range 128).any fun k => s.ras.tenantOf (.ofNat 7 k) == some t.val then min watts (Config.tenantEnergy s.free t.val)
    else 0

/-- POWER_MANAGER_TICK (R383): a microsecond's power is measured; above the limit a step is deepened, and otherwise one may
be relaxed, which is the manager's choice. Every Gauge has come to the present cycle under the upper limit of before, and follows the new
one from there (R286, R385). -/
def execPowerManagerTick (s : State) : Out :=
  match s.now with
  | some (.powerManagerTick w) =>
    let p := s.power.measure w.toNat (s.attributed w.toNat)
    let q := if powerLimit p.level < w.toNat * 4 then p.deepen else if Config.relaxes s.free then p.relax else p
    let s := { s.atCycle s.cyc with power := q, free := s.free + 1 }
    .next (if p.cpflPaused ∧ ¬q.cpflPaused then s.listedCores.foldl State.wakeEngines s else s)
  | _ => .next s

/-- VOLTAGE_SETTLED (R384): frequency steps upward may follow. -/
def execVoltageSettled (s : State) : Out :=
  match s.now with
  | some .voltageSettled => .next { s with power := { s.power with settled := true } }
  | _ => .next s

/-! ## Stopping for a power failure (R389) -/

/-- A context that the drain finds waiting in step 1 has its bundle squashed, as under R299. -/
def State.stopForDrain (s : State) (c : CtxId) : State :=
  if (s.ctx c).st = .running ∧ (s.ctx c).phase = .first ∧ ¬s.finishing c then s.giveUp c else s

/-- PFAIL (R389): every context is stopped; no claim and no copy unit starts. -/
def execPfail (s : State) : Out :=
  match s.now with
  | some .pfail =>
    if s.power.drain ≠ .none then .next s
    else
      let s := { s with power := { s.power with drain := .stopping, pfailTime := s.dev.time } }
      .next (s.listedCtxs.foldl State.stopForDrain s)
  | _ => .next s

/-! ## The drain record (R390, R391) -/

/-- Contexts that hold a thread, in package context order. -/
def State.holders (s : State) : List CtxId := s.listedCtxs.filter fun c => (s.ctx c).st != .idle

/-- A context is marked persistent (R388). -/
def State.persistent (s : State) (c : CtxId) : Bool := (s.skein (skeinOf c)).pfpers.getLsbD (c.toNat % 64)

/-- Contexts whose tiles are to be kept, and the number of tile images a record holds (R389). -/
def State.tileHolders (s : State) : List CtxId := s.holders.filter fun c => s.persistent c && (s.ctx c).tile
def tileImages : Nat := 2047

/-- The images of one context: the thread image as CTXSAVE writes it, then its tile image if it has one (R390).
DEDUCED, log 46. -/
def State.drainImages (s : State) (tiles : List CtxId) (c : CtxId) : List Byte :=
  let x := s.ctx c
  x.imageBytes s.dev.time (s.tid c) (s.imageHead c false) ++ (if tiles.contains c then x.tileImage else [])

/-- One directory entry (R390). -/
def State.dirEntry (s : State) (tiles : List CtxId) (c : CtxId) (off : Nat) : List Byte :=
  let flags := 1 + (if tiles.contains c then 2 else 0) + (if s.power.abandoned.contains c then 4 else 0)
  toBytes 2 c.toNat ++ toBytes 1 flags ++ toBytes 5 0 ++ toBytes 8 off

/-- The directory's entries in use, the images of the first at an offset. -/
def State.directory (s : State) (tiles : List CtxId) : List CtxId → Nat → List Byte
  | [], _ => []
  | c :: r, off => s.dirEntry tiles c off ++ s.directory tiles r (off + (s.drainImages tiles c).length)

/-- Where the images begin, and the directory's size (R390). -/
def imagesAt : Nat := 0x21000
def directorySize : Nat := 0x20000

/-- The sequence number of a record that overwrites another (R391). -/
def nextRecord (old : List Byte) : Nat := if recordVerifies old then (field old 8 8 + 1) % 2 ^ 64 else 1

/-- Bytes 0-63 of the header (R391). -/
def State.recordHead (s : State) (seq threads tiles : Nat) (trunc : Bool) (len : Nat) : List Byte :=
  toBytes 4 drainMagic ++ toBytes 2 1 ++ toBytes 2 0 ++ toBytes 8 seq ++
  toBytes 2 s.niu.pkgNum.toNat ++ toBytes 6 0 ++ bytesOf 8 s.power.pfailTime ++ toBytes 4 threads ++ toBytes 4 tiles ++
  toBytes 1 (if trunc then 1 else 0) ++ toBytes 7 0 ++ toBytes 8 len ++ toBytes 8 0

/-- The drain record's parts (R390, R391): bytes 0-63 of its header, and what follows the header. DEDUCED, log 46. -/
def State.drainRecord (s : State) (seq : Nat) : List Byte × List Byte :=
  let cs := s.holders
  let tiles := s.tileHolders.take tileImages
  let dir := s.directory tiles cs imagesAt
  let images := cs.flatMap (s.drainImages tiles)
  (s.recordHead seq cs.length tiles.length (decide (tileImages < s.tileHolders.length)) (imagesAt + images.length),
    dir ++ List.replicate (directorySize - dir.length) 0 ++ images)

/-- The header's size. -/
def headerSize : Nat := 4096

/-- An atomic of the thread, or the replay of one that was given a ticket, has been sent and has no answer yet. -/
def State.unanswered (s : State) (c : CtxId) : Bool :=
  (s.ctx c).asked || (s.core (coreOf c)).tk.any fun e =>
    e.2.kind == .read && !e.2.squashed && e.2.ctx == ctxInCore c && e.2.outstanding &&
      (e.2.packet.kind == .amo || e.2.packet.kind == .cas)

/-- An atomic still unanswered is abandoned, unretired, and marked (R389), and so is one whose answer came to a thread that had been
interrupted out of it. No later answer retires it. -/
def State.abandon (s : State) (c : CtxId) : State :=
  if ¬s.unanswered c ∧ (s.finishing c ∨ ¬s.atomicAnswered c) then s
  else
    let s := if (s.ctx c).st = .running ∧ (s.ctx c).phase = .first then s.giveUp c else s
    { s with power := { s.power with abandoned := s.power.abandoned ++ [c] } }

def State.setFlashRecord (s : State) (d : List Byte) (p : Drain) : State :=
  { s with boot := { s.boot with flash := { s.boot.flash with drain := d } }, power := { s.power with drain := p } }

/-- HBM loses its contents, and all of the record but its header goes to flash (R389). -/
def State.writeRecord (s : State) : State :=
  let seq := nextRecord s.boot.flash.drain
  { s with mem := s.mem.filter fun c => 2 ^ 56 ≤ c.1 }.setFlashRecord (List.replicate headerSize 0 ++ (s.drainRecord seq).2) (.writing seq)

/-- The header is written last, and the part halts (R389, R391). -/
def State.halt (s : State) (seq : Nat) : State :=
  let (head, body) := s.drainRecord seq
  s.setFlashRecord (head ++ sha384 (head ++ body) ++ List.replicate 3984 0 ++ body) .halted

/-- PFAIL_STOP_TIMEOUT (R389): 20 us have passed. Bundles that have completed retire first; then the record is written, its header
last. -/
def execPfailStopTimeout (s : State) : Out :=
  match s.now with
  | some .pfailStopTimeout =>
    match s.power.drain with
    | .none => .next s
    | .halted => .next s
    | .writing seq => .next (s.halt seq)
    | _ =>
      let s := s.listedCtxs.foldl State.abandon s
      if s.listedCtxs.any s.finishing then .next { s with power := { s.power with drain := .timedOut } } else .next s.writeRecord
  | _ => .next s

/-- PFSTAT_CLEAR (R392): the flash record is erased; PFSTAT stays as read. -/
def execPfstatClear (s : State) : Out :=
  match s.now with
  | some .pfstatClear => .next { s with boot := { s.boot with flash := { s.boot.flash with drain := [] } } }
  | _ => .next s

/-- A part that writes its record goes on with that alone, and a halted one answers nothing but a reset (R389). DEDUCED, log 60. -/
def State.deaf (s : State) (e : Event) : Bool :=
  match s.power.drain with
  | .halted => e != .resetRelease
  | .writing _ => e != .resetRelease && e != .pfailStopTimeout
  | _ => false

end Sys2Proof.Machine
end

