-- ==== Sys2Proof/Machine/Registers.lean ====
section
/-! DEFINITION. Writes of the device register space (R318, R319): each field by its access rule. A register whose write has a
row of its own is written by that row. -/

namespace Sys2Proof.Machine

/-- Keep n bits of a value from bit i, in place. -/
def keep (i n : Nat) (v : Dword) : Dword := v &&& .ofNat 64 ((2 ^ n - 1) * 2 ^ i)

/-- Set element i of a vector of doublewords; an element beyond its end is not there. -/
def setDword {n : Nat} (v : Vector Dword n) (i : Nat) (x : Dword) : Vector Dword n := v.setIfInBounds i x

/-- An interrupt target: core, ctx, en (R307, R343, R358, R360). -/
def keepTarget (v : Dword) : Dword := keep 0 14 v

/-! ## Mailboxes (R331, R334) -/

/-- A host may write nothing of mailbox 0 but its doorbell and its consumed count (R331, R372). DEDUCED, log 38. -/
def mayWriteBox (host : Bool) (m : BitVec 6) (off : Nat) : Bool := !host || m != 0 || off == 24

/-- A host-to-device mailbox's registers. -/
def State.writeH2d (s : State) (m : BitVec 6) (off : Nat) (v : Dword) : State :=
  match off with
  | 0 => s.setH2d m { s.h2d m with base := keep 14 42 v }
  | 8 => s.setH2d m { s.h2d m with ack := keep 12 44 v }
  | 16 => s.postHead (.mailboxOpen false m v)
  | 24 => s.postHead (.mailboxDoorbell m v)
  | 32 => if v.getLsbD 41 then s.setH2d m { s.h2d m with ovr := false } else s
  | 40 => s.postHead (.mailboxReset false m v)
  | 48 => s.postHead (.mbsvc m v)
  | _ => s

/-- A device-to-host mailbox's registers; room in a full one lets waiting messages be posted (R335). -/
def State.writeD2h (s : State) (m : BitVec 6) (off : Nat) (v : Dword) : State :=
  match off with
  | 0 => s.setD2h m { s.d2h m with base := keep 14 42 v }
  | 16 => s.postHead (.mailboxOpen true m v)
  | 24 => (s.setD2h m { s.d2h m with head := keep 0 32 v }).flushMessages m s.dev.msgs
  | 40 => s.postHead (.mailboxReset true m v)
  | _ => s

/-! ## The low registers -/

/-- TTWIN (R340): doublewords of either kind. -/
def keepWindow (i : Nat) (v : Dword) : Dword := if i % 2 = 0 then keep 0 1 v ||| keep 12 38 v else v

/-- GSCTL (R313): arm and gang are written, stopped stays, and a release clears. -/
def State.writeGsctl (s : State) (v : Dword) : State :=
  let s := (s.modDev fun d => { d with gsctl := keep 1 1 d.gsctl ||| keep 0 1 v ||| keep 8 8 v }).dueNow
  if v.getLsbD 2 then s.postHead .gangRelease else s

/-- A shootdown slot's doubleword; word 0 of slot 16 starts its request (R325, R326). -/
def State.writeSdq (s : State) (n i : Nat) (v : Dword) : State :=
  let q := s.sdq (.ofNat 5 n)
  let s := s.setSdq (.ofNat 5 n) { q with w := setDword q.w i v }
  if n = 16 ∧ i = 0 then s.postHead (.shootdownRequest 16) else s

/-- The registers below 0x1000. A write of ASTBASE leaves cached address-space entries in use: DESIGN CHOICE, log 95; one of WINBASE or
WINCNT the copied window entries: DESIGN CHOICE, log 30; WINCNT keeps a value above 256: DESIGN CHOICE, log 99. -/
def State.lowWrite (s : State) (off : Nat) (v : Dword) : State :=
  if 0x400 ≤ off ∧ off < 0x480 then
    let i := (off - 0x400) / 8
    s.modDev fun d => { d with ttwin := setDword d.ttwin i (keepWindow i v) }
  else if 0x800 ≤ off ∧ off < 0xA20 then s.writeSdq ((off - 0x800) / 32) (off % 32 / 8) v
  else if 0xC00 ≤ off ∧ off < 0xC40 then
    if v.getLsbD 3 then s.postHead (.portRetrain (.ofNat 3 ((off - 0xC00) / 8))) else s
  else match off with
    | 0x000 => s.postHead (.versionWrite 0 (slice 16 8 v) (slice 24 8 v))
    | 0x008 => s.postHead (.versionWrite 1 (slice 16 8 v) (slice 24 8 v))
    | 0x100 => s.modDev fun d => { d with partId := slice 0 16 v }
    | 0x200 => s.modDev fun d => { d with astBase := keep 0 17 v ||| keep 21 35 v }
    | 0x300 => s.writeGsctl v
    | 0x308 => (s.modDev fun d => { d with gstime := v }).dueNow
    | 0x500 => s.modDev fun d => { d with winBase := keep 5 51 v }
    | 0x508 => s.modDev fun d => { d with winCnt := v.toNat % 512 }
    | 0x600 => s.modDev fun d => { d with svBase := keep 13 43 v }
    | 0x608 => (s.modDev fun d => { d with svHead := slice 0 32 v }).reAdmit
    | 0x618 => s.modDev fun d => { d with svTgt := keepTarget v }
    | 0x620 => s.postHead (.tkdone v)
    | 0x700 => s.modNiu fun u => { u with timectl := keep 0 1 v }
    | 0x708 => if v.getLsbD 1 then s.modNiu fun u => { u with timeLost := false } else s
    | 0x710 => s.postHead (.ptset v)
    | 0xE00 => s.modNiu fun u => { u with llBase := keep 18 38 v }
    | 0xE08 => (s.modNiu fun u => { u with llHead := slice 0 32 v }).flushLost
    | 0xE18 => s.modNiu fun u => { u with llTgt := keepTarget v }
    | 0xF00 => s.modRas fun r => { r with head := v }
    | 0xF10 => s.modRas fun r => { r with tgt := keepTarget v }
    | _ => s

/-! ## The middle registers -/

/-- SRVMASK (R378): firmware alone writes it, and only while it is not locked. -/
def State.writeSrvmask (s : State) (by_ : Accessor) (i : Nat) (v : Dword) : State :=
  if by_ = .firmware ∧ ¬s.boot.srvlock then { s with boot := { s.boot with srvmask := setDword s.boot.srvmask i v } } else s

/-- The registers from 0x1000 to 0x1FFF; of the power registers a host writes only SHTIN (R387), and SRVLOCK only firmware
writes (R378). DEDUCED, log 37. -/
def State.midWrite (s : State) (by_ : Accessor) (off : Nat) (v : Dword) : State :=
  if off < 0x1100 then s.modRas fun r => { r with tnskein := setDword r.tnskein ((off - 0x1000) / 8) v }
  else if 0x1200 ≤ off ∧ off < 0x1280 then s.modRas fun r => { r with dkrange := setDword r.dkrange ((off - 0x1200) / 8) v }
  else if 0x1480 ≤ off ∧ off < 0x1500 then s.writeSrvmask by_ ((off - 0x1480) / 8) v
  else match off with
    | 0x1100 => s.postHead (.tnkill v)
    | 0x1478 => if by_ = .firmware then s.postHead (.srvlock v) else s
    | 0x1800 => s.postHead (.shtin v)
    | 0x1808 =>
      if by_ ≠ .host ∧ v.getLsbD 20 then { s with power := { s.power with pinfault := false } } else s
    | 0x1820 => if by_ ≠ .host ∧ v.getLsbD 4 then s.postHead .pfstatClear else s
    | _ => s

/-! ## Skein blocks (R319) -/

/-- SKTW: a weight of 0 is stored as 1 (R284). -/
def keepWeights (v : BitVec 32) : BitVec 32 :=
  .ofNat 32 (((List.range 8).map fun c => max 1 (v.toNat / 2 ^ (4 * c) % 16) * 2 ^ (4 * c)).sum)

/-- A core's block: NFWD and ICSEND (R307, R308). -/
def State.coreWrite (s : State) (core : CoreId) (off : Nat) (v : Dword) : State :=
  match off with
  | 0x100 => s.modCore core fun k => { k with nfwd := keepTarget v }
  | 0x108 => s.postHead (.icsend core v)
  | _ => s

/-- A skein's block. -/
def State.skeinWrite (s : State) (k : SkeinId) (off : Nat) (v : Dword) : State :=
  if off = 0 then s.modSkein k fun x => { x with sktw := keepWeights (v.setWidth 32) }
  else if 0x100 ≤ off ∧ off < 0x200 then
    if v.getLsbD 5 then s.modSkein k fun x => { x with cqfail := x.cqfail &&& ~~~(.ofNat 32 (2 ^ ((off - 0x100) / 8)) : BitVec 32) }
    else s
  else if off = 0x200 then s.modSkein k fun x => { x with pfpers := v }
  else if 0x2000 ≤ off ∧ off < 0xA000 then
    s.coreWrite (coreInSkein k (.ofNat 3 ((off - 0x2000) / 0x1000))) (off % 0x1000) v
  else s

/-! ## Interrupt files and the staging window -/

/-- A 32-bit value in the other byte order. -/
def swapBytes (v : Nat) : Nat := ofBytes (toBytes 4 v).reverse

/-- A proxy hart's interrupt file: identity 1 starts its slot's request (R325). -/
def State.fileWrite (s : State) (off : Nat) (v : Dword) : State :=
  let id := if off % 4096 = 0 then v.toNat % 2 ^ 32 else if off % 4096 = 4 then swapBytes (v.toNat % 2 ^ 32) else 0
  if id = 1 then s.postHead (.shootdownRequest (.ofNat 5 (off / 4096 % 16))) else s

/-- The staging window takes writes only in stage 2 (R371). -/
def State.stagingWrite (s : State) (off : Nat) (v : Dword) : State :=
  if s.boot.stage = 2 then
    { s with boot := { s.boot with staging := writeCells s.boot.staging (cellsAt off (bytesOf 8 v)) } }
  else s

/-! ## REGISTER_WRITE -/

/-- A write of an aligned doubleword of the space, or of 32 bits of an interrupt file. -/
def State.devWrite (s : State) (by_ : Accessor) (off : Nat) (v : Dword) : State :=
  if inFiles off then s.fileWrite off v
  else if off % 8 ≠ 0 then s
  else if off < 0x1000 then s.lowWrite off v
  else if off < 0x2000 then s.midWrite by_ off v
  else if 0x10000 ≤ off ∧ off < 0x11000 then
    let m : BitVec 6 := .ofNat 6 ((off - 0x10000) / 64)
    if mayWriteBox (by_ == .host) m (off % 64) then s.writeH2d m (off % 64) v else s
  else if 0x11000 ≤ off ∧ off < 0x12000 then
    let m : BitVec 6 := .ofNat 6 ((off - 0x11000) / 64)
    if mayWriteBox (by_ == .host) m (off % 64) then s.writeD2h m (off % 64) v else s
  else if 0x800000 ≤ off ∧ off < 0x1000000 then s.stagingWrite (off - 0x800000) v
  else if 0x1000000 ≤ off ∧ off < 0x1800000 then
    s.skeinWrite (.ofNat 7 ((off - 0x1000000) / 0x10000)) (off % 0x10000) v
  else s

/-- REGISTER_WRITE (R318): a host reaches only the offsets below the skein blocks, and those from Safelight on (R366). -/
def execRegisterWrite (s : State) : Out :=
  match s.now with
  | some (.registerWrite by_ off v) =>
    if by_ = .host ∧ (0x1000000 ≤ off.toNat ∨ ¬s.boot.ready.getLsbD 0) then .next s else .next (s.devWrite by_ off.toNat v)
  | _ => .next s

end Sys2Proof.Machine
end

