-- ==== Sys2Proof/Machine/Scalar.lean ====
section
/-! DEFINITION. The scalar integer, compare and predicate instructions of the A word (R107, R137-R145): each reads its
sources when step 2 begins and writes one register; none traps or sets a flag. -/

namespace Sys2Proof.Machine

/-- x[d] = f(x[a], x[b]). -/
def alu (f : Dword → Dword → Dword) (d a b : Reg) (s : State) : Out :=
  s.doneA fun c => c.setX d (f (c.getX a) (c.getX b))

/-- x[d] = f(x[a]). -/
def alu1 (f : Dword → Dword) (d a : Reg) (s : State) : Out := s.doneA fun c => c.setX d (f (c.getX a))

/-- SignExtend of the low 32 bits (R137). -/
def word32 (v : Dword) : Dword := sext (v.extractLsb' 0 32)

/-- DIV under R107: toward zero; by zero all ones; the most negative by −1 itself. -/
def divS (a b : Dword) : Dword := if b = 0 then BitVec.allOnes 64 else a.sdiv b
def divU (a b : Dword) : Dword := if b = 0 then BitVec.allOnes 64 else a / b
def remS (a b : Dword) : Dword := if b = 0 then a else a.srem b
def remU (a b : Dword) : Dword := if b = 0 then a else a % b

/-- Bits [127:64] of a signed and of an unsigned product (R137). -/
def mulHigh (a b : Dword) : Dword := ((a.signExtend 128 * b.signExtend 128).extractLsb' 64 64)
def mulHighU (a b : Dword) : Dword := ((a.setWidth 128 * b.setWidth 128).extractLsb' 64 64)

/-- Leading zeros of a doubleword (R142). -/
def clz64 (a : Dword) : Nat := if a = 0 then 64 else 63 - Nat.log2 a.toNat
/-- Bits of a, lowest first. -/
def bitList (w : Nat) (a : Nat) : List Bool := (List.range w).map fun i => a.testBit i
/-- Trailing zeros. -/
def ctz64 (a : Dword) : Nat := ((bitList 64 a.toNat).takeWhile (!·)).length
/-- Set bits among the low w. -/
def popCount (w : Nat) (a : Nat) : Nat := ((bitList w a).filter (·)).length
/-- The w bits of a in reverse order. -/
def revBits (w : Nat) (a : Nat) : Nat := (bitList w a).foldl (fun n b => 2 * n + (if b then 1 else 0)) 0
/-- The eight bytes in reverse order. -/
def byteSwap (a : Dword) : Dword := .ofNat 64 (ofBytes (bytesOf 8 a).reverse)

/-- ADD (R137). -/
def execAdd (d a b : Reg) (s : State) : Out := alu (fun a b => a + b) d a b s

/-- SUB (R137). -/
def execSub (d a b : Reg) (s : State) : Out := alu (fun a b => a - b) d a b s

/-- AND (R137). -/
def execAnd (d a b : Reg) (s : State) : Out := alu (fun a b => a &&& b) d a b s

/-- OR (R137). -/
def execOr (d a b : Reg) (s : State) : Out := alu (fun a b => a ||| b) d a b s

/-- XOR (R137). -/
def execXor (d a b : Reg) (s : State) : Out := alu (fun a b => a ^^^ b) d a b s

/-- ANDN (R137). -/
def execAndn (d a b : Reg) (s : State) : Out := alu (fun a b => a &&& ~~~b) d a b s

/-- SHL (R137). -/
def execShl (d a b : Reg) (s : State) : Out := alu (fun a b => a <<< amount6 b) d a b s

/-- SHR (R137). -/
def execShr (d a b : Reg) (s : State) : Out := alu (fun a b => a >>> amount6 b) d a b s

/-- SAR (R137). -/
def execSar (d a b : Reg) (s : State) : Out := alu (fun a b => a.sshiftRight (amount6 b)) d a b s

/-- ROTL (R137). -/
def execRotl (d a b : Reg) (s : State) : Out := alu (fun a b => a.rotateLeft (amount6 b)) d a b s

/-- MIN (R137). -/
def execMin (d a b : Reg) (s : State) : Out := alu (fun a b => if a.slt b then a else b) d a b s

/-- MAX (R137). -/
def execMax (d a b : Reg) (s : State) : Out := alu (fun a b => if a.slt b then b else a) d a b s

/-- MINU (R137). -/
def execMinu (d a b : Reg) (s : State) : Out := alu (fun a b => if a.ult b then a else b) d a b s

/-- MAXU (R137). -/
def execMaxu (d a b : Reg) (s : State) : Out := alu (fun a b => if a.ult b then b else a) d a b s

/-- MUL (R137). -/
def execMul (d a b : Reg) (s : State) : Out := alu (fun a b => a * b) d a b s

/-- MULH (R137). -/
def execMulh (d a b : Reg) (s : State) : Out := alu (fun a b => mulHigh a b) d a b s

/-- MULHU (R137). -/
def execMulhu (d a b : Reg) (s : State) : Out := alu (fun a b => mulHighU a b) d a b s

/-- DIV (R107). -/
def execDiv (d a b : Reg) (s : State) : Out := alu (fun a b => divS a b) d a b s

/-- DIVU (R107). -/
def execDivu (d a b : Reg) (s : State) : Out := alu (fun a b => divU a b) d a b s

/-- REM (R107). -/
def execRem (d a b : Reg) (s : State) : Out := alu (fun a b => remS a b) d a b s

/-- REMU (R107). -/
def execRemu (d a b : Reg) (s : State) : Out := alu (fun a b => remU a b) d a b s

/-- ADDW (R137). -/
def execAddw (d a b : Reg) (s : State) : Out := alu (fun a b => word32 (a + b)) d a b s

/-- SUBW (R137). -/
def execSubw (d a b : Reg) (s : State) : Out := alu (fun a b => word32 (a - b)) d a b s

/-- MULW (R137). -/
def execMulw (d a b : Reg) (s : State) : Out := alu (fun a b => word32 (a * b)) d a b s

/-- SHLW (R137). -/
def execShlw (d a b : Reg) (s : State) : Out := alu (fun a b => word32 (a <<< amount5 b)) d a b s

/-- SHRW (R137). -/
def execShrw (d a b : Reg) (s : State) : Out := alu (fun a b => sext (slice 0 32 a >>> amount5 b)) d a b s

/-- SARW (R137). -/
def execSarw (d a b : Reg) (s : State) : Out := alu (fun a b => sext ((slice 0 32 a).sshiftRight (amount5 b))) d a b s

/-- ADDI (R138). -/
def execAddi (d a : Reg) (i : BitVec 16) (s : State) : Out := alu1 (fun a => a + sext i) d a s

/-- ANDI (R138). -/
def execAndi (d a : Reg) (i : BitVec 16) (s : State) : Out := alu1 (fun a => a &&& sext i) d a s

/-- ORI (R138). -/
def execOri (d a : Reg) (i : BitVec 16) (s : State) : Out := alu1 (fun a => a ||| sext i) d a s

/-- XORI (R138). -/
def execXori (d a : Reg) (i : BitVec 16) (s : State) : Out := alu1 (fun a => a ^^^ sext i) d a s

/-- SHLI (R139). -/
def execShli (d a : Reg) (n : BitVec 6) (s : State) : Out := alu1 (fun a => a <<< n.toNat) d a s

/-- SHRI (R139). -/
def execShri (d a : Reg) (n : BitVec 6) (s : State) : Out := alu1 (fun a => a >>> n.toNat) d a s

/-- SARI (R139). -/
def execSari (d a : Reg) (n : BitVec 6) (s : State) : Out := alu1 (fun a => a.sshiftRight n.toNat) d a s

/-- ROTLI (R139). -/
def execRotli (d a : Reg) (n : BitVec 6) (s : State) : Out := alu1 (fun a => a.rotateLeft n.toNat) d a s

/-- MOVI (R140). -/
def execMovi (d : Reg) (h : BitVec 2) (i : BitVec 16) (s : State) : Out :=
  s.doneA fun c => c.setX d (zext i <<< (16 * h.toNat))

/-- LIH (R140). -/
def execLih (d : Reg) (h : BitVec 2) (i : BitVec 16) (s : State) : Out :=
  s.doneA fun c => c.setX d (splice (16 * h.toNat) i (c.getX d))

/-- CLZ (R142). -/
def execClz (d a : Reg) (s : State) : Out := alu1 (fun a => .ofNat 64 (clz64 a)) d a s

/-- CTZ (R142). -/
def execCtz (d a : Reg) (s : State) : Out := alu1 (fun a => .ofNat 64 (ctz64 a)) d a s

/-- POPC (R142). -/
def execPopc (d a : Reg) (s : State) : Out := alu1 (fun a => .ofNat 64 (popCount 64 a.toNat)) d a s

/-- BSWAP (R142). -/
def execBswap (d a : Reg) (s : State) : Out := alu1 (fun a => byteSwap a) d a s

/-- BREV (R142). -/
def execBrev (d a : Reg) (s : State) : Out := alu1 (fun a => .ofNat 64 (revBits 64 a.toNat)) d a s

/-- BFX (R142). -/
def execBfx (d a l : Reg) (h : BitVec 1) (p : BitVec 6) (s : State) : Out :=
  alu1 (fun a => sext (slice p.toNat (fieldLen l h) a)) d a s

/-- BFXU (R142). -/
def execBfxu (d a l : Reg) (h : BitVec 1) (p : BitVec 6) (s : State) : Out :=
  alu1 (fun a => zext (slice p.toNat (fieldLen l h) a)) d a s

/-- BFI (R142). -/
def execBfi (d a l : Reg) (h : BitVec 1) (p : BitVec 6) (s : State) : Out :=
  s.doneA fun c => c.setX d (splice p.toNat (slice 0 (fieldLen l h) (c.getX a)) (c.getX d))

/-- LEA (R142). -/
def execLea (d a b : Reg) (sh : BitVec 3) (s : State) : Out := alu (fun a b => a + (b <<< sh.toNat)) d a b s

/-- SEL (R143). -/
def execSel (d a b : Reg) (n : BitVec 1) (q : BitVec 3) (s : State) : Out :=
  s.doneA fun c => c.setX d (if c.getP q != (n == 1) then c.getX a else c.getX b)

/-- CMP (R144). -/
def execCmp (p : BitVec 3) (a b : Reg) (cc : BitVec 4) (s : State) : Out :=
  s.doneA fun c => c.setP p (cond cc (c.getX a) (c.getX b))

/-- CMPI (R144). -/
def execCmpi (p : BitVec 3) (a : Reg) (i : BitVec 14) (cc : BitVec 4) (s : State) : Out :=
  s.doneA fun c => c.setP p (cond cc (c.getX a) (sext i))

/-- p[d] = f(p[a], p[b]) (R145). -/
def predOp (f : Bool → Bool → Bool) (d a b : Reg) (s : State) : Out :=
  s.doneA fun c => c.setP (low3 d) (f (c.getP (low3 a)) (c.getP (low3 b)))

/-- PAND (R145). -/
def execPand (d a b : Reg) (s : State) : Out := predOp (fun a b => a && b) d a b s

/-- POR (R145). -/
def execPor (d a b : Reg) (s : State) : Out := predOp (fun a b => a || b) d a b s

/-- PXOR (R145). -/
def execPxor (d a b : Reg) (s : State) : Out := predOp (fun a b => a != b) d a b s

/-- PANDN (R145). -/
def execPandn (d a b : Reg) (s : State) : Out := predOp (fun a b => a && !b) d a b s

/-- PMOV (R145). -/
def execPmov (d a : Reg) (s : State) : Out := s.doneA fun c => c.setP (low3 d) (c.getP (low3 a))

/-- PTOX (R145). -/
def execPtox (d a : Reg) (s : State) : Out := s.doneA fun c => c.setX d (ofBool (c.getP (low3 a)))

/-- LI: a long instruction (R141). -/
def execLi (d : Reg) (i : BitVec 48) (s : State) : Out := .next (s.setX d (sext i)).endLong

/-- ANOP (R74). -/
def execAnop (s : State) : Out := .next s.endBundle

end Sys2Proof.Machine
end

