-- ==== Sys2Proof/Machine/Special.lean ====
section
/-! DEFINITION. The special functions of R121 and R122, correctly rounded: each is enclosed between two bounds, and the
enclosure is narrowed until both round alike. An answer that is not exact is irrational, so it lies strictly between its
bounds. -/

namespace Sys2Proof.Machine

/-- An interval of integers, in units of 2^−P. -/
structure Iv where
  lo : Int
  hi : Int
  deriving DecidableEq, Repr

def floorDiv (a : Int) (d : Nat) : Int := a / (d : Int)
def ceilDiv (a : Int) (d : Nat) : Int := -((-a) / (d : Int))
def minInt (a b : Int) : Int := if a < b then a else b
def maxInt (a b : Int) : Int := if a < b then b else a

/-- Bounds divided by a positive number. -/
def Iv.div (a : Iv) (d : Nat) : Iv := { lo := floorDiv a.lo d, hi := ceilDiv a.hi d }
def Iv.add (a b : Iv) : Iv := { lo := a.lo + b.lo, hi := a.hi + b.hi }
def Iv.neg (a : Iv) : Iv := { lo := -a.hi, hi := -a.lo }
def Iv.widen (a : Iv) (n : Int) : Iv := { lo := a.lo - n, hi := a.hi + n }
/-- The product of two fixed-point intervals. -/
def Iv.mul (P : Nat) (a b : Iv) : Iv :=
  let p := a.lo * b.lo
  let q := a.lo * b.hi
  let r := a.hi * b.lo
  let t := a.hi * b.hi
  Iv.div { lo := minInt (minInt p q) (minInt r t), hi := maxInt (maxInt p q) (maxInt r t) } (2 ^ P)

/-- Terms term, term × y / ((n + 1)…), summed: fuel terms of a power series whose term k + 1 is term k × y / (d k). -/
def series (P : Nat) (y : Iv) (d : Nat → Nat) : Nat → Nat → Iv → Iv
  | 0, _, _ => { lo := -2, hi := 2 }
  | fuel + 1, k, term => term.add (series P y d fuel (k + 1) ((Iv.mul P term y).div (d k)))

/-- One, in units of 2^−P. -/
def oneIv (P : Nat) : Iv := { lo := 2 ^ P, hi := 2 ^ P }

/-- e^y for |y| ≤ 1. -/
def expIv (P : Nat) (y : Iv) : Iv := series P y (fun k => k + 1) (P / 2 + 24) 0 (oneIv P)
/-- cos y and sin y for |y| ≤ 2. -/
def cosIv (P : Nat) (y : Iv) : Iv :=
  series P (Iv.mul P y y).neg (fun k => (2 * k + 1) * (2 * k + 2)) (P / 2 + 24) 0 (oneIv P)
def sinIv (P : Nat) (y : Iv) : Iv :=
  series P (Iv.mul P y y).neg (fun k => (2 * k + 2) * (2 * k + 3)) (P / 2 + 24) 0 y

/-- Σ zᵏ⁺¹ … of atanh: z + z³/3 + z⁵/5 + …, for |z| ≤ 1/5. -/
def atanhSum (P : Nat) (z2 : Iv) : Nat → Nat → Iv → Iv
  | 0, _, _ => { lo := -2, hi := 2 }
  | fuel + 1, k, pow => (pow.div (2 * k + 1)).add (atanhSum P z2 fuel (k + 1) (Iv.mul P pow z2))
def atanhIv (P : Nat) (z : Iv) : Iv := atanhSum P (Iv.mul P z z) (P / 4 + 8) 0 z

/-- ln 2 = 2 atanh(1/3), by its own longer sum. -/
def ln2Iv (P : Nat) : Iv :=
  let z : Iv := ({ lo := 2 ^ P, hi := 2 ^ P } : Iv).div 3
  let a := atanhSum P (Iv.mul P z z) (P / 3 + 8) 0 z
  a.add a

/-- atan(1/k) by its alternating sum. -/
def atanInv (P k : Nat) : Nat → Nat → Iv → Iv
  | 0, _, _ => { lo := -2, hi := 2 }
  | fuel + 1, n, pow => (pow.div (2 * n + 1)).add (atanInv P k fuel (n + 1) (pow.div (k * k)).neg)

/-- π/2 = 8 atan(1/5) − 2 atan(1/239). -/
def halfPi (P : Nat) : Iv :=
  let a := atanInv P 5 (P / 4 + 8) 0 ((oneIv P).div 5)
  let b := atanInv P 239 (P / 8 + 8) 0 ((oneIv P).div 239)
  { lo := 8 * a.lo - 2 * b.hi, hi := 8 * a.hi - 2 * b.lo }

/-- m × 2^e in units of 2^−P, for an e not below −P. -/
def fixed (P m : Nat) (e : Int) : Int := m * 2 ^ (e + P).toNat

/-- Round an irrational value that lies strictly between b.lo and b.hi in units of 2^(k − P); none where the bounds do not
agree. -/
def settle (F : Fmt) (P : Nat) (k : Int) (b : Iv) : Option (Nat × FpFlags) :=
  let one (neg : Bool) (n : Nat) := F.round (.fin neg n (k - P - 1)) .rne false
  if 0 ≤ b.lo ∧ 1 ≤ b.hi then
    let l := one false (2 * b.lo.toNat + 1)
    if l = one false (2 * b.hi.toNat - 1) then some l else none
  else if b.hi ≤ 0 then
    let l := one true (2 * (-b.hi).toNat + 1)
    if l = one true (2 * (-b.lo).toNat - 1) then some l else none
  else none

/-- Narrow until the bounds agree: precision P, then its double, and so on. That the fuel is enough for every argument: UNVERIFIED,
log 88. -/
def narrow (f : Nat → Option (Nat × FpFlags)) : Nat → Nat → Nat × FpFlags
  | 0, _ => (0, noFlags)
  | fuel + 1, P => match f P with | some r => r | none => narrow f fuel (2 * P)

/-- The precision to begin with for an argument m × 2^e. -/
def startBits (e : Int) : Nat := 128 + 2 * (-e).toNat

/-- 2^x for a finite x = (−1)^neg m 2^e that is not zero. -/
def exp2Fin (F : Fmt) (neg : Bool) (m : Nat) (e : Int) : Nat × FpFlags :=
  if 12 < e + Nat.log2 m then F.round (.fin false 1 (if neg then -5000 else 5000)) .rne false
  else
    let s : Int := if neg then -1 else 1
    if 0 ≤ e then F.round (.fin false 1 (s * fixed 0 m e)) .rne false
    else
      let d : Nat := 2 ^ (-e).toNat
      let x : Int := s * m
      let k := floorDiv x d
      let r := x - k * d
      if r = 0 then F.round (.fin false 1 k) .rne false
      else narrow (fun P =>
        let y : Iv := { lo := floorDiv (r * 2 ^ P) d, hi := ceilDiv (r * 2 ^ P) d }
        settle F P k (expIv P (Iv.mul P y (ln2Iv P)))) 8 (startBits e)

/-- log2 of m × 2^e, m not zero. -/
def log2Fin (F : Fmt) (m : Nat) (e : Int) : Nat × FpFlags :=
  let b := Nat.log2 m
  if m = 2 ^ b then F.round (intVal (e + b)) .rne false
  else
    let high := 3 * 2 ^ b ≤ 2 * m
    let b := if high then b + 1 else b
    let k : Int := e + b
    let num : Int := (m : Int) - 2 ^ b
    let den : Nat := m + 2 ^ b
    narrow (fun P =>
      let z : Iv := { lo := floorDiv (num * 2 ^ P) den, hi := ceilDiv (num * 2 ^ P) den }
      let l := atanhIv P z
      let l := l.add l
      let c := ln2Iv P
      let lo := if l.lo < 0 then floorDiv (l.lo * 2 ^ P) c.lo.toNat else floorDiv (l.lo * 2 ^ P) c.hi.toNat
      let hi := if l.hi < 0 then ceilDiv (l.hi * 2 ^ P) c.hi.toNat else ceilDiv (l.hi * 2 ^ P) c.lo.toNat
      settle F P 0 { lo := k * 2 ^ P + lo, hi := k * 2 ^ P + hi }) 8 128

/-- The quadrant of |x| and what is left of it, in units of 2^−P. -/
def quadrant (P m : Nat) (e : Int) : Nat × Iv :=
  let Q := P + (e + Nat.log2 m).toNat + 16
  let h := halfPi Q
  let x := fixed Q m e
  let n := (floorDiv x h.hi.toNat).toNat
  ((n % 4), Iv.div { lo := x - n * h.hi, hi := x - n * h.lo } (2 ^ (Q - P)))

/-- sin x (shift 0) or cos |x| (shift 1) for x = (−1)^neg m 2^e, m not zero. -/
def sinFin (F : Fmt) (shift : Nat) (neg : Bool) (m : Nat) (e : Int) : Nat × FpFlags :=
  narrow (fun P =>
    let q := quadrant P m e
    let r := match (q.1 + shift) % 4 with
      | 0 => sinIv P q.2
      | 1 => cosIv P q.2
      | 2 => (sinIv P q.2).neg
      | _ => (cosIv P q.2).neg
    settle F P 0 (if neg && shift == 0 then r.neg else r)) 8 (startBits e)

/-- Square n times. -/
def squares (P : Nat) : Nat → Iv → Iv
  | 0, a => a
  | n + 1, a => squares P n (Iv.mul P a a)

/-- tanh x for x = (−1)^neg m 2^e, m not zero: (u − 1) / (u + 1) for u = e^(2|x|). -/
def tanhFin (F : Fmt) (neg : Bool) (m : Nat) (e : Int) : Nat × FpFlags :=
  if 6 ≤ e + Nat.log2 m then F.round (.fin neg (2 ^ 160 - 1) (-160)) .rne false
  else narrow (fun P =>
    let y := fixed P m e
    let u := squares P 8 (expIv P (({ lo := y, hi := y } : Iv).div 128))
    let one : Int := 2 ^ P
    let lo := floorDiv ((u.lo - one) * one) (u.lo + one).toNat
    let hi := ceilDiv ((u.hi - one) * one) (u.hi + one).toNat
    let r : Iv := { lo := lo, hi := hi }
    settle F P 0 (if neg then r.neg else r)) 8 (startBits e)
/-- 1/√(m 2^e), m not zero. -/
def rsqrtVal (m : Nat) (e : Int) : Val :=
  let m2 := if e % 2 = 0 then m else 2 * m
  let e2 := if e % 2 = 0 then e else e - 1
  let K := Nat.log2 m2 + 80
  let r := isqrt (2 ^ (2 * K) / m2)
  .fin false (2 * r + (if r * r * m2 = 2 ^ (2 * K) then 0 else 1)) (-(e2 / 2) - K - 1)

/-- The special functions of R182. -/
inductive Special where
  | rcp
  | rsq
  | exp2
  | log2
  | sin
  | cos
  | tanh
  deriving DecidableEq, Repr

/-- f(x), rounded once (R121), with R122's table. -/
def Fmt.special (F : Fmt) (f : Special) (c : Nat) : Nat × FpFlags :=
  let one := F.round (.fin false 1 0) .rne false
  let zero (neg : Bool) := (F.sign neg, noFlags)
  let inf (neg : Bool) (dz : Bool) : Nat × FpFlags := (F.sign neg + F.top, { noFlags with dz := dz })
  let bad : Nat × FpFlags := (F.nan, nvIf true)
  match F.decode c with
  | .nan s => (F.nan, nvIf s)
  | .inf neg =>
    match f with
    | .rcp => zero neg
    | .rsq => if neg then bad else zero false
    | .exp2 => if neg then zero false else inf false false
    | .log2 => if neg then bad else inf false false
    | .sin => bad
    | .cos => bad
    | .tanh => F.round (.fin neg 1 0) .rne false
  | .fin neg m e =>
    if m = 0 then
      match f with
      | .rcp => inf neg true
      | .rsq => inf neg true
      | .exp2 => one
      | .log2 => inf true true
      | .sin => zero neg
      | .cos => one
      | .tanh => zero neg
    else
      match f with
      | .rcp => F.round (quotient neg 1 m (-e)) .rne false
      | .rsq => if neg then bad else F.round (rsqrtVal m e) .rne false
      | .exp2 => exp2Fin F neg m e
      | .log2 => if neg then bad else log2Fin F m e
      | .sin => sinFin F 0 neg m e
      | .cos => sinFin F 1 false m e
      | .tanh => tanhFin F neg m e

end Sys2Proof.Machine
end

