-- ==== Sys2Proof/Machine/ScalarFp.lean ====
section
/-! DEFINITION. Scalar floating point on x registers (R167-R171). -/

namespace Sys2Proof.Machine

/-- A scalar operand: the low w bits of its x register, decoded (R167). -/
def Ctx.fval (c : Ctx) (F : Fmt) (r : Reg) : Val := F.decode ((c.getX r).toNat % 2 ^ F.width)

/-- A scalar result: written to the low bits, the upper bits cleared; the flags are raised (R114, R167). -/
def Ctx.fput (c : Ctx) (d : Reg) (r : Nat × FpFlags) : Ctx := (c.setX d (.ofNat 64 r.1)).raiseFlags r.2

/-- A two-operand scalar operation (R167). -/
def fop2 (f : Rm → Val → Val → Exact) (d a b : Reg) (r : BitVec 3) (t : BitVec 2) (s : State) : Out :=
  s.doneA fun c =>
    let F := fmtOf2 t.toNat
    let m := c.rmOf r
    c.fput d (F.deliver m (f m (c.fval F a) (c.fval F b)))

/-- minimumNumber or maximumNumber on x registers (R116). -/
def fpick (max : Bool) (d a b : Reg) (t : BitVec 2) (s : State) : Out :=
  s.doneA fun c =>
    let F := fmtOf2 t.toNat
    c.fput d (F.pick max ((c.getX a).toNat % 2 ^ F.width) ((c.getX b).toNat % 2 ^ F.width))

/-- FADD (R167). -/
def execFadd (d a b : Reg) (r : BitVec 3) (t : BitVec 2) (s : State) : Out := fop2 fpAdd d a b r t s
/-- FSUB (R167). -/
def execFsub (d a b : Reg) (r : BitVec 3) (t : BitVec 2) (s : State) : Out :=
  fop2 (fun m x y => fpAdd m x y.neg) d a b r t s
/-- FMUL (R167). -/
def execFmul (d a b : Reg) (r : BitVec 3) (t : BitVec 2) (s : State) : Out := fop2 (fun _ x y => fpMul x y) d a b r t s
/-- FDIV (R167). -/
def execFdiv (d a b : Reg) (r : BitVec 3) (t : BitVec 2) (s : State) : Out := fop2 (fun _ x y => fpDiv x y) d a b r t s
/-- FSQRT (R167). -/
def execFsqrt (d a : Reg) (r : BitVec 3) (t : BitVec 2) (s : State) : Out :=
  s.doneA fun c => c.fput d ((fmtOf2 t.toNat).deliver (c.rmOf r) (fpSqrt (c.fval (fmtOf2 t.toNat) a)))
/-- FMIN (R116). -/
def execFmin (d a b : Reg) (t : BitVec 2) (s : State) : Out := fpick false d a b t s
/-- FMAX (R116). -/
def execFmax (d a b : Reg) (t : BitVec 2) (s : State) : Out := fpick true d a b t s

/-- FCMP (R168). -/
def execFcmp (d a b : Reg) (cc : BitVec 4) (t : BitVec 2) (s : State) : Out :=
  s.doneA fun c =>
    let F := fmtOf2 t.toNat
    let r := fcond cc.toNat (c.fval F a) (c.fval F b)
    (c.setP (low3 d) r.1).raiseFlags r.2

/-- FCVT: the source class, the target code in b's low four bits, .u in its bit 4 (R169). -/
def execFcvt (d a b : Reg) (cls : BitVec 2) (r : BitVec 3) (t : BitVec 2) (s : State) : Out :=
  s.doneA fun c =>
    let S := if cls = 0 then 4 + t.toNat else cls.toNat + 1
    let T := b.toNat % 16
    let uns := b.getLsbD 4
    let v := convert S T uns false (c.rmOf r) ((c.getX a).toNat % 2 ^ widthOf S)
    let x : Dword := if T = 2 ∧ ¬uns then sext (BitVec.ofNat 32 v.1) else .ofNat 64 v.1
    (c.setX d x).raiseFlags v.2

/-- FCLASS (R170). -/
def execFclass (d a : Reg) (t : BitVec 2) (s : State) : Out :=
  s.doneA fun c =>
    c.setX d (.ofNat 64 (2 ^ (fmtOf2 t.toNat).classBit ((c.getX a).toNat % 2 ^ (fmtOf2 t.toNat).width)))

/-- FFMA: one rounding, in the mode of cw.fpctl.rm (R171). -/
def execFfma (d a b cc : Reg) (t : BitVec 3) (s : State) : Out :=
  s.doneA fun c =>
    let F := fmtOf2 t.toNat
    c.fput d (F.deliver c.rm (fpFma c.rm (c.fval F a) (c.fval F b) (c.fval F cc)))

end Sys2Proof.Machine
end

