-- ==== Sys2Proof/Machine/Skein.lean ====
section
/-! DEFINITION. The feeder (R208, R209, R288), markers (R210, R293), and the tickets of the thread (R211). -/

namespace Sys2Proof.Machine

/-! ## The feeder (R208) -/

/-- An unused channel: no tiles remain. -/
def Nest.empty : Nest :=
  { ext := Vector.replicate 3 0, tile := Vector.replicate 3 0, dims := 0, guided := false, chunk := 0, takers := 0
    total := 0, next := 0 }

/-- T_i = ceil(ext_i / tile_i) of a used dimension; 1 above. -/
def Nest.t (n : Nest) (i : Nat) : Nat :=
  if i < n.dims then (n.ext.toList.getD i 0 + n.tile.toList.getD i 1 - 1) / n.tile.toList.getD i 1 else 1

/-- A 32-byte descriptor as a nest, or none where it is not valid. -/
def nestOf (d : List Byte) : Option Nest :=
  let f := fun (off n : Nat) => ofBytes ((d.drop off).take n)
  let n : Nest :=
    { ext := #v[f 0 4, f 4 4, f 8 4], tile := #v[f 12 2, f 14 2, f 16 2], dims := f 18 1, guided := f 19 1 == 1
      chunk := f 20 4, takers := f 24 2, total := 0, next := 0 }
  let total := n.t 0 * n.t 1 * n.t 2
  let tilesOk : Bool := (List.range 3).all fun i => decide (n.dims ≤ i) || n.tile.toList.getD i 0 != 0
  if 1 ≤ n.dims ∧ n.dims ≤ 3 ∧ f 19 1 ≤ 1 ∧ tilesOk ∧ 1 ≤ n.chunk ∧ (¬n.guided ∨ (1 ≤ n.takers ∧ n.takers ≤ 64)) ∧
      f 26 6 = 0 ∧ total ≤ 2 ^ 32 - 1 then
    some { n with total := total }
  else none

/-- WCFG (R208). -/
def execWcfg (a c : Reg) (p : BitVec 3) (s : State) : Out :=
  s.after (do
    let (s, l) ← s.mapRange (s.who s.cur) .load (s.getX a) 32
    s.readBytes s.cur l) fun r =>
    match nestOf r.2 with
    | some n =>
      .next (((r.1.modSkein (skeinOf s.cur) fun k => { k with ch := tableSet k.ch c.toNat n }).setP p true).endC .next)
    | none => .next ((r.1.setP p false).endC .next)

/-- Tiles from s to the end of its run along the last dimension. -/
def Nest.runLeft (n : Nest) : Nat := n.t (n.dims - 1) - n.next % n.t (n.dims - 1)

/-- Tiles the next chunk takes (R209). -/
def Nest.take (n : Nest) : Nat :=
  let rem := n.total - n.next
  let len := if n.guided then max n.chunk (rem / (2 * n.takers)) else n.chunk
  min len (min rem n.runLeft)

/-- The coordinate of a tile in dimension i. -/
def Nest.coord (n : Nest) (tile i : Nat) : Nat :=
  match i with
  | 0 => tile / (n.t 1 * n.t 2)
  | 1 => tile / n.t 2 % n.t 1
  | _ => tile % n.t 2

/-- lo_i and hi_i of a chunk of len tiles (R209). -/
def Nest.bounds (n : Nest) (len i : Nat) : Nat × Nat :=
  if n.dims ≤ i then (0, 1)
  else
    let size := n.tile.toList.getD i 0
    let last := if i + 1 = n.dims then n.next + len - 1 else n.next
    (n.coord n.next i * size, min ((n.coord last i + 1) * size) (n.ext.toList.getD i 0))

/-- Write x[d] upward. -/
def Ctx.setXs (c : Ctx) (d : Nat) : List Nat → Ctx
  | [] => c
  | v :: r => (c.setX (.ofNat 5 d) (.ofNat 64 v)).setXs (d + 1) r

/-- WGET (R209). -/
def execWget (d c : Reg) (p : BitVec 3) (s : State) : Out :=
  let k := skeinOf s.cur
  let n := tableGet (s.skein k).ch c.toNat Nest.empty
  if n.total ≤ n.next then .next ((s.setP p false).endC .next)
  else
    let len := n.take
    let vs := (List.range 3).flatMap fun i => [(n.bounds len i).1, (n.bounds len i).2]
    let s := s.modSkein k fun x => { x with ch := tableSet x.ch c.toNat { n with next := n.next + len } }
    .next (((s.modMe fun x => x.setXs d.toNat vs).setP p true).endC .next)

/-! ## Markers (R210) -/

/-- The marker a thread names: that of the skein it runs on (R37). -/
def State.marker (s : State) (k : SkeinId) (m : BitVec 5) : Marker := tableGet (s.skein k).markers m.toNat Marker.reset
def State.setMarker (s : State) (k : SkeinId) (m : BitVec 5) (v : Marker) : State :=
  (s.modSkein k fun x => { x with markers := tableSet x.markers m.toNat v }).forwardMarkers k m v

/-- MKINIT's marker. -/
def Marker.init (mk : Marker) (n : Nat) : Marker := { n := n, a := 0, p := mk.p + 1, b := mk.p + 1 }
/-- MKARR's marker: one more arrival, which may complete the phase. -/
def Marker.arrive (mk : Marker) : Marker :=
  if mk.a + 1 = mk.n then { mk with a := 0, p := mk.p + 1 } else { mk with a := mk.a + 1 }

/-- MKINIT (R210). -/
def execMkinit (a : Reg) (m : BitVec 5) (p : BitVec 3) (s : State) : Out :=
  let n := (s.getX a).toNat
  let k := skeinOf s.cur
  if 1 ≤ n ∧ n ≤ 64 then .next (((s.setMarker k m ((s.marker k m).init n)).setP p true).endC .next)
  else .next ((s.setP p false).endC .next)

/-- MKARR: a release at SKEIN scope in every case (R210). -/
def execMkarr (d : Reg) (m : BitVec 5) (s : State) : Out :=
  let k := skeinOf s.cur
  let mk := s.marker k m
  let s := s.releaseNow s.cur 2
  if mk.n = 0 then .next ((s.setX d (BitVec.allOnes 64)).endC .next)
  else .next (((s.setMarker k m mk.arrive).setX d mk.p).endC .next)

/-- MKWAIT: an acquire at SKEIN scope where it writes true (R210). -/
def execMkwait (a : Reg) (m : BitVec 5) (p : BitVec 3) (s : State) : Out :=
  let k := skeinOf s.cur
  let mk := s.marker k m
  let u := s.getX a
  if u = BitVec.allOnes 64 ∨ u.ult mk.b then .next ((s.setP p false).endC .next)
  else if u.ult mk.p then .next (((s.acquireS (coreOf s.cur) 2).setP p true).endC .next)
  else .next (s.park (.marker k m u))

/-! ## Tickets (R211) -/

/-- TKWAIT (R211). -/
def execTkwait (a : Reg) (s : State) : Out :=
  let t := slice 0 16 (s.getX a)
  if s.ticketReady s.cur t then .next (s.endC .next) else .next (s.park (.tkwait t))

/-- TKPOLL (R211). -/
def execTkpoll (d a : Reg) (s : State) : Out :=
  .next ((s.setP (low3 d) (s.ticketReady s.cur (slice 0 16 (s.getX a)))).endC .next)

end Sys2Proof.Machine
end

