-- ==== Sys2Proof/Machine/VectorInt.lean ====
section
/-! DEFINITION. Vector integer, logic, shift, dot-product and carry-less instructions (R172, R173, R183), permutes (R176) and
the mask instructions (R184). -/

namespace Sys2Proof.Machine

/-- An element-wise operation of two vectors under a mask (R172). -/
def vmap2 (f : Nat → Nat → Nat → Nat) (d a b : Reg) (k : Reg3) (ty : Nat) (s : State) : Out :=
  s.doneA fun c =>
    let w := widthOf ty
    c.setV d (maskedBuild w (countOf w) (c.getK k) (c.getV d) fun i =>
      f w (elemNat w (c.getV a) i) (elemNat w (c.getV b) i))

/-- An element-wise operation of one vector under a mask. -/
def vmap1 (f : Nat → Nat → Nat) (d a : Reg) (k : Reg3) (ty : Nat) (s : State) : Out :=
  s.doneA fun c =>
    let w := widthOf ty
    c.setV d (maskedBuild w (countOf w) (c.getK k) (c.getV d) fun i => f w (elemNat w (c.getV a) i))

/-- A shift of every element by x[b] mod w (R173). -/
def vmapX (f : Nat → Nat → Nat → Nat) (d a b : Reg) (k : Reg3) (ty : Nat) (s : State) : Out :=
  s.doneA fun c =>
    let w := widthOf ty
    c.setV d (maskedBuild w (countOf w) (c.getK k) (c.getV d) fun i =>
      f w (elemNat w (c.getV a) i) ((c.getX b).toNat % w))

/-- The low w bits of an integer. -/
def wrapInt (w : Nat) (i : Int) : Nat := (BitVec.ofInt w i).toNat

def eltSub (w a b : Nat) : Nat := wrapInt w ((a : Int) - b)
def eltMin (w a b : Nat) : Nat := if toSigned w a < toSigned w b then a else b
def eltMax (w a b : Nat) : Nat := if toSigned w a < toSigned w b then b else a
/-- Clamped to the signed or the unsigned range (R172). -/
def clampS (w : Nat) (i : Int) : Nat := wrapInt w (clampInt (-(2 ^ (w - 1))) (2 ^ (w - 1) - 1) i)
def clampU (w : Nat) (i : Int) : Nat := wrapInt w (clampInt 0 (2 ^ w - 1) i)
def eltShl (w a b : Nat) : Nat := (a <<< (b % w)) % 2 ^ w
def eltShr (w a b : Nat) : Nat := a >>> (b % w)
def eltSar (w a b : Nat) : Nat := wrapInt w (toSigned w a >>> (b % w))
def eltRotl (w a b : Nat) : Nat := ((BitVec.ofNat w a).rotateLeft (b % w)).toNat

/-- The carry-less product of a and the low n bits of b (R183). -/
def clmul (a b : Nat) : Nat → Nat
  | 0 => 0
  | n + 1 => (clmul a b n) ^^^ (if b.testBit n then a <<< n else 0)

/-- VADD (R172). -/
def execVaddI (d a b : Reg) (k : Reg3) (t : BitVec 2) (s : State) : Out := vmap2 (fun w a b => (a + b) % 2 ^ w) d a b k t.toNat s
/-- VSUB (R172). -/
def execVsubI (d a b : Reg) (k : Reg3) (t : BitVec 2) (s : State) : Out := vmap2 (eltSub) d a b k t.toNat s
/-- VMUL (R172). -/
def execVmulI (d a b : Reg) (k : Reg3) (t : BitVec 2) (s : State) : Out := vmap2 (fun w a b => (a * b) % 2 ^ w) d a b k t.toNat s
/-- VMIN (R172). -/
def execVminI (d a b : Reg) (k : Reg3) (t : BitVec 2) (s : State) : Out := vmap2 (eltMin) d a b k t.toNat s
/-- VMAX (R172). -/
def execVmaxI (d a b : Reg) (k : Reg3) (t : BitVec 2) (s : State) : Out := vmap2 (eltMax) d a b k t.toNat s
/-- VMINU (R172). -/
def execVminu (d a b : Reg) (k : Reg3) (t : BitVec 2) (s : State) : Out := vmap2 (fun _ a b => if a < b then a else b) d a b k t.toNat s
/-- VMAXU (R172). -/
def execVmaxu (d a b : Reg) (k : Reg3) (t : BitVec 2) (s : State) : Out := vmap2 (fun _ a b => if a < b then b else a) d a b k t.toNat s
/-- VADDSS (R172). -/
def execVaddss (d a b : Reg) (k : Reg3) (t : BitVec 2) (s : State) : Out := vmap2 (fun w a b => clampS w (toSigned w a + toSigned w b)) d a b k t.toNat s
/-- VADDSU (R172). -/
def execVaddsu (d a b : Reg) (k : Reg3) (t : BitVec 2) (s : State) : Out := vmap2 (fun w a b => clampU w ((a : Int) + b)) d a b k t.toNat s
/-- VSUBSS (R172). -/
def execVsubss (d a b : Reg) (k : Reg3) (t : BitVec 2) (s : State) : Out := vmap2 (fun w a b => clampS w (toSigned w a - toSigned w b)) d a b k t.toNat s
/-- VSUBSU (R172). -/
def execVsubsu (d a b : Reg) (k : Reg3) (t : BitVec 2) (s : State) : Out := vmap2 (fun w a b => clampU w ((a : Int) - b)) d a b k t.toNat s
/-- VAVGU (R172). -/
def execVavgu (d a b : Reg) (k : Reg3) (t : BitVec 2) (s : State) : Out := vmap2 (fun _ a b => (a + b + 1) / 2) d a b k t.toNat s
/-- VAND (R172). -/
def execVand (d a b : Reg) (k : Reg3) (t : BitVec 2) (s : State) : Out := vmap2 (fun _ a b => a &&& b) d a b k t.toNat s
/-- VOR (R172). -/
def execVor (d a b : Reg) (k : Reg3) (t : BitVec 2) (s : State) : Out := vmap2 (fun _ a b => a ||| b) d a b k t.toNat s
/-- VXOR (R172). -/
def execVxor (d a b : Reg) (k : Reg3) (t : BitVec 2) (s : State) : Out := vmap2 (fun _ a b => a ^^^ b) d a b k t.toNat s
/-- VANDN (R172). -/
def execVandn (d a b : Reg) (k : Reg3) (t : BitVec 2) (s : State) : Out := vmap2 (fun w a b => a &&& (2 ^ w - 1 - b)) d a b k t.toNat s
/-- VSHL (R172). -/
def execVshl (d a b : Reg) (k : Reg3) (t : BitVec 2) (s : State) : Out := vmap2 (eltShl) d a b k t.toNat s
/-- VSHR (R172). -/
def execVshr (d a b : Reg) (k : Reg3) (t : BitVec 2) (s : State) : Out := vmap2 (eltShr) d a b k t.toNat s
/-- VSAR (R172). -/
def execVsar (d a b : Reg) (k : Reg3) (t : BitVec 2) (s : State) : Out := vmap2 (eltSar) d a b k t.toNat s
/-- VROTL (R172). -/
def execVrotl (d a b : Reg) (k : Reg3) (t : BitVec 2) (s : State) : Out := vmap2 (eltRotl) d a b k t.toNat s
/-- VABS (R172). -/
def execVabsI (d a : Reg) (k : Reg3) (t : BitVec 2) (s : State) : Out := vmap1 (fun w a => if toSigned w a < 0 then wrapInt w (-toSigned w a) else a) d a k t.toNat s
/-- VNEG (R172). -/
def execVnegI (d a : Reg) (k : Reg3) (t : BitVec 2) (s : State) : Out := vmap1 (fun w a => wrapInt w (-(a : Int))) d a k t.toNat s
/-- VNOT (R172). -/
def execVnot (d a : Reg) (k : Reg3) (t : BitVec 2) (s : State) : Out := vmap1 (fun w a => 2 ^ w - 1 - a) d a k t.toNat s
/-- VSHLS (R173). -/
def execVshls (d a b : Reg) (k : Reg3) (t : BitVec 2) (s : State) : Out := vmapX eltShl d a b k t.toNat s
/-- VSHRS (R173). -/
def execVshrs (d a b : Reg) (k : Reg3) (t : BitVec 2) (s : State) : Out := vmapX eltShr d a b k t.toNat s
/-- VSARS (R173). -/
def execVsars (d a b : Reg) (k : Reg3) (t : BitVec 2) (s : State) : Out := vmapX eltSar d a b k t.toNat s
/-- VCLMUL (R183). -/
def execVclmul (d a b : Reg) (k : Reg3) (t : BitVec 2) (s : State) : Out := vmap2 (fun w a b => clmul a b w % 2 ^ w) d a b k t.toNat s
/-- VCLMUL.h (R183). -/
def execVclmulH (d a b : Reg) (k : Reg3) (t : BitVec 2) (s : State) : Out := vmap2 (fun w a b => clmul a b w / 2 ^ w) d a b k t.toNat s
/-- VMULH (R183). -/
def execVmulh (d a b : Reg) (k : Reg3) (t : BitVec 2) (s : State) : Out := vmap2 (fun w a b => wrapInt w ((toSigned w a * toSigned w b) / 2 ^ w)) d a b k t.toNat s
/-- VMULH.u (R183). -/
def execVmulhU (d a b : Reg) (k : Reg3) (t : BitVec 2) (s : State) : Out := vmap2 (fun w a b => a * b / 2 ^ w) d a b k t.toNat s

/-- Four byte products added into a word (R183). -/
def dot4 (sa sb : Bool) (acc a b : Nat) : Nat :=
  let one (sg : Bool) (v j : Nat) : Int := if sg then toSigned 8 (v / 256 ^ j) else (v / 256 ^ j % 256 : Nat)
  wrapInt 32 ((acc : Int) + one sa a 0 * one sb b 0 + one sa a 1 * one sb b 1 + one sa a 2 * one sb b 2 +
    one sa a 3 * one sb b 3)

/-- VDOT4 reads its destination as the accumulator (R183). -/
def vdot (sa sb : Bool) (d a b : Reg) (k : Reg3) (s : State) : Out :=
  s.doneA fun c =>
    c.setV d (maskedBuild 32 32 (c.getK k) (c.getV d) fun i =>
      dot4 sa sb (elemNat 32 (c.getV d) i) (elemNat 32 (c.getV a) i) (elemNat 32 (c.getV b) i))

/-- VDOT4 (R183). -/
def execVdot4 (d a b : Reg) (k : Reg3) (s : State) : Out := vdot true true d a b k s
/-- VDOT4.u (R183). -/
def execVdot4U (d a b : Reg) (k : Reg3) (s : State) : Out := vdot false false d a b k s
/-- VDOT4.su (R183). -/
def execVdot4Su (d a b : Reg) (k : Reg3) (s : State) : Out := vdot true false d a b k s

/-! ## Permutes (R176) -/

/-- v's element i, or zero outside the register. -/
def elemOrZero (w n : Nat) (v : VReg) (i : Int) : Nat := if 0 ≤ i ∧ i < n then elemNat w v i.toNat else 0

/-- An active element i of v[d] takes f i (R176). -/
def permute (f : Ctx → Nat → Nat → Nat → Nat) (d : Reg) (k : Reg3) (ty : Nat) (s : State) : Out :=
  s.doneA fun c =>
    let w := widthOf ty
    let n := countOf w
    c.setV d (maskedBuild w n (c.getK k) (c.getV d) (f c w n))

/-- VSEL: the k field is the selector, every element is written (R176). -/
def execVsel (d a b : Reg) (k : Reg3) (t : BitVec 3) (s : State) : Out :=
  s.doneA fun c =>
    let w := widthOf t.toNat
    c.setV d (maskedBuild w (countOf w) (c.getK k) (c.getV b) fun i => elemNat w (c.getV a) i)
/-- VBCAST (R176). -/
def execVbcast (d a : Reg) (k : Reg3) (t : BitVec 3) (s : State) : Out :=
  permute (fun c w _ _ => (c.getX a).toNat % 2 ^ w) d k t.toNat s
/-- VEXTR (R176). -/
def execVextr (d a b : Reg) (t : BitVec 3) (s : State) : Out :=
  s.doneA fun c =>
    let w := widthOf t.toNat
    c.setX d (.ofNat 64 (elemNat w (c.getV a) ((c.getX b).toNat % countOf w)))
/-- VINS (R176). -/
def execVins (d a b : Reg) (t : BitVec 3) (s : State) : Out :=
  s.doneA fun c =>
    let w := widthOf t.toNat
    c.setV d (setElem w (c.getV d) ((c.getX b).toNat % countOf w) (BitVec.ofNat w (c.getX a).toNat))
/-- VPERM (R176). -/
def execVperm (d a b : Reg) (k : Reg3) (t : BitVec 3) (s : State) : Out :=
  permute (fun c w n i => elemNat w (c.getV a) (elemNat w (c.getV b) i % n)) d k t.toNat s
/-- VSLIDE (R176). -/
def execVslide (d a b : Reg) (k : Reg3) (t : BitVec 3) (s : State) : Out :=
  permute (fun c w n i => elemOrZero w n (c.getV a) (i + (c.getX b).toInt)) d k t.toNat s
/-- VZIP (R176). -/
def execVzip (d a b : Reg) (k : Reg3) (t : BitVec 3) (s : State) : Out :=
  permute (fun c w _ i => elemNat w (c.getV (if i % 2 = 0 then a else b)) (i / 2)) d k t.toNat s
/-- VUNZIP (R176). -/
def execVunzip (d a b : Reg) (k : Reg3) (t : BitVec 3) (s : State) : Out :=
  permute (fun c w n i => if i < n / 2 then elemNat w (c.getV a) (2 * i) else elemNat w (c.getV b) (2 * i - n))
    d k t.toNat s

/-! ## Masks (R184) -/

/-- k[d] = f(k[a], k[b]). -/
def kop (f : KReg → KReg → KReg) (d a b : Reg) (s : State) : Out :=
  s.doneA fun c => c.setK (low3 d) (f (c.getK (low3 a)) (c.getK (low3 b)))

/-- KAND (R184). -/
def execKand (d a b : Reg) (s : State) : Out := kop (fun x y => x &&& y) d a b s
/-- KOR (R184). -/
def execKor (d a b : Reg) (s : State) : Out := kop (fun x y => x ||| y) d a b s
/-- KXOR (R184). -/
def execKxor (d a b : Reg) (s : State) : Out := kop (fun x y => x ^^^ y) d a b s
/-- KNOT (R184). -/
def execKnot (d a : Reg) (s : State) : Out := s.doneA fun c => c.setK (low3 d) (~~~(c.getK (low3 a)))
/-- KPOPC (R184). -/
def execKpopc (d a : Reg) (t : BitVec 3) (s : State) : Out :=
  s.doneA fun c => c.setX d (.ofNat 64 (popCount (countOf (widthOf t.toNat)) (c.getK (low3 a)).toNat))
/-- KFIRST (R184). -/
def execKfirst (d a : Reg) (t : BitVec 3) (s : State) : Out :=
  s.doneA fun c =>
    c.setX d (match (List.range (countOf (widthOf t.toNat))).find? fun i => (c.getK (low3 a)).getLsbD i with
      | some i => .ofNat 64 i
      | none => BitVec.allOnes 64)
/-- KMOV between masks (R184). -/
def execKmov (d a : Reg) (s : State) : Out := s.doneA fun c => c.setK (low3 d) (c.getK (low3 a))
/-- KMOV from two x registers (R184). -/
def execKmovX (d a b : Reg) (s : State) : Out := s.doneA fun c => c.setK (low3 d) (c.getX b ++ c.getX a)
/-- KMOV.lo (R184). -/
def execKmovLo (d a : Reg) (s : State) : Out := s.doneA fun c => c.setX d ((c.getK (low3 a)).extractLsb' 0 64)
/-- KMOV.hi (R184). -/
def execKmovHi (d a : Reg) (s : State) : Out := s.doneA fun c => c.setX d ((c.getK (low3 a)).extractLsb' 64 64)

end Sys2Proof.Machine
end

