-- ==== Sys2Proof/Machine/VectorFp.lean ====
section
/-! DEFINITION. Vector floating point, compares, reductions and scans, conversions and MX blocks, division, roots and the
special functions (R172, R174, R175, R177-R182). -/

namespace Sys2Proof.Machine

/-- The flags of the active elements together (R166). -/
def activeFlags (n : Nat) (k : KReg) (f : Nat → Nat × FpFlags) : FpFlags :=
  (List.range n).foldl (fun fl i => if active k i then fl.union (f i).2 else fl) noFlags

/-- Active elements take f i and raise its flags (R166, R172). -/
def Ctx.fpBuild (c : Ctx) (d : Reg) (k : Reg3) (w n : Nat) (f : Nat → Nat × FpFlags) : Ctx :=
  (c.setV d (maskedBuild w n (c.getK k) (c.getV d) fun i => (f i).1)).raiseFlags (activeFlags n (c.getK k) f)

/-- Element i of v[r] in a format. -/
def Ctx.fel (c : Ctx) (F : Fmt) (r : Reg) (i : Nat) : Nat := elemNat F.width (c.getV r) i

/-- An element-wise operation on a floating-point type, in the mode of cw.fpctl.rm (R172). -/
def vfp (F : Fmt) (f : Ctx → Nat → Nat × FpFlags) (d : Reg) (k : Reg3) (s : State) : Out :=
  s.doneA fun c => c.fpBuild d k F.width (countOf F.width) (f c)

/-- Two exact operands, one rounding. -/
def vfp2 (f : Rm → Val → Val → Exact) (d a b : Reg) (k : Reg3) (t : BitVec 2) (s : State) : Out :=
  let F := fmtOf2 t.toNat
  vfp F (fun c i => F.deliver c.rm (f c.rm (F.decode (c.fel F a i)) (F.decode (c.fel F b i)))) d k s

/-- VADD (R172). -/
def execVaddF (d a b : Reg) (k : Reg3) (t : BitVec 2) (s : State) : Out := vfp2 fpAdd d a b k t s
/-- VSUB (R172). -/
def execVsubF (d a b : Reg) (k : Reg3) (t : BitVec 2) (s : State) : Out :=
  vfp2 (fun m x y => fpAdd m x y.neg) d a b k t s
/-- VMUL (R172). -/
def execVmulF (d a b : Reg) (k : Reg3) (t : BitVec 2) (s : State) : Out := vfp2 (fun _ x y => fpMul x y) d a b k t s
/-- VDIV (R182). -/
def execVdiv (d a b : Reg) (k : Reg3) (t : BitVec 2) (s : State) : Out := vfp2 (fun _ x y => fpDiv x y) d a b k t s
/-- VSQRT (R182). -/
def execVsqrt (d a : Reg) (k : Reg3) (t : BitVec 2) (s : State) : Out := vfp2 (fun _ x _ => fpSqrt x) d a a k t s
/-- VMIN (R116, R172). -/
def execVminF (d a b : Reg) (k : Reg3) (t : BitVec 2) (s : State) : Out :=
  let F := fmtOf2 t.toNat
  vfp F (fun c i => F.pick false (c.fel F a i) (c.fel F b i)) d k s
/-- VMAX (R116, R172). -/
def execVmaxF (d a b : Reg) (k : Reg3) (t : BitVec 2) (s : State) : Out :=
  let F := fmtOf2 t.toNat
  vfp F (fun c i => F.pick true (c.fel F a i) (c.fel F b i)) d k s

/-- A sign operation: exact; a NaN gives the canonical NaN, nv only for a signalling one (R172). -/
def Fmt.signOp (F : Fmt) (f : Nat → Nat) (c : Nat) : Nat × FpFlags :=
  let v := F.decode c
  if v.isNan then (F.nan, nvIf v.isSnan) else (f c, noFlags)

/-- VABS (R172). -/
def execVabsF (d a : Reg) (k : Reg3) (t : BitVec 2) (s : State) : Out :=
  let F := fmtOf2 t.toNat
  vfp F (fun c i => F.signOp (fun v => v % F.sign true) (c.fel F a i)) d k s
/-- VNEG (R172). -/
def execVnegF (d a : Reg) (k : Reg3) (t : BitVec 2) (s : State) : Out :=
  let F := fmtOf2 t.toNat
  vfp F (fun c i => F.signOp (fun v => v ^^^ F.sign true) (c.fel F a i)) d k s

/-- A fused multiply-add of elements, each rounded once (R174). -/
def vfma3 (f : Rm → Val → Val → Val → Exact) (d a b c3 : Reg) (k : Reg3) (t : BitVec 3) (s : State) : Out :=
  let F := fmtOf2 t.toNat
  vfp F (fun c i => F.deliver c.rm
    (f c.rm (F.decode (c.fel F a i)) (F.decode (c.fel F b i)) (F.decode (c.fel F c3 i)))) d k s

/-- VFMA (R174). -/
def execVfma (d a b c : Reg) (k : Reg3) (t : BitVec 3) (s : State) : Out := vfma3 fpFma d a b c k t s
/-- VFMS (R174). -/
def execVfms (d a b c : Reg) (k : Reg3) (t : BitVec 3) (s : State) : Out :=
  vfma3 (fun m x y z => fpFma m x y z.neg) d a b c k t s
/-- VFNMA (R174). -/
def execVfnma (d a b c : Reg) (k : Reg3) (t : BitVec 3) (s : State) : Out :=
  vfma3 (fun m x y z => fpFma m x.neg y z) d a b c k t s

/-! ## Compares (R175) -/

/-- The mask whose bit i is new i where the governing mask has it and i < n, else the old bit. -/
def maskedBits (n : Nat) (k old : KReg) (new : Nat → Bool) : KReg :=
  .ofNat 128 (buildNat 1 (fun i => if (if i < n ∧ active k i then new i else old.getLsbD i) then 1 else 0) 128)

/-- VCMP (R175). -/
def execVcmp (d a b : Reg) (k : Reg3) (t : BitVec 4) (cc : BitVec 4) (s : State) : Out :=
  s.doneA fun c =>
    let ty := t.toNat
    let w := widthOf ty
    let n := countOf w
    let one (i : Nat) : Bool × FpFlags :=
      let x := elemNat w (c.getV a) i
      let y := elemNat w (c.getV b) i
      if ty < 4 then (cond cc (.ofInt 64 (toSigned w x)) (.ofInt 64 (toSigned w y)), noFlags)
      else fcond cc.toNat ((fmtOf ty).decode x) ((fmtOf ty).decode y)
    (c.setK (low3 d) (maskedBits n (c.getK k) (c.getK (low3 d)) fun i => (one i).1)).raiseFlags
      (activeFlags n (c.getK k) fun i => (0, (one i).2))

/-! ## Reductions and scans (R177) -/

/-- The active elements of v[a], as leaves (R123). -/
def Ctx.leaves (c : Ctx) (ty : Nat) (a : Reg) (k : Reg3) : List (Option Nat) :=
  let w := widthOf ty
  (List.range (countOf w)).map fun i => if active (c.getK k) i then some (elemNat w (c.getV a) i) else none

/-- A reduction's result: element 0, the rest cleared (R177). -/
def Ctx.reduced (c : Ctx) (d : Reg) (w : Nat) (r : Nat × FpFlags) : Ctx :=
  (c.setV d (.ofNat 1024 (r.1 % 2 ^ w))).raiseFlags r.2

/-- The sum of the active elements (R123). -/
def reduceAdd (ty : Nat) (m : Rm) (l : List (Option Nat)) (start : Option Nat) : Nat × FpFlags :=
  if ty < 4 then ((l.filterMap id).foldl (· + ·) (start.getD 0), noFlags)
  else
    let F := fmtOf ty
    let r := treeRoot F m (Nat.log2 (countOf F.width)) l
    let root := r.1.getD 0
    match start with
    | none => (root, r.2)
    | some s => let t := F.addCodes m s root; (t.1, r.2.union t.2)

/-- VREDADD (R123, R177). -/
def execVredadd (d a b : Reg) (k : Reg3) (t : BitVec 3) (v : BitVec 1) (s : State) : Out :=
  s.doneA fun c =>
    let w := widthOf t.toNat
    c.reduced d w (reduceAdd t.toNat c.rm (c.leaves t.toNat a k)
      (if v = 1 then some (elemNat w (c.getV b) 0) else none))

/-- The greatest or least of the active elements (R124). -/
def reduceExtreme (max uns : Bool) (ty : Nat) (l : List Nat) : Nat × FpFlags :=
  if 4 ≤ ty then fpExtreme (fmtOf ty) max l
  else
    let w := widthOf ty
    let i := l.foldl (fun m x => let y := readInt w uns x; if (if max then m < y else y < m) then y else m)
      (if max then (if uns then 0 else -(2 ^ (w - 1))) else (if uns then 2 ^ w - 1 else 2 ^ (w - 1) - 1))
    (wrapInt w i, noFlags)

/-- VREDMAX (R124, R177). -/
def execVredmax (d a : Reg) (k : Reg3) (t : BitVec 3) (u : BitVec 1) (s : State) : Out :=
  s.doneA fun c => c.reduced d (widthOf t.toNat) (reduceExtreme true (u == 1) t.toNat ((c.leaves t.toNat a k).filterMap id))
/-- VREDMIN (R124, R177). -/
def execVredmin (d a : Reg) (k : Reg3) (t : BitVec 3) (u : BitVec 1) (s : State) : Out :=
  s.doneA fun c => c.reduced d (widthOf t.toNat) (reduceExtreme false (u == 1) t.toNat ((c.leaves t.toNat a k).filterMap id))

/-- The running sums of R125: the one so far, and the elements still to come; an inactive element gives no sum. -/
def scanSums (ty : Nat) (m : Rm) : Option Nat → List (Option Nat) → List (Option (Nat × FpFlags))
  | _, [] => []
  | acc, none :: r => none :: scanSums ty m acc r
  | acc, some x :: r =>
    let v : Nat × FpFlags := match acc with
      | none => if ty < 4 then (x, noFlags) else (fmtOf ty).lone x
      | some y => if ty < 4 then ((y + x) % 2 ^ widthOf ty, noFlags) else (fmtOf ty).addCodes m y x
    some v :: scanSums ty m (some v.1) r

/-- VSCANADD (R125, R177). -/
def execVscanadd (d a : Reg) (k : Reg3) (t : BitVec 3) (s : State) : Out :=
  s.doneA fun c =>
    let sums := scanSums t.toNat c.rm none (c.leaves t.toNat a k)
    let w := widthOf t.toNat
    c.fpBuild d k w (countOf w) fun i => ((sums.getD i none).getD (0, noFlags))

/-! ## Conversions (R179, R180) -/

/-- VCVT (R179). -/
def execVcvt (d a : Reg) (sat : BitVec 1) (ty : BitVec 4) (k : Reg3) (t : BitVec 4) (u : BitVec 1) (s : State) : Out :=
  s.doneA fun c =>
    let wS := widthOf t.toNat
    let wT := widthOf ty.toNat
    let n := 1024 / (if wS < wT then wT else wS)
    let f (i : Nat) := convert t.toNat ty.toNat (u == 1) (sat == 1) c.rm (elemNat wS (c.getV a) i)
    (c.setV d (build wT n fun i =>
      .ofNat wT (if active (c.getK k) i then (f i).1 else elemNat wT (c.getV d) i))).raiseFlags
      (activeFlags n (c.getK k) f)

/-- VPACK: narrow with clamping (R180). -/
def execVpack (d a b : Reg) (k : Reg3) (t : BitVec 4) (u : BitVec 1) (s : State) : Out :=
  s.doneA fun c =>
    let w := widthOf t.toNat
    let n := countOf w
    c.setV d (maskedBuild (w / 2) (2 * n) (c.getK k) (c.getV d) fun j =>
      let v := readInt w (u == 1) (if j < n then elemNat w (c.getV a) j else elemNat w (c.getV b) (j - n))
      if u = 1 then clampU (w / 2) v else clampS (w / 2) v)

/-- VUNPK: widen one half (R180). -/
def execVunpk (d a : Reg) (h : BitVec 1) (k : Reg3) (t : BitVec 4) (u : BitVec 1) (s : State) : Out :=
  s.doneA fun c =>
    let w := widthOf t.toNat
    let n := countOf (2 * w)
    c.setV d (maskedBuild (2 * w) n (c.getK k) (c.getV d) fun j =>
      wrapInt (2 * w) (readInt w (u == 1) (elemNat w (c.getV a) (j + h.toNat * n))))

/-! ## MX blocks (R181) -/

/-- The 32 source values of block b. -/
def Ctx.mxSource (c : Ctx) (S : Fmt) (a : Reg) (b : Nat) : List Val :=
  (List.range 32).map fun i => S.decode (c.fel S a (32 * b + i))

/-- The block image of R181's table: elements from byte 0, the scales from byte 64. -/
def mxImage (wF : Nat) (blocks : List (Nat × List Nat × FpFlags)) : Nat :=
  let codes := (blocks.map fun b => b.2.1).flatten
  let scales := blocks.map fun b => b.1
  buildNat wF (fun i => .ofNat wF (codes.getD i 0)) codes.length +
    buildNat 8 (fun i => .ofNat 8 (scales.getD i 0)) scales.length * 2 ^ 512

/-- VMXPACK (R120, R181). -/
def execVmxpack (d a : Reg) (f : BitVec 4) (t : BitVec 4) (s : State) : Out :=
  s.doneA fun c =>
    let S := fmtOf t.toNat
    let F := fmtOf f.toNat
    let blocks := (List.range (if t = 6 then 1 else 2)).map fun b => mxPack F c.rm (c.mxSource S a b)
    (c.setV d (.ofNat 1024 (mxImage F.width blocks))).raiseFlags
      (blocks.foldl (fun fl b => fl.union b.2.2) noFlags)

/-- VMXUNPK (R119, R181). -/
def execVmxunpk (d a : Reg) (f : BitVec 4) (k : Reg3) (t : BitVec 4) (s : State) : Out :=
  let T := fmtOf t.toNat
  let F := fmtOf f.toNat
  vfp T (fun c i => mxExpand F T c.rm (elemNat 8 (c.getV a) (64 + i / 32)) (elemNat F.width (c.getV a) i)) d k s

/-! ## Special functions (R182) -/

/-- One rounding with RNE of the exact value (R121). -/
def vspecial (f : Special) (d a : Reg) (k : Reg3) (t : BitVec 2) (s : State) : Out :=
  let F := fmtOf2 t.toNat
  vfp F (fun c i => F.special f (c.fel F a i)) d k s

/-- VRCP (R121, R122). -/
def execVrcp (d a : Reg) (k : Reg3) (t : BitVec 2) (s : State) : Out := vspecial .rcp d a k t s
/-- VRSQ (R121, R122). -/
def execVrsq (d a : Reg) (k : Reg3) (t : BitVec 2) (s : State) : Out := vspecial .rsq d a k t s
/-- VEXP2 (R121, R122). -/
def execVexp2 (d a : Reg) (k : Reg3) (t : BitVec 2) (s : State) : Out := vspecial .exp2 d a k t s
/-- VLOG2 (R121, R122). -/
def execVlog2 (d a : Reg) (k : Reg3) (t : BitVec 2) (s : State) : Out := vspecial .log2 d a k t s
/-- VSIN (R121, R122). -/
def execVsin (d a : Reg) (k : Reg3) (t : BitVec 2) (s : State) : Out := vspecial .sin d a k t s
/-- VCOS (R121, R122). -/
def execVcos (d a : Reg) (k : Reg3) (t : BitVec 2) (s : State) : Out := vspecial .cos d a k t s
/-- VTANH (R121, R122). -/
def execVtanh (d a : Reg) (k : Reg3) (t : BitVec 2) (s : State) : Out := vspecial .tanh d a k t s

end Sys2Proof.Machine
end

