-- ==== Sys2Proof/Machine/Dispatch.lean ====
section
/-! DEFINITION. One arm per constructor of Instr: the meaning of each row of the opcode table. -/

namespace Sys2Proof.Machine

/-- Execute one instruction, or one event of the part, in a state. -/
def exec (i : Instr) (s : State) : Host.Outcome State Fault Refusal :=
  match i with
  | .anop => Sys2Proof.Machine.execAnop s
  | .cnop => Sys2Proof.Machine.execCnop s
  | .pause => Sys2Proof.Machine.execPause s
  | .prep b o h => Sys2Proof.Machine.execPrep b o h s
  | .lprep b h imm => Sys2Proof.Machine.execLprep b h imm s
  | .prepx d a h => Sys2Proof.Machine.execPrepx d a h s
  | .bclr d a => Sys2Proof.Machine.execBclr d a s
  | .movxb d a => Sys2Proof.Machine.execMovxb d a s
  | .br b p n => Sys2Proof.Machine.execBr b p n s
  | .call b p n => Sys2Proof.Machine.execCall b p n s
  | .trap c => Sys2Proof.Machine.execTrap c s
  | .brk c => Sys2Proof.Machine.execBrk c s
  | .eret => Sys2Proof.Machine.execEret s
  | .uret => Sys2Proof.Machine.execUret s
  | .wait => Sys2Proof.Machine.execWait s
  | .halt => Sys2Proof.Machine.execHalt s
  | .ifence => Sys2Proof.Machine.execIfence s
  | .getcw d n => Sys2Proof.Machine.execGetcw d n s
  | .setcw a n => Sys2Proof.Machine.execSetcw a n s
  | .swapcw d a n => Sys2Proof.Machine.execSwapcw d a n s
  | .tlbinvAll => Sys2Proof.Machine.execTlbinvAll s
  | .tlbinvAsn b => Sys2Proof.Machine.execTlbinvAsn b s
  | .tlbinvPage a b => Sys2Proof.Machine.execTlbinvPage a b s
  | .tlbinvVa a => Sys2Proof.Machine.execTlbinvVa a s
  | .rdtime d => Sys2Proof.Machine.execRdtime d s
  | .waituntil d a => Sys2Proof.Machine.execWaituntil d a s
  | .ctxsave a => Sys2Proof.Machine.execCtxsave a s
  | .ctxload a => Sys2Proof.Machine.execCtxload a s
  | .li d imm => Sys2Proof.Machine.execLi d imm s
  | .add d a b => Sys2Proof.Machine.execAdd d a b s
  | .sub d a b => Sys2Proof.Machine.execSub d a b s
  | .and d a b => Sys2Proof.Machine.execAnd d a b s
  | .or d a b => Sys2Proof.Machine.execOr d a b s
  | .xor d a b => Sys2Proof.Machine.execXor d a b s
  | .andn d a b => Sys2Proof.Machine.execAndn d a b s
  | .shl d a b => Sys2Proof.Machine.execShl d a b s
  | .shr d a b => Sys2Proof.Machine.execShr d a b s
  | .sar d a b => Sys2Proof.Machine.execSar d a b s
  | .rotl d a b => Sys2Proof.Machine.execRotl d a b s
  | .min d a b => Sys2Proof.Machine.execMin d a b s
  | .max d a b => Sys2Proof.Machine.execMax d a b s
  | .minu d a b => Sys2Proof.Machine.execMinu d a b s
  | .maxu d a b => Sys2Proof.Machine.execMaxu d a b s
  | .addi d a imm => Sys2Proof.Machine.execAddi d a imm s
  | .andi d a imm => Sys2Proof.Machine.execAndi d a imm s
  | .ori d a imm => Sys2Proof.Machine.execOri d a imm s
  | .xori d a imm => Sys2Proof.Machine.execXori d a imm s
  | .shli d a n => Sys2Proof.Machine.execShli d a n s
  | .shri d a n => Sys2Proof.Machine.execShri d a n s
  | .sari d a n => Sys2Proof.Machine.execSari d a n s
  | .rotli d a n => Sys2Proof.Machine.execRotli d a n s
  | .movi d h imm => Sys2Proof.Machine.execMovi d h imm s
  | .lih d h imm => Sys2Proof.Machine.execLih d h imm s
  | .mul d a b => Sys2Proof.Machine.execMul d a b s
  | .mulh d a b => Sys2Proof.Machine.execMulh d a b s
  | .mulhu d a b => Sys2Proof.Machine.execMulhu d a b s
  | .div d a b => Sys2Proof.Machine.execDiv d a b s
  | .divu d a b => Sys2Proof.Machine.execDivu d a b s
  | .rem d a b => Sys2Proof.Machine.execRem d a b s
  | .remu d a b => Sys2Proof.Machine.execRemu d a b s
  | .clz d a => Sys2Proof.Machine.execClz d a s
  | .ctz d a => Sys2Proof.Machine.execCtz d a s
  | .popc d a => Sys2Proof.Machine.execPopc d a s
  | .bswap d a => Sys2Proof.Machine.execBswap d a s
  | .brev d a => Sys2Proof.Machine.execBrev d a s
  | .bfx d a l h p => Sys2Proof.Machine.execBfx d a l h p s
  | .bfxu d a l h p => Sys2Proof.Machine.execBfxu d a l h p s
  | .bfi d a l h p => Sys2Proof.Machine.execBfi d a l h p s
  | .lea d a b s0 => Sys2Proof.Machine.execLea d a b s0 s
  | .addw d a b => Sys2Proof.Machine.execAddw d a b s
  | .subw d a b => Sys2Proof.Machine.execSubw d a b s
  | .mulw d a b => Sys2Proof.Machine.execMulw d a b s
  | .shlw d a b => Sys2Proof.Machine.execShlw d a b s
  | .shrw d a b => Sys2Proof.Machine.execShrw d a b s
  | .sarw d a b => Sys2Proof.Machine.execSarw d a b s
  | .sel d a b n q => Sys2Proof.Machine.execSel d a b n q s
  | .cmp p a b c => Sys2Proof.Machine.execCmp p a b c s
  | .cmpi p a imm c => Sys2Proof.Machine.execCmpi p a imm c s
  | .pand d a b => Sys2Proof.Machine.execPand d a b s
  | .por d a b => Sys2Proof.Machine.execPor d a b s
  | .pxor d a b => Sys2Proof.Machine.execPxor d a b s
  | .pandn d a b => Sys2Proof.Machine.execPandn d a b s
  | .pmov d a => Sys2Proof.Machine.execPmov d a s
  | .ptox d a => Sys2Proof.Machine.execPtox d a s
  | .fadd d a b r t => Sys2Proof.Machine.execFadd d a b r t s
  | .fsub d a b r t => Sys2Proof.Machine.execFsub d a b r t s
  | .fmul d a b r t => Sys2Proof.Machine.execFmul d a b r t s
  | .fdiv d a b r t => Sys2Proof.Machine.execFdiv d a b r t s
  | .fsqrt d a r t => Sys2Proof.Machine.execFsqrt d a r t s
  | .fmin d a b t => Sys2Proof.Machine.execFmin d a b t s
  | .fmax d a b t => Sys2Proof.Machine.execFmax d a b t s
  | .fcmp d a b c t => Sys2Proof.Machine.execFcmp d a b c t s
  | .fcvt d a b s0 r t => Sys2Proof.Machine.execFcvt d a b s0 r t s
  | .fclass d a t => Sys2Proof.Machine.execFclass d a t s
  | .ffma d a b c t => Sys2Proof.Machine.execFfma d a b c t s
  | .vaddI d a b k t => Sys2Proof.Machine.execVaddI d a b k t s
  | .vsubI d a b k t => Sys2Proof.Machine.execVsubI d a b k t s
  | .vmulI d a b k t => Sys2Proof.Machine.execVmulI d a b k t s
  | .vminI d a b k t => Sys2Proof.Machine.execVminI d a b k t s
  | .vmaxI d a b k t => Sys2Proof.Machine.execVmaxI d a b k t s
  | .vminu d a b k t => Sys2Proof.Machine.execVminu d a b k t s
  | .vmaxu d a b k t => Sys2Proof.Machine.execVmaxu d a b k t s
  | .vaddss d a b k t => Sys2Proof.Machine.execVaddss d a b k t s
  | .vaddsu d a b k t => Sys2Proof.Machine.execVaddsu d a b k t s
  | .vsubss d a b k t => Sys2Proof.Machine.execVsubss d a b k t s
  | .vsubsu d a b k t => Sys2Proof.Machine.execVsubsu d a b k t s
  | .vabsI d a k t => Sys2Proof.Machine.execVabsI d a k t s
  | .vnegI d a k t => Sys2Proof.Machine.execVnegI d a k t s
  | .vavgu d a b k t => Sys2Proof.Machine.execVavgu d a b k t s
  | .vand d a b k t => Sys2Proof.Machine.execVand d a b k t s
  | .vor d a b k t => Sys2Proof.Machine.execVor d a b k t s
  | .vxor d a b k t => Sys2Proof.Machine.execVxor d a b k t s
  | .vandn d a b k t => Sys2Proof.Machine.execVandn d a b k t s
  | .vnot d a k t => Sys2Proof.Machine.execVnot d a k t s
  | .vshl d a b k t => Sys2Proof.Machine.execVshl d a b k t s
  | .vshr d a b k t => Sys2Proof.Machine.execVshr d a b k t s
  | .vsar d a b k t => Sys2Proof.Machine.execVsar d a b k t s
  | .vshls d a b k t => Sys2Proof.Machine.execVshls d a b k t s
  | .vshrs d a b k t => Sys2Proof.Machine.execVshrs d a b k t s
  | .vsars d a b k t => Sys2Proof.Machine.execVsars d a b k t s
  | .vrotl d a b k t => Sys2Proof.Machine.execVrotl d a b k t s
  | .vaddF d a b k t => Sys2Proof.Machine.execVaddF d a b k t s
  | .vsubF d a b k t => Sys2Proof.Machine.execVsubF d a b k t s
  | .vmulF d a b k t => Sys2Proof.Machine.execVmulF d a b k t s
  | .vminF d a b k t => Sys2Proof.Machine.execVminF d a b k t s
  | .vmaxF d a b k t => Sys2Proof.Machine.execVmaxF d a b k t s
  | .vabsF d a k t => Sys2Proof.Machine.execVabsF d a k t s
  | .vnegF d a k t => Sys2Proof.Machine.execVnegF d a k t s
  | .vfma d a b c k t => Sys2Proof.Machine.execVfma d a b c k t s
  | .vfms d a b c k t => Sys2Proof.Machine.execVfms d a b c k t s
  | .vfnma d a b c k t => Sys2Proof.Machine.execVfnma d a b c k t s
  | .vcmp d a b k t c => Sys2Proof.Machine.execVcmp d a b k t c s
  | .vsel d a b k t => Sys2Proof.Machine.execVsel d a b k t s
  | .vbcast d a k t => Sys2Proof.Machine.execVbcast d a k t s
  | .vextr d a b t => Sys2Proof.Machine.execVextr d a b t s
  | .vins d a b t => Sys2Proof.Machine.execVins d a b t s
  | .vperm d a b k t => Sys2Proof.Machine.execVperm d a b k t s
  | .vslide d a b k t => Sys2Proof.Machine.execVslide d a b k t s
  | .vzip d a b k t => Sys2Proof.Machine.execVzip d a b k t s
  | .vunzip d a b k t => Sys2Proof.Machine.execVunzip d a b k t s
  | .vredadd d a b k t v => Sys2Proof.Machine.execVredadd d a b k t v s
  | .vredmax d a k t u => Sys2Proof.Machine.execVredmax d a k t u s
  | .vredmin d a k t u => Sys2Proof.Machine.execVredmin d a k t u s
  | .vscanadd d a k t => Sys2Proof.Machine.execVscanadd d a k t s
  | .vcvt d a x y k t u => Sys2Proof.Machine.execVcvt d a x y k t u s
  | .vpack d a b k t u => Sys2Proof.Machine.execVpack d a b k t u s
  | .vunpk d a h k t u => Sys2Proof.Machine.execVunpk d a h k t u s
  | .vmxpack d a f t => Sys2Proof.Machine.execVmxpack d a f t s
  | .vmxunpk d a f k t => Sys2Proof.Machine.execVmxunpk d a f k t s
  | .vdiv d a b k t => Sys2Proof.Machine.execVdiv d a b k t s
  | .vsqrt d a k t => Sys2Proof.Machine.execVsqrt d a k t s
  | .vrcp d a k t => Sys2Proof.Machine.execVrcp d a k t s
  | .vrsq d a k t => Sys2Proof.Machine.execVrsq d a k t s
  | .vexp2 d a k t => Sys2Proof.Machine.execVexp2 d a k t s
  | .vlog2 d a k t => Sys2Proof.Machine.execVlog2 d a k t s
  | .vsin d a k t => Sys2Proof.Machine.execVsin d a k t s
  | .vcos d a k t => Sys2Proof.Machine.execVcos d a k t s
  | .vtanh d a k t => Sys2Proof.Machine.execVtanh d a k t s
  | .vdot4 d a b k => Sys2Proof.Machine.execVdot4 d a b k s
  | .vdot4U d a b k => Sys2Proof.Machine.execVdot4U d a b k s
  | .vdot4Su d a b k => Sys2Proof.Machine.execVdot4Su d a b k s
  | .vclmul d a b k t => Sys2Proof.Machine.execVclmul d a b k t s
  | .vclmulH d a b k t => Sys2Proof.Machine.execVclmulH d a b k t s
  | .vmulh d a b k t => Sys2Proof.Machine.execVmulh d a b k t s
  | .vmulhU d a b k t => Sys2Proof.Machine.execVmulhU d a b k t s
  | .kand d a b => Sys2Proof.Machine.execKand d a b s
  | .kor d a b => Sys2Proof.Machine.execKor d a b s
  | .kxor d a b => Sys2Proof.Machine.execKxor d a b s
  | .knot d a => Sys2Proof.Machine.execKnot d a s
  | .kpopc d a t => Sys2Proof.Machine.execKpopc d a t s
  | .kfirst d a t => Sys2Proof.Machine.execKfirst d a t s
  | .kmov d a => Sys2Proof.Machine.execKmov d a s
  | .kmovX d a b => Sys2Proof.Machine.execKmovX d a b s
  | .kmovLo d a => Sys2Proof.Machine.execKmovLo d a s
  | .kmovHi d a => Sys2Proof.Machine.execKmovHi d a s
  | .ldb d b e => Sys2Proof.Machine.execLdb d b e s
  | .ldbu d b e => Sys2Proof.Machine.execLdbu d b e s
  | .ldh d b e => Sys2Proof.Machine.execLdh d b e s
  | .ldhu d b e => Sys2Proof.Machine.execLdhu d b e s
  | .ldw d b e => Sys2Proof.Machine.execLdw d b e s
  | .ldwu d b e => Sys2Proof.Machine.execLdwu d b e s
  | .ldd d b e => Sys2Proof.Machine.execLdd d b e s
  | .stb s0 b e => Sys2Proof.Machine.execStb s0 b e s
  | .sth s0 b e => Sys2Proof.Machine.execSth s0 b e s
  | .stw s0 b e => Sys2Proof.Machine.execStw s0 b e s
  | .std s0 b e => Sys2Proof.Machine.execStd s0 b e s
  | .ldv d b k e => Sys2Proof.Machine.execLdv d b k e s
  | .stv s0 b k e => Sys2Proof.Machine.execStv s0 b k e s
  | .ldvs d a b k w => Sys2Proof.Machine.execLdvs d a b k w s
  | .stvs d a b k w => Sys2Proof.Machine.execStvs d a b k w s
  | .ldvg d a b c k w => Sys2Proof.Machine.execLdvg d a b c k w s
  | .stvx d a b c k w => Sys2Proof.Machine.execStvx d a b c k w s
  | .ldnc d b z e => Sys2Proof.Machine.execLdnc d b z e s
  | .ldaq s0 o k a b => Sys2Proof.Machine.execLdaq s0 o k a b s
  | .strl s0 o k a b => Sys2Proof.Machine.execStrl s0 o k a b s
  | .amo s0 o w a b r f => Sys2Proof.Machine.execAmo s0 o w a b r f s
  | .cas s0 o w a b r => Sys2Proof.Machine.execCas s0 o w a b r s
  | .fence s0 o => Sys2Proof.Machine.execFence s0 o s
  | .afence a => Sys2Proof.Machine.execAfence a s
  | .cflush a => Sys2Proof.Machine.execCflush a s
  | .cclean a => Sys2Proof.Machine.execCclean a s
  | .cinv a => Sys2Proof.Machine.execCinv a s
  | .czero a => Sys2Proof.Machine.execCzero a s
  | .pref a l => Sys2Proof.Machine.execPref a l s
  | .tokwait s0 k a b => Sys2Proof.Machine.execTokwait s0 k a b s
  | .msend d a b => Sys2Proof.Machine.execMsend d a b s
  | .spawn d a => Sys2Proof.Machine.execSpawn d a s
  | .exit => Sys2Proof.Machine.execExit s
  | .wcfg a c p => Sys2Proof.Machine.execWcfg a c p s
  | .wget d c p => Sys2Proof.Machine.execWget d c p s
  | .mkinit a m p => Sys2Proof.Machine.execMkinit a m p s
  | .mkarr d m => Sys2Proof.Machine.execMkarr d m s
  | .mkwait a m p => Sys2Proof.Machine.execMkwait a m p s
  | .tkwait a => Sys2Proof.Machine.execTkwait a s
  | .tkpoll d a => Sys2Proof.Machine.execTkpoll d a s
  | .copy c s0 d a g r q => Sys2Proof.Machine.execCopy c s0 d a g r q s
  | .cpfl l c s0 a g r q => Sys2Proof.Machine.execCpfl l c s0 a g r q s
  | .tcfg q f a imm => Sys2Proof.Machine.execTcfg q f a imm s
  | .tzero d => Sys2Proof.Machine.execTzero d s
  | .trel => Sys2Proof.Machine.execTrel s
  | .tld d b g => Sys2Proof.Machine.execTld d b g s
  | .tst a b g t => Sys2Proof.Machine.execTst a b g t s
  | .tstAmax a b g t w s0 => Sys2Proof.Machine.execTstAmax a b g t w s0 s
  | .tmma d c a ga b gb am bm mx sa sb => Sys2Proof.Machine.execTmma d c a ga b gb am bm mx sa sb s
  | .tmmag d c h a ga b gb mx sa sb => Sys2Proof.Machine.execTmmag d c h a ga b gb mx sa sb s
  | .tmmap t a ga b gb mx sa sb => Sys2Proof.Machine.execTmmap t a ga b gb mx sa sb s
  | .tadd d a b => Sys2Proof.Machine.execTadd d a b s
  | .tsclRow d a x => Sys2Proof.Machine.execTsclRow d a x s
  | .tsclCol d a x => Sys2Proof.Machine.execTsclCol d a x s
  | .tcvt d a h t => Sys2Proof.Machine.execTcvt d a h t s
  | .ttr d a t => Sys2Proof.Machine.execTtr d a t s
  | .trowv a x y => Sys2Proof.Machine.execTrowv a x y s
  | .tvrow d x y => Sys2Proof.Machine.execTvrow d x y s
  | .tamax a x => Sys2Proof.Machine.execTamax a x s
  | .tsave b => Sys2Proof.Machine.execTsave b s
  | .trstr q b => Sys2Proof.Machine.execTrstr q b s
  | .takeInterrupt => Sys2Proof.Machine.execTakeInterrupt s
  | .timecmpReached => Sys2Proof.Machine.execTimecmpReached s
  | .deferredFailDue => Sys2Proof.Machine.execDeferredFailDue s
  | .deferredRemoteStoreTrap => Sys2Proof.Machine.execDeferredRemoteStoreTrap s
  | .fenceDeliveryFailure => Sys2Proof.Machine.execFenceDeliveryFailure s
  | .launchRoute => Sys2Proof.Machine.execLaunchRoute s
  | .routerFill => Sys2Proof.Machine.execRouterFill s
  | .launchClaim => Sys2Proof.Machine.execLaunchClaim s
  | .threadStart => Sys2Proof.Machine.execThreadStart s
  | .launchEntryAging => Sys2Proof.Machine.execLaunchEntryAging s
  | .exitDrainComplete => Sys2Proof.Machine.execExitDrainComplete s
  | .completionMessageTimeout => Sys2Proof.Machine.execCompletionMessageTimeout s
  | .parkedWake => Sys2Proof.Machine.execParkedWake s
  | .waituntilExpiry => Sys2Proof.Machine.execWaituntilExpiry s
  | .issueArbitrate => Sys2Proof.Machine.execIssueArbitrate s
  | .urgentMark => Sys2Proof.Machine.execUrgentMark s
  | .fusedFetch => Sys2Proof.Machine.execFusedFetch s
  | .mispredictSquash => Sys2Proof.Machine.execMispredictSquash s
  | .storePerform => Sys2Proof.Machine.execStorePerform s
  | .amaxMerge => Sys2Proof.Machine.execAmaxMerge s
  | .fabricResponse => Sys2Proof.Machine.execFabricResponse s
  | .ticketNotice => Sys2Proof.Machine.execTicketNotice s
  | .tileGrant => Sys2Proof.Machine.execTileGrant s
  | .tileStepComplete => Sys2Proof.Machine.execTileStepComplete s
  | .tmmapPair => Sys2Proof.Machine.execTmmapPair s
  | .tmmapPairTimeout => Sys2Proof.Machine.execTmmapPairTimeout s
  | .gaugeWindow => Sys2Proof.Machine.execGaugeWindow s
  | .copyUnit => Sys2Proof.Machine.execCopyUnit s
  | .cpflFill => Sys2Proof.Machine.execCpflFill s
  | .sDirtyWriteback => Sys2Proof.Machine.execSDirtyWriteback s
  | .cacheEviction => Sys2Proof.Machine.execCacheEviction s
  | .coherenceRequest => Sys2Proof.Machine.execCoherenceRequest s
  | .hostMemRequest => Sys2Proof.Machine.execHostMemRequest s
  | .icsend => Sys2Proof.Machine.execIcsend s
  | .icsendDeliver => Sys2Proof.Machine.execIcsendDeliver s
  | .gangStopTrigger => Sys2Proof.Machine.execGangStopTrigger s
  | .gangRelease => Sys2Proof.Machine.execGangRelease s
  | .shootdownRequest => Sys2Proof.Machine.execShootdownRequest s
  | .shootdownComplete => Sys2Proof.Machine.execShootdownComplete s
  | .hdmCommit => Sys2Proof.Machine.execHdmCommit s
  | .mailboxDoorbell => Sys2Proof.Machine.execMailboxDoorbell s
  | .launchEntry => Sys2Proof.Machine.execLaunchEntry s
  | .serviceEntry => Sys2Proof.Machine.execServiceEntry s
  | .wakeEntry => Sys2Proof.Machine.execWakeEntry s
  | .mbsvc => Sys2Proof.Machine.execMbsvc s
  | .mailboxReset => Sys2Proof.Machine.execMailboxReset s
  | .mailboxOpen => Sys2Proof.Machine.execMailboxOpen s
  | .versionWrite => Sys2Proof.Machine.execVersionWrite s
  | .fabricRequest => Sys2Proof.Machine.execFabricRequest s
  | .fabricReplay => Sys2Proof.Machine.execFabricReplay s
  | .fabricSkip => Sys2Proof.Machine.execFabricSkip s
  | .fabricCancel => Sys2Proof.Machine.execFabricCancel s
  | .tkdone => Sys2Proof.Machine.execTkdone s
  | .niuHeldAdmit => Sys2Proof.Machine.execNiuHeldAdmit s
  | .niuBusy => Sys2Proof.Machine.execNiuBusy s
  | .busyReceive => Sys2Proof.Machine.execBusyReceive s
  | .busyBackoffExpiry => Sys2Proof.Machine.execBusyBackoffExpiry s
  | .portRetrainEnter => Sys2Proof.Machine.execPortRetrainEnter s
  | .portUp => Sys2Proof.Machine.execPortUp s
  | .portFailed => Sys2Proof.Machine.execPortFailed s
  | .portRetrain => Sys2Proof.Machine.execPortRetrain s
  | .portFailureNotice => Sys2Proof.Machine.execPortFailureNotice s
  | .syncSend => Sys2Proof.Machine.execSyncSend s
  | .syncMessage => Sys2Proof.Machine.execSyncMessage s
  | .pdelayMeasure => Sys2Proof.Machine.execPdelayMeasure s
  | .timeLock => Sys2Proof.Machine.execTimeLock s
  | .timeLockLoss => Sys2Proof.Machine.execTimeLockLoss s
  | .ptset => Sys2Proof.Machine.execPtset s
  | .correctedError => Sys2Proof.Machine.execCorrectedError s
  | .uncorrectableError => Sys2Proof.Machine.execUncorrectableError s
  | .patrolScrub => Sys2Proof.Machine.execPatrolScrub s
  | .tnkill => Sys2Proof.Machine.execTnkill s
  | .resetRelease => Sys2Proof.Machine.execResetRelease s
  | .imageVerify => Sys2Proof.Machine.execImageVerify s
  | .safelight => Sys2Proof.Machine.execSafelight s
  | .dieReady => Sys2Proof.Machine.execDieReady s
  | .hbmPairReady => Sys2Proof.Machine.execHbmPairReady s
  | .recover => Sys2Proof.Machine.execRecover s
  | .commit => Sys2Proof.Machine.execCommit s
  | .attest => Sys2Proof.Machine.execAttest s
  | .lcadv => Sys2Proof.Machine.execLcadv s
  | .revoke => Sys2Proof.Machine.execRevoke s
  | .darkroomUnknownCommand => Sys2Proof.Machine.execDarkroomUnknownCommand s
  | .srvlock => Sys2Proof.Machine.execSrvlock s
  | .shutterFrame => Sys2Proof.Machine.execShutterFrame s
  | .shutterPinFault => Sys2Proof.Machine.execShutterPinFault s
  | .shtin => Sys2Proof.Machine.execShtin s
  | .shutterI3cWrite => Sys2Proof.Machine.execShutterI3cWrite s
  | .powerManagerTick => Sys2Proof.Machine.execPowerManagerTick s
  | .voltageSettled => Sys2Proof.Machine.execVoltageSettled s
  | .pfail => Sys2Proof.Machine.execPfail s
  | .pfailStopTimeout => Sys2Proof.Machine.execPfailStopTimeout s
  | .pfstatClear => Sys2Proof.Machine.execPfstatClear s
  | .registerWrite => Sys2Proof.Machine.execRegisterWrite s
  | .illegalInstruction => Sys2Proof.Machine.execIllegalInstruction s
  | .hostLinkTrained => Sys2Proof.Machine.execHostLinkTrained s
  | .hostLinkDown => Sys2Proof.Machine.execHostLinkDown s
  | .agentDied => Sys2Proof.Machine.execAgentDied s
  | .flitCrcFailure => Sys2Proof.Machine.execFlitCrcFailure s

end Sys2Proof.Machine
end

