-- ==== Sys2Proof/Machine/Step.lean ====
section
/-! DEFINITION. One step of the package: the next input or event of the agenda, else the next instruction of the context
whose turn it is; and placing an instruction where the next step fetches it. -/

namespace Sys2Proof.Machine

/-- An event happens: exec of its row, its operands in hand. -/
def happen (s : State) (e : Event) : Host.Outcome State Fault Refusal := exec e.row { s with now := some e }

/-- One step. -/
def step (s : State) : Host.Outcome State Fault Refusal :=
  match s.agenda with
  | .event e :: r => if s.deaf e then .next { s with agenda := r } else happen { s with agenda := r } e
  | .own e :: r => if s.deaf e then .next { s with agenda := r } else happen { s with agenda := r } e
  | .elapse ns cycles :: r => .next ({ s with agenda := r }.elapse ns cycles)
  | .peerWrite a d :: r => .next ({ s with agenda := r }.peerWrite a d)
  | [] =>
    match s.choose with
    | .idle => .next s.stall
    | .event e => happen s e
    | .run i t => exec i t
    | .illegal w t => happen t (.illegalInstruction w)
    | .check => .next (s.takeCheck s.cur).yieldTurn
    | .fetchStop e => s.fetchStop e
    | .cycle => .next s.nextCycle

/-- The state with a word of the opcode table where the next step fetches: the running context is in firmware mode, its
bundle address in HBM that is ready, the agenda empty, and the arbiter has chosen it (R281). It stands for loading a program from outside.
DESIGN CHOICE, log 2. -/
def State.withFetchWord (s : State) (nbits w : Nat) : State :=
  let (bundle, slotA) := tableBundle nbits w
  let x := s.me
  let pc := match s.region x.pc.toNat with
    | .hbm _ => x.pc
    | _ => .ofNat 64 s.dev.hbmBase
  let off := pc.toNat - s.dev.hbmBase
  let die := homeDie off
  let x := { x with st := .running, park := none, pc := pc, slotA := slotA, phase := .fetch, asked := false, checks := []
                    fails := if s.failDue s.cur then [] else x.fails, cw := { x.cw with status := x.cw.status ||| 3 } }
  let s := { s with agenda := [], turns := [s.cur], power := { s.power with drain := .none }
                    dev := { s.dev with gsSnap := false }, boot := { s.boot with
    ready := (s.boot.ready ||| ((1 : Dword) <<< (9 + die))) &&& ~~~((1 : Dword) <<< (33 + die)) } }
  let s := ((s.settlePin (off / 128)).setCtx s.cur x).clearPoison off
  let s := s.modCore (coreOf s.cur) fun k => { k with
    icache := k.icache.filter fun e => e.line != off / 128
    slots := [(ctxInCore s.cur, slotsPerCycle)] }
  s.writeMem (cellsAt off (bytesOf 8 bundle))

end Sys2Proof.Machine
end

