-- ==== Sys2Proof/Safety.lean ====
section
/-! DEFINITION. The terms in which claims are stated: what a safe run is, what an instruction leaves alone, when it
completes, and what every step keeps. -/

namespace Sys2Proof.Safety

open Sys2Proof.Machine

/-! ## Runs -/

/-- t follows s in one step. -/
def Next (s t : State) : Prop := step s = .next t

/-- The states a run from s passes through. -/
inductive Reaches (s : State) : State → Prop where
  | refl : Reaches s s
  | step {t u : State} : Reaches s t → Next t u → Reaches s u

/-- The step goes on: neither a fault nor a refusal. -/
def GoesOn (s : State) : Prop := ∃ t, Next s t

/-- A run is safe when every state it passes through goes on. -/
def Safe (s : State) : Prop := ∀ t, Reaches s t → GoesOn t

/-- A property that every step keeps. -/
def Kept (p : State → Prop) : Prop := ∀ s t, p s → Next s t → p t

/-! ## What an instruction leaves alone -/

/-- t is as s outside the running context, its core, memory and the order of turns: every other context and core, every skein,
the memory-side caches and the home directory, the package's devices, the network interface, the error and tenant registers, start and security, power,
the agenda, the event in hand, the outputs, the free-value counter and the cycle count. -/
structure ElseSame (s t : State) : Prop where
  contexts : ∀ c, c ≠ s.cur → t.ctx c = s.ctx c
  cores : ∀ k, k ≠ coreOf s.cur → t.core k = s.core k
  skeins : ∀ k, t.skein k = s.skein k
  msc : t.msc = s.msc
  away : t.away = s.away
  dev : t.dev = s.dev
  niu : t.niu = s.niu
  ras : t.ras = s.ras
  boot : t.boot = s.boot
  power : t.power = s.power
  agenda : t.agenda = s.agenda
  now : t.now = s.now
  out : t.out = s.out
  free : t.free = s.free
  cyc : t.cyc = s.cyc

/-- Every byte of memory and the poison list are as they were. -/
structure MemorySame (s t : State) : Prop where
  bytes : ∀ a, readCell t.mem a = readCell s.mem a
  poison : t.poison = s.poison

/-- t is as s outside the running context, its core and the order of turns, every byte of memory included. -/
structure OnlyContext (s t : State) : Prop extends ElseSame s t, MemorySame s t

/-- Step 1 of the running context's bundle is done: the context is c, step 2 comes next, and step 3 will do x; nothing else
differs. -/
structure StepOneEnds (s t : State) (c : Ctx) (x : Xfer) : Prop extends OnlyContext s t where
  me : t.ctx s.cur = { c with phase := .second, xfer := x }
  core : t.core (coreOf s.cur) = s.core (coreOf s.cur)
  turns : t.turns = s.turns

/-- Step 1 is done, and the bundle at its address + 8 will follow. -/
abbrev StepOneDone (s t : State) (c : Ctx) : Prop := StepOneEnds s t c .next

/-- The running context's bundle is done: the context is c after step 3 (R77), the core has counted a retired bundle, and the
turn has passed; nothing else differs. -/
structure BundleDone (s t : State) (c : Ctx) : Prop extends OnlyContext s t where
  me : t.ctx s.cur = c.transfer
  core : t.core (coreOf s.cur) = (s.core (coreOf s.cur)).retire
  turns : t.turns = s.yieldTurn.turns

/-- The A word i completes: the running context becomes c and goes through step 3; nothing else differs. -/
def Completes (i : Instr) (s : State) (c : Ctx) : Prop := ∃ t, exec i s = .next t ∧ BundleDone s t c

/-- The C word i completes in step 1 without reading or writing memory: the running context becomes c. -/
def CompletesC (i : Instr) (s : State) (c : Ctx) : Prop := ∃ t, exec i s = .next t ∧ StepOneDone s t c

/-- The long instruction i completes without reading or writing memory: the running context becomes c and goes on to the
bundle at its address + 8 (R76). -/
def CompletesLong (i : Instr) (s : State) (c : Ctx) : Prop := Completes i s { c with xfer := .next }

/-- The A word i writes v to x[d], or nothing where d is 0 (R44), and completes. -/
def WritesX (i : Instr) (s : State) (d : Reg) (v : Dword) : Prop := Completes i s (s.me.setX d v)

/-- The A word i writes q to p[d], or nothing where d is 0 (R44), and completes. -/
def WritesP (i : Instr) (s : State) (d : Reg3) (q : Bool) : Prop := Completes i s (s.me.setP d q)

/-- The A word i writes v to k[d], or nothing where d is 0 (R44), and completes. -/
def WritesK (i : Instr) (s : State) (d : Reg3) (v : KReg) : Prop := Completes i s (s.me.setK d v)

/-- t differs from s only in which lines the caches hold and in what state, in what the directories track, and in the choice of victims: in
no S line of an L1, no instruction line of another core, no byte of memory and no register. -/
structure CachesOnly (s t : State) : Prop where
  core : t.core (coreOf s.cur) = { s.core (coreOf s.cur) with
    l1 := (t.core (coreOf s.cur)).l1, icache := (t.core (coreOf s.cur)).icache }
  cores : ∀ k, k ≠ coreOf s.cur → t.core k = { s.core k with l1 := (t.core k).l1 }
  sLines : ∀ k, (t.core k).l1.filter (·.s) = (s.core k).l1.filter (·.s)
  skeins : ∀ k, t.skein k = { s.skein k with sc := (t.skein k).sc }
  rest : t = { s with cores := t.cores, skeins := t.skeins, msc := t.msc, away := t.away, free := t.free }

/-- v is the vector whose n elements of width w are f j where the mask has bit j, and those of old elsewhere (R45). -/
def Elements (w n : Nat) (k : KReg) (old v : VReg) (f : Nat → Nat) : Prop :=
  ∀ j, j < n → elemNat w v j = if active k j then f j else elemNat w old j

/-- The A word i writes f j to every active element j of width w of v[d], keeps the others, and completes. -/
def WritesV (i : Instr) (s : State) (d : Reg) (w : Nat) (k : KReg) (f : Nat → Nat) : Prop :=
  ∃ v, Completes i s (s.me.setV d v) ∧ Elements w (countOf w) k (s.me.getV d) v f

/-- As WritesV, each result with the flags it raises; the flags of the active elements are raised together (R166). -/
def WritesVFlags (i : Instr) (s : State) (d : Reg) (w : Nat) (k : KReg) (f : Nat → Nat × FpFlags) : Prop :=
  ∃ v, Completes i s ((s.me.setV d v).raiseFlags (activeFlags (countOf w) k f)) ∧
    Elements w (countOf w) k (s.me.getV d) v fun j => (f j).1

/-! ## Waiting and traps -/

/-- The running context is parked on p and has left its fused group (R27, R35); the turn has passed; nothing else differs. -/
structure Parks (s t : State) (p : Park) : Prop extends OnlyContext s t where
  me : t.ctx s.cur = { s.me with st := .parked, park := some p }
  core : t.core (coreOf s.cur) = (s.core (coreOf s.cur)).leaveFused (ctxInCore s.cur)
  turns : t.turns = s.yieldTurn.turns

/-- The step goes to t, where the running context has parked on p. -/
def ParksAt (i : Instr) (s : State) (p : Park) : Prop := ∃ t, exec i s = .next t ∧ Parks s t p

/-- Everything but the contexts, the cores and the error records is as it was: no memory access is ordered or made (R297). -/
structure TrapFrame (s t : State) (c : CtxId) : Prop where
  cores : ∀ k, t.core k = if k = coreOf c then (s.core k).leaveFused (ctxInCore c) else s.core k
  skeins : ∀ k, t.skein k = s.skein k
  mem : t.mem = s.mem
  poison : t.poison = s.poison
  msc : t.msc = s.msc
  away : t.away = s.away
  dev : t.dev = s.dev
  niu : t.niu = s.niu
  boot : t.boot = s.boot
  power : t.power = s.power
  agenda : t.agenda = s.agenda
  now : t.now = s.now
  out : t.out = s.out
  free : t.free = s.free
  cyc : t.cyc = s.cyc

/-- cw.trapvec for a trap of context c: that of its core, or, with a bundle in hand, what it was when that bundle was renamed (R55). -/
def trapVector (s : State) (c : CtxId) : Dword :=
  if (s.ctx c).phase = .fetch then (s.core (coreOf c)).trapvec else (s.ctx c).trapTo

/-- cw.fwvec for a trap of context c, likewise (R55). -/
def firmwareVector (s : State) (c : CtxId) : Dword :=
  if (s.ctx c).phase = .fetch then (s.core (coreOf c)).fwvec else (s.ctx c).fwTo

/-- The supervisor entry of R296 in context c: cw.estat takes the status, cw.cause, cw.epc, cw.tval and cw.tval2 what the trap
reports, the mode becomes supervisor with ie and sum clear and nx set, and the context goes on at slot C of cw.trapvec. -/
structure EntersSupervisor (s t : State) (c : CtxId) (e : Exc) (slot : Bool) : Prop extends TrapFrame s t c where
  ctx : t.ctx c = { s.ctx c with
    cw := { (s.ctx c).cw with
      estat := (s.ctx c).cw.status
      cause := .ofNat 64 (e.code + e.detail * 2 ^ 8 + if e.intr then 2 ^ 63 else 0)
      epc := .ofNat 64 ((s.ctx c).pc.toNat / 8 * 8 + if slot then 4 else 0)
      tval := e.tval
      tval2 := e.tval2
      status := 0x11 }
    pc := .ofNat 64 ((trapVector s c).toNat / 8 * 8)
    slotA := false
    phase := .fetch
    xfer := .next
    mkRec := if (s.ctx c).mode = 0 then none else (s.ctx c).mkRec
    spawnTo := none }
  contexts : ∀ d, d ≠ c → t.ctx d = s.ctx d
  ras : t.ras = s.ras

/-- The condition of R296 for an entry to firmware. -/
def GoesToFirmware (x : Ctx) (e : Exc) : Prop :=
  e.code = 0x30 ∨ x.mode = 3 ∨ (e.intr = false ∧ x.mode = 1 ∧ x.cw.status.getLsbD 4 = true)

/-- The firmware entry of R296 in context c, reporting code 0x30 with a detail and a value: cw.fwcause, cw.fwepc, cw.estat and
cw.tval are written, cw.tval2 cleared, the mode becomes firmware with ie clear, and the context goes on at slot C of cw.fwvec;
cw.epc and cw.cause and every register file keep their values. -/
structure EntersFirmware (s t : State) (c : CtxId) (detail : Nat) (tval : Dword) (slot : Bool) : Prop extends TrapFrame s t c where
  estat : (t.ctx c).cw.estat = (s.ctx c).cw.status
  fwcause : (t.ctx c).cw.fwcause = .ofNat 64 (0x30 + detail * 2 ^ 8)
  fwepc : (t.ctx c).cw.fwepc = .ofNat 64 ((s.ctx c).pc.toNat / 8 * 8 + if slot then 4 else 0)
  tval : (t.ctx c).cw.tval = tval
  tval2 : (t.ctx c).cw.tval2 = 0
  status : (t.ctx c).cw.status = ((s.ctx c).cw.status &&& 0x18) ||| 3
  pc : (t.ctx c).pc = .ofNat 64 ((firmwareVector s c).toNat / 8 * 8)
  slotA : (t.ctx c).slotA = false
  phase : (t.ctx c).phase = .fetch
  words : (t.ctx c).cw.epc = (s.ctx c).cw.epc ∧ (t.ctx c).cw.cause = (s.ctx c).cw.cause ∧
    (t.ctx c).cw.fpctl = (s.ctx c).cw.fpctl ∧ (t.ctx c).cw.upctl = (s.ctx c).cw.upctl ∧
    (t.ctx c).cw.uepc = (s.ctx c).cw.uepc ∧ (t.ctx c).cw.uinfo = (s.ctx c).cw.uinfo
  files : (t.ctx c).x = (s.ctx c).x ∧ (t.ctx c).p = (s.ctx c).p ∧ (t.ctx c).b = (s.ctx c).b ∧ (t.ctx c).v = (s.ctx c).v ∧
    (t.ctx c).k = (s.ctx c).k ∧ (t.ctx c).m = (s.ctx c).m ∧ (t.ctx c).fmt = (s.ctx c).fmt ∧ (t.ctx c).latch = (s.ctx c).latch

/-! ## Memory and the fabric -/

/-- No copy unit has a line pinned with write permission, so that no access waits for one (R276). -/
def NoPins (s : State) : Prop := ∀ n, s.pinHeld n = false

/-- v is a byte that an L1 holds dirty for location a on an S page, and may write back at any time (R241). -/
def WrittenBack (k : CoreSt) (a : Nat) (v : Byte) : Prop :=
  ∃ e ∈ k.l1, e.s = true ∧ e.line = a / 128 ∧ e.dirty.getLsbD (a % 128) = true ∧ v = elem 8 e.bytes (a % 128)

/-- t differs from s in what the caches hold and the directories track after an access by core j, and in the dirty bytes of S lines
that this core's L1 has displaced and so written back (R240, R241, R264, R273); in nothing else. -/
structure CachesMoved (s t : State) (j : CoreId) : Prop where
  bytes : Memory.wf s.mem = true → ∀ a, readCell t.mem a = readCell s.mem a ∨ WrittenBack (s.core j) a (readCell t.mem a)
  poison : ∀ n ∈ t.poison, n ∈ s.poison
  cores : ∀ k, t.core k = { s.core k with l1 := (t.core k).l1 }
  others : ∀ k, k ≠ j → (t.core k).l1.filter (·.s) = (s.core k).l1.filter (·.s)
  skeins : ∀ k, t.skein k = { s.skein k with sc := (t.skein k).sc }
  rest : t = { s with cores := t.cores, skeins := t.skeins, mem := t.mem, poison := t.poison, msc := t.msc, away := t.away
                      free := t.free }

/-- The load i of n bytes at va, a local address: it stops as its translation or its read stops, and otherwise the bytes read, as a
number, go to the register through ext (R95, R187, R190). -/
structure LocalLoad (i : Instr) (s : State) (va : Dword) (n : Nat) (put : Nat → Ctx → Ctx) : Prop where
  faults : ∀ e, s.mapRange (s.who s.cur) .load va n = .error e → exec i s = s.stop e
  stops : ∀ s1 l e, s.mapRange (s.who s.cur) .load va n = .ok (s1, l) → s1.readBytes s.cur l = .error e → exec i s = s.stop e
  loads : ∀ s1 l s2 d, s.mapRange (s.who s.cur) .load va n = .ok (s1, l) → s1.readBytes s.cur l = .ok (s2, d) →
    ∃ t, exec i s = .next t ∧ StepOneDone s2 t (put (ofBytes d) s2.me)

/-- The store i of n bytes, the low bytes of v, at va, a local address (R95, R187, R190). -/
structure LocalStore (i : Instr) (s : State) (va : Dword) (n v : Nat) : Prop where
  faults : ∀ e, s.mapRange (s.who s.cur) .store va n = .error e → exec i s = s.stop e
  stops : ∀ s1 l e, s.mapRange (s.who s.cur) .store va n = .ok (s1, l) → s1.writeBytes s.cur false l (toBytes n v) = .error e →
    exec i s = s.stop e
  stores : ∀ s1 l s2, s.mapRange (s.who s.cur) .store va n = .ok (s1, l) → s1.writeBytes s.cur false l (toBytes n v) = .ok s2 →
    ∃ t, exec i s = .next t ∧ StepOneDone s2 t s2.me

/-- The thread of an entry that it executes again need not be called up for the ticket first (R63). -/
def NoUpcall (s : State) (c : CtxId) (e : TkEntry) : Prop := (e.untold && (s.ctx c).upcalls) = false

/-- The read-type fabric access i of packet q at va, executed in s after the release it may make in r (R29, R189): across a line it
traps; it takes an entry and is sent, or waits; a thread that takes upcalls and has not been told of its ticket makes the upcall (R63);
then, answered, its entry is freed and it goes on with the data by k, or traps with data poison or the remote access fault; ticketed, it
waits. -/
structure FabricRead (i : Instr) (r : State) (q : Packet) (va : Dword) (k : State → VReg → State → Prop) (s : State) : Prop where
  crosses : 128 < va.toNat % 128 + q.len.toNat → exec i s = .next (r.trapC (excD 9 2 va))
  sends : va.toNat % 128 + q.len.toNat ≤ 128 → r.ownEntry s.cur va q = none →
    (∀ t, r.launchAccess s.cur .read va q = some t → exec i s = .next t.stall) ∧
    (r.launchAccess s.cur .read va q = none → exec i s = .next r.stall)
  upcall : va.toNat % 128 + q.len.toNat ≤ 128 → ∀ n e, r.ownEntry s.cur va q = some (n, e) → e.untold = true →
    (r.ctx s.cur).upcalls = true → exec i s = .next (r.callUp s.cur n e)
  waits : va.toNat % 128 + q.len.toNat ≤ 128 → ∀ n e, r.ownEntry s.cur va q = some (n, e) → NoUpcall r s.cur e → e.state = .sent →
    exec i s = .next r.stall
  answered : va.toNat % 128 + q.len.toNat ≤ 128 → ∀ n e, r.ownEntry s.cur va q = some (n, e) → NoUpcall r s.cur e → e.state = .done →
    (∀ d, e.answer = some (.ok d) → ∃ t, exec i s = .next t ∧ k (r.freeTk (coreOf s.cur) n) d t) ∧
    (e.answer = some .poison →
      exec i s = .next ((r.freeTk (coreOf s.cur) n).trapC (exc 0x0C (.ofNat 64 (va.toNat / 128 * 128))))) ∧
    (e.answer = some .refused → exec i s = .next ((r.freeTk (coreOf s.cur) n).trapC (remoteFault va 0xFFFF)))
  failed : va.toNat % 128 + q.len.toNat ≤ 128 → ∀ n e, r.ownEntry s.cur va q = some (n, e) → NoUpcall r s.cur e →
    e.state = .noticeFail → e.replaying = false → exec i s = .next ((r.freeTk (coreOf s.cur) n).trapC (remoteFault va e.ticket))
  ticketed : va.toNat % 128 + q.len.toNat ≤ 128 → ∀ n e, r.ownEntry s.cur va q = some (n, e) → NoUpcall r s.cur e →
    (e.state = .ticket ∨ e.state = .blocked ∨ e.state = .noticeOk ∨ (e.state = .noticeFail ∧ e.replaying = true)) →
    exec i s = .next (r.ticketed s.cur n e)

/-- The posted fabric store i of packet q at va, executed in s after what it orders before itself in r: across a line it traps; it
retires when it is sent, and waits until it can be (R189). -/
structure FabricStore (i : Instr) (r : State) (q : Packet) (va : Dword) (s : State) : Prop where
  crosses : 128 < va.toNat % 128 + q.len.toNat → exec i s = .next (r.trapC (excD 9 2 va))
  sends : va.toNat % 128 + q.len.toNat ≤ 128 →
    (∀ u, r.launchAccess s.cur .posted va q = some u → ∃ t, exec i s = .next t ∧ StepOneDone u t u.me) ∧
    (r.launchAccess s.cur .posted va q = none → exec i s = .next r.stall)

/-! ## Tile instructions -/

/-- The long tile instruction is done in s: the running context is c, but for the engines of its tile slots, and goes on to the bundle at
its address + 8; at most one command has joined the core's tile queue, its grants or the look for its partner on the agenda, and the older
commands' steps write the old slots of the tile registers that have new ones; the core counts a retired bundle; nothing else differs
(R220, R221, R283). -/
structure TileDone (s t : State) (c : Ctx) : Prop extends MemorySame s t where
  me : ∃ sl, t.ctx s.cur = ({ c with xfer := .next, tslots := sl } : Ctx).transfer
  contexts : ∀ d, d ≠ s.cur → t.ctx d = s.ctx d
  core : ∃ regs q, q.length ≤ 1 ∧
    let k := (s.core (coreOf s.cur)).renameTiles (ctxInCore s.cur) regs
    t.core (coreOf s.cur) = { k with tq := k.tq ++ q }.retire
  cores : ∀ k, k ≠ coreOf s.cur → t.core k = s.core k
  skeins : ∀ k, t.skein k = s.skein k
  agenda : ∃ l, t.agenda = s.agenda ++ l
  turns : t.turns = s.yieldTurn.turns
  msc : t.msc = s.msc
  away : t.away = s.away
  now : t.now = s.now
  dev : t.dev = s.dev
  niu : t.niu = s.niu
  ras : t.ras = s.ras
  boot : t.boot = s.boot
  power : t.power = s.power
  out : t.out = s.out
  free : t.free = s.free
  cyc : t.cyc = s.cyc

/-- Field n of w bits of row r of a tile (R213). -/
def tileElem (w : Nat) (t : Tile) (r n : Nat) : Nat := t.toNat / 2 ^ (2048 * r + w * n) % 2 ^ w

/-! ## Events -/

/-- The event in hand is e, and its row goes on to t. -/
def Happens (e : Event) (s t : State) : Prop := s.now = some e ∧ exec e.row s = .next t

/-! ## What every step keeps -/

/-- The two byte lists, memory and the staging window, are in canonical form. -/
def ListsCanonical (s : State) : Prop := Memory.wf s.mem = true ∧ Memory.wf s.boot.staging = true

/-- A context's mode is user, supervisor or firmware: 0, 1 or 3 (R50). -/
def LegalMode (c : Ctx) : Prop := c.mode ≠ 2

/-- Every context's mode is legal. -/
def ModesLegal (s : State) : Prop := ∀ c, LegalMode (s.ctx c)

/-- What every step keeps: the canonical form of the byte lists, and the legality of the modes. -/
structure Sound (s : State) : Prop where
  lists : ListsCanonical s
  modes : ModesLegal s

end Sys2Proof.Safety
end

