-- ==== Sys2Proof/Certificates/Slice0/Obligations.lean ====
section
/-! DEFINITION. The statements for the provers. Each says what an instruction or an event does where it completes, what it
leaves alone, or what every step keeps. -/

open Sys2Proof Sys2Proof.Machine Sys2Proof.Safety

/-! ## Steps, decoding, invariants -/

/-- R72, R75, R76, R79, R80, R91: a step runs the instruction that the bytes at the program counter decode to: the bundle is fetched as one
unit, its C word or long instruction runs first and its A word second; a pattern that is no instruction, or an A word beside a
solo C word, is cause 0x01 with the pattern, and so is a long bundle entered at slot A, at that slot; a fetch that fails traps. R281: a
bundle is renamed where the arbiter has chosen its context, in one of the context's two slots of the cycle; one without a slot stays, once the
arbiter has chosen in the cycle. An
event that is due happens instead, by its row. The model's choices: one step runs one instruction, events go before instructions (logs 1, 2),
a cycle ends when no context has a slot that it could use (log 15), a fetch returns the line of code that the core holds (log
63), and a machine check that waited for the thread comes first (log 86). -/
def Obligations.StepRunsTheDecodedInstruction : Prop :=
  (∀ (s : State) (e : Event) (r : List Input), s.agenda = .event e :: r ∨ s.agenda = .own e :: r →
    s.power.drain = .none ∨ s.power.drain = .stopping ∨ s.power.drain = .timedOut →
    step s = exec e.row { s with agenda := r, now := some e }) ∧
  ∀ s : State, s.agenda = [] → s.power.drain = .none → s.gang = false → s.dev.gsSnap = false → s.me.st = .running →
    (s.me.checks ≠ [] → s.me.phase = .fetch ∨ (s.me.phase = .first ∧ s.atomicSent s.cur = false) →
      step s = .next (s.takeCheck s.cur).yieldTurn) ∧
    (s.me.checks = [] → s.takeable s.cur = none →
    let runs := fun (o : Host.Outcome State Fault Refusal) (t : State) (w : BitVec 64) =>
      let c := w.extractLsb' 0 32
      let a := w.extractLsb' 32 32
      (∀ i, w.getLsbD 31 = true → decodeLong w = .ok i → o = exec i t) ∧
      (∀ r, w.getLsbD 31 = true → decodeLong w = .error r → o = .next (({ t with now := some (.illegalInstruction w) } : State).trapC (exc 1 w))) ∧
      (∀ i, w.getLsbD 31 = false → (isSolo c = true → a = 0) → decodeC c = .ok i → o = exec i t) ∧
      (∀ r, w.getLsbD 31 = false → isSolo c = false → decodeC c = .error r → o = .next
        (({ t with now := some (.illegalInstruction (.ofNat 64 c.toNat)) } : State).trapC (exc 1 (.ofNat 64 c.toNat)))) ∧
      (w.getLsbD 31 = false → isSolo c = true → a ≠ 0 → o = .next
        (({ t with now := some (.illegalInstruction (.ofNat 64 a.toNat)) } : State).trapC (exc 1 (.ofNat 64 a.toNat))))
    let second := fun (o : Host.Outcome State Fault Refusal) (t : State) (w : BitVec 64) =>
      let a := w.extractLsb' 32 32
      (∀ i, decodeA a = .ok i → o = exec i t) ∧
      ∀ r, decodeA a = .error r → o = .next
        (({ t with now := some (.illegalInstruction (.ofNat 64 a.toNat)) } : State).trapA (exc 1 (.ofNat 64 a.toNat)))
    (s.me.phase = .first → runs (step s) s s.me.bundle) ∧
    (s.me.phase = .second → s.me.bundle.getLsbD 31 = false → second (step s) s s.me.bundle) ∧
    (s.me.phase = .fetch → s.failDue s.cur = false ∨ s.me.slotA = true →
      (∀ v w, s.fetch s.cur = .ok (v, w) → s.mayRename s.cur = false →
        (s.myCore.nextChoice ≤ s.cyc → step s = exec .issueArbitrate { s with now := some (.issueArbitrate (coreOf s.cur)) }) ∧
        (s.cyc < s.myCore.nextChoice → step s = .next (if s.cycleOver = true then s.nextCycle else s.stall))) ∧
      (∀ v w, s.fetch s.cur = .ok (v, w) → s.mayRename s.cur = true →
        let u := v.modCore (coreOf s.cur) fun k =>
          { k with slots := k.slots.map fun e => if e.1 = ctxInCore s.cur then (e.1, e.2 - 1) else e }
        (s.me.slotA = false → runs (step s) (u.modMe fun x =>
          { x with bundle := w, phase := .first, trapTo := u.myCore.trapvec, fwTo := u.myCore.fwvec }) w) ∧
        (s.me.slotA = true → ∃ t, OnlyContext u t ∧ t.turns = u.turns ∧
          t.me = { u.me with bundle := w, phase := .second, xfer := t.me.xfer, trapTo := u.myCore.trapvec, fwTo := u.myCore.fwvec } ∧
          (w.getLsbD 31 = false → second (step s) t w) ∧
          (w.getLsbD 31 = true → step s = .next (({ t with now := some (.illegalInstruction w) } : State).trapA (exc 1 w))))) ∧
      (∀ x, s.fetch s.cur = .error (.trap x) →
        step s = .next (s.enterTrap s.cur x (s.me.slotA && x.code != 0x0C)).yieldTurn) ∧
      ∀ s1 b l, s.mapRange (s.who s.cur) .fetch s.me.pc 8 = .ok (s1, b :: l) → b.isDev = false → NoPins s1 →
        let held := if b.t = .U then none
          else (s1.core (coreOf s.cur)).icache.find? fun e => e.asn == s.me.cw.asn && e.line == b.loc / 128
        let seen := fun j => s1.homeSeen (coreOf s.cur) b.t (b.loc / 8 * 8 + j)
        (∀ e, held = some e → ∃ u, s.fetch s.cur = .ok (u, elem 64 e.bytes (b.loc % 128 / 8))) ∧
        (held = none → s1.codePoisoned (coreOf s.cur) b = true → s.fetch s.cur = .error (.trap (exc 0x0C (.ofNat 64 (b.va / 128 * 128))))) ∧
        (held = none → s1.codePoisoned (coreOf s.cur) b = false → ∃ u, s.fetch s.cur = .ok (u, .ofNat 64 (ofBytes ((List.range 8).map seen))) ∧
          MemorySame s1 u ∧ ∀ d, u.ctx d = { s1.ctx d with fetched := (u.ctx d).fetched })))

/-- R82 to R92, R123 to R179, R203: words written out bit by bit from the spec's encodings decode to the instructions they stand for. -/
def Obligations.WordsDecode : Prop :=
  decodeC 0x02000000 = .ok .cnop ∧ decodeC 0x0C000011 = .ok (.trap 17) ∧ decodeC 0x10000000 = .ok .eret ∧
  decodeC 0x10000003 = .ok .halt ∧ decodeC 0x12900002 = .ok (.getcw 9 2) ∧ decodeC 0x14060108 = .ok (.setcw 12 0x108) ∧
  decodeC 0x1A960001 = .ok (.waituntil 9 12) ∧ decodeA 0x00000000 = .ok .anop ∧ decodeA 0x09410000 = .ok (.addi 10 1 0) ∧
  (∃ r, decodeC 0x10000008 = .error r) ∧ (∃ r, decodeA 0x00000001 = .error r) ∧
  decodeBytes [0x11, 0, 0, 0x0C, 0, 0, 0x41, 0x09] = .ok (.trap 17) ∧ ∃ r, decodeBytes [0x11, 0, 0] = .error r

/-- R72, R82, R83, R86, R91: DECODE AND ENCODE AGREE: what the encoder makes of a well-formed instruction fits its slot, and the decoder of
that slot reads the instruction back with every operand. -/
def Obligations.EncodedInstructionsDecode : Prop :=
  ∀ i : Instr, i.wf = true → i.place ≠ .event →
    encodeBits i < 2 ^ (if i.place = .long then 64 else 32) ∧ decodeAt i.place (encodeBits i) = .ok i

/-- R91: no bit of an instruction is ignored: a word that the decoder of a slot accepts is the encoding of a well-formed instruction of
that slot, and every other word is refused. -/
def Obligations.DecodedWordsEncode : Prop :=
  ∀ i : Instr,
    (∀ w : BitVec 32, decodeC w = .ok i → i.place = .cWord ∧ i.wf = true ∧ encode i = [w]) ∧
    (∀ w : BitVec 32, decodeA w = .ok i → i.place = .aWord ∧ i.wf = true ∧ encode i = [w]) ∧
    ∀ w : BitVec 64, isLong w = true → decodeLong w = .ok i →
      i.place = .long ∧ i.wf = true ∧ encode i = [w.extractLsb' 0 32, w.extractLsb' 32 32]

/-- R203: EXIT is major 0x1E in the CR format with function 2 and every other field zero: the word 0x3C00_0002, which is solo, and no
other; functions 3 to 1023 of the major are illegal. -/
def Obligations.ExitIsOneSoloWord : Prop :=
  isSolo 0x3C000002 = true ∧
  ∀ w : BitVec 32, (decodeC w = .ok .exit ↔ w = 0x3C000002) ∧
    (w.toNat / 2 ^ 25 % 2 ^ 6 = 0x1E → 3 ≤ w.toNat % 2 ^ 10 → ∃ r, decodeC w = .error r)

/-- R50, R187: AN INVARIANT THAT EVERY STEP KEEPS: the byte lists stay in canonical form, and no context is ever in mode 2. -/
def Obligations.SoundIsKept : Prop :=
  Kept Sound

/-- R10, R19, R61, R64, R313, R380, R383: the state at reset is sound; every context is Idle with no interrupt enabled or pending, no core
has a launch queued, the Shutter's sources hold level 0 and nothing is shed; the one thing due is the release from reset. The agenda is the
model's choice (log 2). -/
def Obligations.ResetIsSound : Prop :=
  Sound State.reset ∧ (∀ c, (State.reset.ctx c).st = .idle ∧ (State.reset.ctx c).cw.ien = 0 ∧ (State.reset.ctx c).cw.ipend = 0) ∧
  (∀ k, (State.reset.core k).lq = [] ∧ (State.reset.core k).fused = []) ∧ State.reset.gang = false ∧
  State.reset.power.pin = 0 ∧ State.reset.power.inb = 0 ∧ State.reset.power.i3c = 0 ∧ State.reset.power.step = 0 ∧
  State.reset.agenda = [.event .resetRelease]

/-! ## Scalar instructions -/

/-- R137: the additive, logical and shift instructions and the minimum and maximum write the stated value to x[d], for every
value of the operands, and nothing else.
R107, R137: products and their upper halves; division rounds toward zero, by zero gives all ones, and the most negative
number by −1 gives itself (its quotient 2^63 wraps); a remainder by zero is the dividend. No division traps.
R137: the word instructions compute on the low 32 bits and sign-extend the 32-bit result. -/
def Obligations.ScalarArithmeticResults : Prop :=
  (∀ (s : State) (d a b : Reg),
     let x := s.getX a
     let y := s.getX b
     let n := y.toNat % 64
     WritesX (.add d a b) s d (.ofNat 64 (x.toNat + y.toNat)) ∧
     WritesX (.sub d a b) s d (.ofInt 64 (x.toInt - y.toInt)) ∧
     (∃ v : Dword, WritesX (.and d a b) s d v ∧ ∀ i, v.getLsbD i = (x.getLsbD i && y.getLsbD i)) ∧
     (∃ v : Dword, WritesX (.or d a b) s d v ∧ ∀ i, v.getLsbD i = (x.getLsbD i || y.getLsbD i)) ∧
     (∃ v : Dword, WritesX (.xor d a b) s d v ∧ ∀ i, v.getLsbD i = (x.getLsbD i != y.getLsbD i)) ∧
     (∃ v : Dword, WritesX (.andn d a b) s d v ∧ ∀ i, v.getLsbD i = (x.getLsbD i && !y.getLsbD i)) ∧
     WritesX (.shl d a b) s d (.ofNat 64 (x.toNat * 2 ^ n)) ∧
     WritesX (.shr d a b) s d (.ofNat 64 (x.toNat / 2 ^ n)) ∧
     WritesX (.sar d a b) s d (.ofInt 64 (x.toInt / 2 ^ n)) ∧
     WritesX (.rotl d a b) s d (.ofNat 64 (x.toNat * 2 ^ n + x.toNat / 2 ^ (64 - n))) ∧
     WritesX (.min d a b) s d (.ofInt 64 (min x.toInt y.toInt)) ∧
     WritesX (.max d a b) s d (.ofInt 64 (max x.toInt y.toInt)) ∧
     WritesX (.minu d a b) s d (.ofNat 64 (min x.toNat y.toNat)) ∧
     WritesX (.maxu d a b) s d (.ofNat 64 (max x.toNat y.toNat))) ∧
  (∀ (s : State) (d a b : Reg),
     let x := s.getX a
     let y := s.getX b
     WritesX (.mul d a b) s d (.ofNat 64 (x.toNat * y.toNat)) ∧
     WritesX (.mulh d a b) s d (.ofInt 64 (x.toInt * y.toInt / 2 ^ 64)) ∧
     WritesX (.mulhu d a b) s d (.ofNat 64 (x.toNat * y.toNat / 2 ^ 64)) ∧
     WritesX (.div d a b) s d (if y = 0 then BitVec.allOnes 64 else .ofInt 64 (x.toInt.tdiv y.toInt)) ∧
     WritesX (.divu d a b) s d (if y = 0 then BitVec.allOnes 64 else .ofNat 64 (x.toNat / y.toNat)) ∧
     WritesX (.rem d a b) s d (if y = 0 then x else .ofInt 64 (x.toInt.tmod y.toInt)) ∧
     WritesX (.remu d a b) s d (if y = 0 then x else .ofNat 64 (x.toNat % y.toNat))) ∧
  (∀ (s : State) (d a b : Reg),
     let x := (s.getX a).toNat
     let y := (s.getX b).toNat
     let n := y % 32
     WritesX (.addw d a b) s d (.ofInt 64 (toSigned 32 (x + y))) ∧
     WritesX (.subw d a b) s d (.ofInt 64 (toSigned 32 (x + 2 ^ 64 - y))) ∧
     WritesX (.mulw d a b) s d (.ofInt 64 (toSigned 32 (x * y))) ∧
     WritesX (.shlw d a b) s d (.ofInt 64 (toSigned 32 (x * 2 ^ n))) ∧
     WritesX (.shrw d a b) s d (.ofInt 64 (toSigned 32 (x % 2 ^ 32 / 2 ^ n))) ∧
     WritesX (.sarw d a b) s d (.ofInt 64 (toSigned 32 x / 2 ^ n)))

/-- R138 to R142: immediates are sign-extended, shift counts are the six-bit field, MOVI and LIH write a halfword, LI a
sign-extended 48-bit value as a whole bundle, LEA a sum with a shifted index.
R142: counts of leading and trailing zeros and of ones, byte and bit reversal, and the bit-field instructions at every
field that lies inside the register. -/
def Obligations.ImmediateAndBitFieldResults : Prop :=
  (∀ (s : State) (d a b : Reg) (i : BitVec 16) (n : BitVec 6) (h : BitVec 2) (j : BitVec 48) (sh : BitVec 3),
     let x := s.getX a
     WritesX (.addi d a i) s d (.ofInt 64 (x.toInt + i.toInt)) ∧
     WritesX (.andi d a i) s d (x &&& .ofInt 64 i.toInt) ∧
     WritesX (.ori d a i) s d (x ||| .ofInt 64 i.toInt) ∧
     WritesX (.xori d a i) s d (x ^^^ .ofInt 64 i.toInt) ∧
     WritesX (.shli d a n) s d (.ofNat 64 (x.toNat * 2 ^ n.toNat)) ∧
     WritesX (.shri d a n) s d (.ofNat 64 (x.toNat / 2 ^ n.toNat)) ∧
     WritesX (.sari d a n) s d (.ofInt 64 (x.toInt / 2 ^ n.toNat)) ∧
     WritesX (.rotli d a n) s d (.ofNat 64 (x.toNat * 2 ^ n.toNat + x.toNat / 2 ^ (64 - n.toNat))) ∧
     WritesX (.movi d h i) s d (.ofNat 64 (i.toNat * 2 ^ (16 * h.toNat))) ∧
     (∃ v : Dword, WritesX (.lih d h i) s d v ∧ ∀ k, k < 64 →
       v.getLsbD k = if k / 16 = h.toNat then i.getLsbD (k % 16) else (s.getX d).getLsbD k) ∧
     WritesX (.lea d a b sh) s d (.ofNat 64 (x.toNat + (s.getX b).toNat * 2 ^ sh.toNat)) ∧
     CompletesLong (.li d j) s (s.me.setX d (.ofInt 64 j.toInt))) ∧
  (∀ (s : State) (d a l : Reg) (h : BitVec 1) (p : BitVec 6),
     let x := s.getX a
     let len := h.toNat * 32 + l.toNat + 1
     (∃ n, n ≤ 64 ∧ x.toNat < 2 ^ (64 - n) ∧ (n < 64 → 2 ^ (63 - n) ≤ x.toNat) ∧ WritesX (.clz d a) s d (.ofNat 64 n)) ∧
     (∃ n, n ≤ 64 ∧ (∀ i, i < n → x.getLsbD i = false) ∧ (n < 64 → x.getLsbD n = true) ∧
       WritesX (.ctz d a) s d (.ofNat 64 n)) ∧
     WritesX (.popc d a) s d (.ofNat 64 ((List.range 64).countP fun i => x.getLsbD i)) ∧
     (∃ v : Dword, (∀ i, i < 64 → v.getLsbD i = x.getLsbD (8 * (7 - i / 8) + i % 8)) ∧ WritesX (.bswap d a) s d v) ∧
     (∃ v : Dword, (∀ i, i < 64 → v.getLsbD i = x.getLsbD (63 - i)) ∧ WritesX (.brev d a) s d v) ∧
     (p.toNat + len ≤ 64 →
       WritesX (.bfx d a l h p) s d (.ofInt 64 (toSigned len (x.toNat / 2 ^ p.toNat))) ∧
       WritesX (.bfxu d a l h p) s d (.ofNat 64 (x.toNat / 2 ^ p.toNat % 2 ^ len)) ∧
       ∃ v : Dword, (∀ i, i < 64 → v.getLsbD i =
           if p.toNat ≤ i ∧ i < p.toNat + len then x.getLsbD (i - p.toNat) else (s.getX d).getLsbD i) ∧
         WritesX (.bfi d a l h p) s d v))

/-- R143 to R145, R74: SEL, the predicate instructions on the low three bits of their register fields, and ANOP, which changes
nothing.
R144: the twelve conditions of CMP and CMPI, signed ones on signed values; CMPI's immediate is sign-extended.
R184: the mask instructions. -/
def Obligations.SelectPredicateMaskResults : Prop :=
  (∀ (s : State) (d a b : Reg) (n : BitVec 1) (q : BitVec 3),
     let pa := s.me.getP (low3 a)
     let pb := s.me.getP (low3 b)
     WritesX (.sel d a b n q) s d (if s.me.getP q = (n == 0) then s.getX a else s.getX b) ∧
     WritesP (.pand d a b) s (low3 d) (pa && pb) ∧
     WritesP (.por d a b) s (low3 d) (pa || pb) ∧
     WritesP (.pxor d a b) s (low3 d) (pa != pb) ∧
     WritesP (.pandn d a b) s (low3 d) (pa && !pb) ∧
     WritesP (.pmov d a) s (low3 d) pa ∧
     WritesX (.ptox d a) s d (if pa then 1 else 0) ∧
     Completes .anop s s.me) ∧
  (∀ (s : State) (p : BitVec 3) (a b : Reg) (i : BitVec 14),
     let x := s.getX a
     let holds (y : Dword) (cc : Nat) : Bool :=
       match cc with
       | 0 => x = y | 1 => x ≠ y | 2 => x.toInt < y.toInt | 3 => y.toInt ≤ x.toInt | 4 => x.toInt ≤ y.toInt
       | 5 => y.toInt < x.toInt | 6 => x.toNat < y.toNat | 7 => y.toNat ≤ x.toNat | 8 => x.toNat ≤ y.toNat
       | 9 => y.toNat < x.toNat | 10 => x &&& y ≠ 0 | _ => x &&& y = 0
     ∀ cc : Nat, cc < 12 →
       WritesP (.cmp p a b (.ofNat 4 cc)) s p (holds (s.getX b) cc) ∧
       WritesP (.cmpi p a i (.ofNat 4 cc)) s p (holds (.ofInt 64 i.toInt) cc)) ∧
  (∀ (s : State) (d a b : Reg) (t : BitVec 3),
     let ka := s.me.getK (low3 a)
     let kb := s.me.getK (low3 b)
     let n := 1024 / widthOf t.toNat
     WritesK (.kand d a b) s (low3 d) (ka &&& kb) ∧
     WritesK (.kor d a b) s (low3 d) (ka ||| kb) ∧
     WritesK (.kxor d a b) s (low3 d) (ka ^^^ kb) ∧
     WritesK (.knot d a) s (low3 d) (~~~ka) ∧
     WritesX (.kpopc d a t) s d (.ofNat 64 ((List.range n).countP fun i => ka.getLsbD i)) ∧
     (∃ v : Dword, WritesX (.kfirst d a t) s d v ∧
       ((∃ i, i < n ∧ ka.getLsbD i = true ∧ (∀ j, j < i → ka.getLsbD j = false) ∧ v = .ofNat 64 i) ∨
         (∀ i, i < n → ka.getLsbD i = false) ∧ v = BitVec.allOnes 64)) ∧
     WritesK (.kmov d a) s (low3 d) ka ∧
     (∃ v : KReg, WritesK (.kmovX d a b) s (low3 d) v ∧
       ∀ i, i < 128 → v.getLsbD i = if i < 64 then (s.getX a).getLsbD i else (s.getX b).getLsbD (i - 64)) ∧
     WritesX (.kmovLo d a) s d (.ofNat 64 ka.toNat) ∧
     WritesX (.kmovHi d a) s d (.ofNat 64 (ka.toNat / 2 ^ 64)))

/-- R163, R76, R77: every A word completes in every state, whatever its operands, and changes no branch register, no tile register, no
memory, and of the control words only the flags of cw.fpctl, which it never clears. -/
def Obligations.AWordsAlwaysComplete : Prop :=
  ∀ (i : Instr) (s : State), i.place = .aWord → ∃ c, Completes i s c ∧
    c = { s.me with x := c.x, p := c.p, k := c.k, v := c.v, cw := { s.me.cw with fpctl := c.cw.fpctl } } ∧
    ∃ f : FpFlags, c.cw.fpctl = s.me.cw.fpctl ||| f.word

/-! ## Registers, transfers, traps, control words -/

/-- R44: a write to x0, p0 or k0 is discarded and the instruction otherwise completes normally; as sources they read 0, true and
all ones. Every other register reads what was last written to it, and a write to one register leaves the others. -/
def Obligations.RegisterFileReadsAndWrites : Prop :=
  (∀ (c : Ctx) (a d : Reg) (v : Dword),
    c.getX 0 = 0 ∧ c.setX 0 v = c ∧ (c.setX d v).getX a = if a = d ∧ d ≠ 0 then v else c.getX a) ∧
  (∀ (c : Ctx) (a d : Reg3) (q : Bool),
    c.getP 0 = true ∧ c.setP 0 q = c ∧ (c.setP d q).getP a = if a = d ∧ d ≠ 0 then q else c.getP a) ∧
  (∀ (c : Ctx) (a d : Reg3) (v : KReg),
    c.getK 0 = BitVec.allOnes 128 ∧ c.setK 0 v = c ∧ (c.setK d v).getK a = if a = d ∧ d ≠ 0 then v else c.getK a) ∧
  (∀ (c : Ctx) (a d : Reg) (v : VReg), (c.setV d v).getV a = if a = d then v else c.getV a) ∧
  (∀ (c : Ctx) (a d : Reg3) (v : Tile), (c.setM d v).getM a = if a = d then v else c.getM a) ∧
  (∀ (c : Ctx) (a d : Reg3) (v : Dword),
    ((c.setB d (.ofImage v)).getB a).image = if a = d then v &&& ~~~(6 : Dword) else (c.getB a).image) ∧
  ∀ (s : State) (a b : Reg), Completes (.add 0 a b) s s.me ∧ Completes (.pand 0 a b) s s.me ∧ Completes (.kand 0 a b) s s.me

/-! ## Vector and floating point -/

/-- R172, R173, R45: the element-wise integer, logic and shift instructions of types .b, .h, .w and .d write the stated value to
every active element of v[d] and keep the inactive ones. sx and sy are the elements as signed numbers, u keeps the low w bits.
R183: the upper halves of products, the carry-less products bit by bit, and the dot products of four bytes added into the
word of v[d]. -/
def Obligations.VectorIntegerResults : Prop :=
  (∀ (s : State) (d a b : Reg) (k : Reg3) (t : BitVec 2),
     let w := 8 * 2 ^ t.toNat
     let x := fun j => elemNat w (s.me.getV a) j
     let y := fun j => elemNat w (s.me.getV b) j
     let sx := fun j => toSigned w (x j)
     let sy := fun j => toSigned w (y j)
     let u := fun i : Int => (i % 2 ^ w).toNat
     let lo : Int := -2 ^ (w - 1)
     let hi : Int := 2 ^ (w - 1) - 1
     let n := (s.getX b).toNat % w
     let writes (i : Instr) (f : Nat → Nat) : Prop := WritesV i s d w (s.me.getK k) f
     writes (.vaddI d a b k t) (fun j => (x j + y j) % 2 ^ w) ∧
     writes (.vsubI d a b k t) (fun j => (x j + 2 ^ w - y j) % 2 ^ w) ∧
     writes (.vmulI d a b k t) (fun j => x j * y j % 2 ^ w) ∧
     writes (.vminI d a b k t) (fun j => u (min (sx j) (sy j))) ∧
     writes (.vmaxI d a b k t) (fun j => u (max (sx j) (sy j))) ∧
     writes (.vminu d a b k t) (fun j => min (x j) (y j)) ∧
     writes (.vmaxu d a b k t) (fun j => max (x j) (y j)) ∧
     writes (.vaddss d a b k t) (fun j => u (max lo (min hi (sx j + sy j)))) ∧
     writes (.vaddsu d a b k t) (fun j => min (2 ^ w - 1) (x j + y j)) ∧
     writes (.vsubss d a b k t) (fun j => u (max lo (min hi (sx j - sy j)))) ∧
     writes (.vsubsu d a b k t) (fun j => x j - y j) ∧
     writes (.vabsI d a k t) (fun j => (sx j).natAbs) ∧
     writes (.vnegI d a k t) (fun j => (2 ^ w - x j) % 2 ^ w) ∧
     writes (.vavgu d a b k t) (fun j => (x j + y j + 1) / 2) ∧
     writes (.vand d a b k t) (fun j => x j &&& y j) ∧
     writes (.vor d a b k t) (fun j => x j ||| y j) ∧
     writes (.vxor d a b k t) (fun j => x j ^^^ y j) ∧
     writes (.vandn d a b k t) (fun j => x j &&& (2 ^ w - 1 - y j)) ∧
     writes (.vnot d a k t) (fun j => 2 ^ w - 1 - x j) ∧
     writes (.vshl d a b k t) (fun j => x j * 2 ^ (y j % w) % 2 ^ w) ∧
     writes (.vshr d a b k t) (fun j => x j / 2 ^ (y j % w)) ∧
     writes (.vsar d a b k t) (fun j => u (sx j / 2 ^ (y j % w))) ∧
     writes (.vshls d a b k t) (fun j => x j * 2 ^ n % 2 ^ w) ∧
     writes (.vshrs d a b k t) (fun j => x j / 2 ^ n) ∧
     writes (.vsars d a b k t) (fun j => u (sx j / 2 ^ n)) ∧
     writes (.vrotl d a b k t) (fun j => (x j * 2 ^ (y j % w) + x j / 2 ^ (w - y j % w)) % 2 ^ w)) ∧
  (∀ (s : State) (d a b : Reg) (k : Reg3) (t : BitVec 2),
     let w := 8 * 2 ^ t.toNat
     let x := fun j => elemNat w (s.me.getV a) j
     let y := fun j => elemNat w (s.me.getV b) j
     let coeff := fun j i => (List.range (i + 1)).countP (fun m => (x j).testBit m && (y j).testBit (i - m)) % 2 == 1
     let writes (i : Instr) (f : Nat → Nat) : Prop := WritesV i s d w (s.me.getK k) f
     let old := fun j => elemNat 32 (s.me.getV d) j
     let ua := fun j m => (elemNat 8 (s.me.getV a) (4 * j + m) : Int)
     let ub := fun j m => (elemNat 8 (s.me.getV b) (4 * j + m) : Int)
     let sa := fun j m => toSigned 8 (elemNat 8 (s.me.getV a) (4 * j + m))
     let sb := fun j m => toSigned 8 (elemNat 8 (s.me.getV b) (4 * j + m))
     let dot := fun (p q : Nat → Nat → Int) j =>
       ((old j + p j 0 * q j 0 + p j 1 * q j 1 + p j 2 * q j 2 + p j 3 * q j 3) % 2 ^ 32).toNat
     writes (.vmulh d a b k t) (fun j => (toSigned w (x j) * toSigned w (y j) / 2 ^ w % 2 ^ w).toNat) ∧
     writes (.vmulhU d a b k t) (fun j => x j * y j / 2 ^ w) ∧
     (∃ f, writes (.vclmul d a b k t) f ∧ ∀ j i, (f j).testBit i = (decide (i < w) && coeff j i)) ∧
     (∃ f, writes (.vclmulH d a b k t) f ∧ ∀ j i, (f j).testBit i = (decide (i < w) && coeff j (w + i))) ∧
     WritesV (.vdot4 d a b k) s d 32 (s.me.getK k) (dot sa sb) ∧
     WritesV (.vdot4U d a b k) s d 32 (s.me.getK k) (dot ua ub) ∧
     WritesV (.vdot4Su d a b k) s d 32 (s.me.getK k) (dot sa ub))

/-- R172, R174, R182, R165, R166: floating-point elements, each result rounded once from the exact value in the mode of
cw.fpctl.rm, the special functions by R121 and R122; an active element's flags are raised, an inactive one raises none. The exact
operations are fpAdd, fpMul, fpFma, fpDiv and fpSqrt of the model (R115), the rounding is Fmt.round (R113).
R121, R122: the special functions on FP32 and BF16: the table of special values with its flags; the reciprocal as the quotient of one; the
reciprocal root, which stands to every number of at most 64 bits as the true value does; a whole exponent's power of two, a power of two's
logarithm; the cosine of a magnitude.
R179 to R181: VCVT converts the low n elements and clears those above the n-th target element; VPACK narrows with clamping;
VUNPK widens a half; VMXPACK builds the block image of R181's table, VMXUNPK expands it. The conversion of one value is convert
(R117, R118), of a block mxPack and mxExpand (R119, R120).
R117, R118: a conversion between floating-point formats rounds the source's value once, a NaN giving the target's; a finite value becomes
the integer its mode gives, or the nearer bound with nv, nx telling of a change; an integer is rounded once.
R119, R120: an element of an MX block under its scale; packing: a NaN or an infinity, a block of zeros, and otherwise the scale of the
largest magnitude, whose logarithm lies in [n, n + 1), and every element rounded, saturating, under it. -/
def Obligations.VectorFloatResults : Prop :=
  (∀ (s : State) (d a b c : Reg) (k : Reg3) (t : BitVec 2),
     let F := fmtOf2 t.toNat
     let code := fun r j => elemNat F.width (s.me.getV r) j
     let x := fun r j => F.decode (code r j)
     let m := s.me.rm
     let rounds (i : Instr) (f : Nat → Exact) : Prop :=
       WritesVFlags i s d F.width (s.me.getK k) fun j =>
         let r := F.round (f j).1 m false
         (r.1, r.2.union (f j).2)
     let writes (i : Instr) (f : Nat → Nat × FpFlags) : Prop := WritesVFlags i s d F.width (s.me.getK k) f
     let sign := fun (f : Nat → Nat) j =>
       if (x a j).isNan then (F.nan, nvIf (x a j).isSnan) else (f (code a j), noFlags)
     let h := 2 ^ (F.width - 1)
     rounds (.vaddF d a b k t) (fun j => fpAdd m (x a j) (x b j)) ∧
     rounds (.vsubF d a b k t) (fun j => fpAdd m (x a j) (x b j).neg) ∧
     rounds (.vmulF d a b k t) (fun j => fpMul (x a j) (x b j)) ∧
     rounds (.vdiv d a b k t) (fun j => fpDiv (x a j) (x b j)) ∧
     rounds (.vsqrt d a k t) (fun j => fpSqrt (x a j)) ∧
     rounds (.vfma d a b c k (t.setWidth 3)) (fun j => fpFma m (x a j) (x b j) (x c j)) ∧
     rounds (.vfms d a b c k (t.setWidth 3)) (fun j => fpFma m (x a j) (x b j) (x c j).neg) ∧
     rounds (.vfnma d a b c k (t.setWidth 3)) (fun j => fpFma m (x a j).neg (x b j) (x c j)) ∧
     writes (.vminF d a b k t) (fun j => F.pick false (code a j) (code b j)) ∧
     writes (.vmaxF d a b k t) (fun j => F.pick true (code a j) (code b j)) ∧
     writes (.vabsF d a k t) (sign fun v => if h ≤ v then v - h else v) ∧
     writes (.vnegF d a k t) (sign fun v => if h ≤ v then v - h else v + h) ∧
     writes (.vrcp d a k t) (fun j => F.special .rcp (code a j)) ∧
     writes (.vrsq d a k t) (fun j => F.special .rsq (code a j)) ∧
     writes (.vexp2 d a k t) (fun j => F.special .exp2 (code a j)) ∧
     writes (.vlog2 d a k t) (fun j => F.special .log2 (code a j)) ∧
     writes (.vsin d a k t) (fun j => F.special .sin (code a j)) ∧
     writes (.vcos d a k t) (fun j => F.special .cos (code a j)) ∧
     writes (.vtanh d a k t) (fun j => F.special .tanh (code a j))) ∧
  (∀ (F : Fmt) (c : Nat), F = .fp32 ∨ F = .bf16 → c < 2 ^ F.width →
     let half := 2 ^ (F.width - 1)
     let mag := c % half
     let neg : Bool := decide (half ≤ c)
     let one := F.bias * 2 ^ F.frac
     let nan := F.top + 2 ^ (F.frac - 1)
     let signed := fun v : Nat => (if neg then half else 0) + v
     let gives := fun (f : Special) (v : Nat) (nv dz : Bool) => F.special f c = (v, { noFlags with nv := nv, dz := dz })
     (F.top < mag → ∀ f, gives f nan (decide (mag % 2 ^ F.frac < 2 ^ (F.frac - 1))) false) ∧
     (mag = F.top → gives .rcp (signed 0) false false ∧ gives .rsq (if neg then nan else 0) neg false ∧
       gives .exp2 (if neg then 0 else F.top) false false ∧ gives .log2 (if neg then nan else F.top) neg false ∧
       gives .sin nan true false ∧ gives .cos nan true false ∧ gives .tanh (signed one) false false) ∧
     (mag = 0 → gives .rcp (signed F.top) false true ∧ gives .rsq (signed F.top) false true ∧ gives .exp2 one false false ∧
       gives .log2 (half + F.top) false true ∧ gives .sin c false false ∧ gives .cos one false false ∧ gives .tanh c false false) ∧
     (0 < mag → mag < F.top → neg = true → gives .rsq nan true false ∧ gives .log2 nan true false) ∧
     ∀ (m : Nat) (e : Int), F.decode c = .fin neg m e → m ≠ 0 →
       F.special .rcp c = F.round (fpDiv (.fin false 1 0) (F.decode c)).1 .rne false ∧
       (neg = false → ∃ n h, F.special .rsq c = F.round (.fin false n h) .rne false ∧
         ∀ (p : Nat) (q g : Int), p < 2 ^ 64 → g ≤ 0 → g ≤ q → g ≤ h → g ≤ 2 * q + e →
           (p * 2 ^ (q - g).toNat < n * 2 ^ (h - g).toNat ↔ p * p * m * 2 ^ (2 * q + e - g).toNat < 2 ^ (-g).toNat) ∧
           (n * 2 ^ (h - g).toNat < p * 2 ^ (q - g).toNat ↔ 2 ^ (-g).toNat < p * p * m * 2 ^ (2 * q + e - g).toNat)) ∧
       (∀ k : Int, k * 2 ^ (-e).toNat = (if neg then -1 else 1) * (m : Int) * 2 ^ e.toNat →
         F.special .exp2 c = F.round (.fin false 1 k) .rne false) ∧
       (∀ b : Nat, neg = false → m = 2 ^ b →
         F.special .log2 c = F.round (.fin (decide (e + b < 0)) (e + b).natAbs 0) .rne false) ∧
       F.special .cos c = F.special .cos mag) ∧
  (∀ (s : State) (d a b : Reg) (k : Reg3) (u h sat : BitVec 1),
     let g := s.me.getK k
     let x := fun w r j => elemNat w (s.me.getV r) j
     let read := fun (w v : Nat) => if u = 1 then (v : Int) else toSigned w v
     (∀ tS tT : BitVec 4, tS.toNat < 11 → tT.toNat < 11 → tS ≠ tT → (4 ≤ tS.toNat ∨ 4 ≤ tT.toNat) →
       let wS := widthOf tS.toNat
       let wT := widthOf tT.toNat
       let n := 1024 / max wS wT
       let f := fun j => convert tS.toNat tT.toNat (u == 1) (sat == 1) s.me.rm (x wS a j)
       ∃ v, Completes (.vcvt d a sat tT k tS u) s ((s.me.setV d v).raiseFlags (activeFlags n g f)) ∧
         ∀ j, j < 1024 / wT → elemNat wT v j =
           if n ≤ j then 0 else if g.getLsbD j then (f j).1 else x wT d j) ∧
     (∀ ty : BitVec 4, 1 ≤ ty.toNat ∧ ty.toNat ≤ 3 →
       let w := widthOf ty.toNat
       let n := 1024 / w
       WritesV (.vpack d a b k ty u) s d (w / 2) g fun j =>
         let v := read w (if j < n then x w a j else x w b (j - n))
         if u = 1 then (max 0 (min (2 ^ (w / 2) - 1) v)).toNat
         else (max (-2 ^ (w / 2 - 1)) (min (2 ^ (w / 2 - 1) - 1) v) % 2 ^ (w / 2)).toNat) ∧
     (∀ ty : BitVec 4, ty.toNat ≤ 2 →
       let w := widthOf ty.toNat
       WritesV (.vunpk d a h k ty u) s d (2 * w) g fun j =>
         (read w (x w a (j + h.toNat * (1024 / (2 * w)))) % 2 ^ (2 * w)).toNat) ∧
     (∀ ty f : BitVec 4, ty = 5 ∨ ty = 6 → f = 8 ∨ f = 9 ∨ f = 10 →
       let S := fmtOf ty.toNat
       let F := fmtOf f.toNat
       let per := 8 / F.width
       let blocks := if ty = 6 then 1 else 2
       let block := fun i => mxPack F s.me.rm ((List.range 32).map fun j => S.decode (x S.width a (32 * i + j)))
       (∃ v : VReg, Completes (.vmxpack d a f ty) s
           ((s.me.setV d v).raiseFlags ((List.range blocks).foldl (fun fl i => fl.union (block i).2.2) noFlags)) ∧
         (∀ j, j < 64 * per → elemNat F.width v j = if j / 32 < blocks then (block (j / 32)).2.1.getD (j % 32) 0 else 0) ∧
         ∀ j, 64 ≤ j → j < 128 → elemNat 8 v j = if j - 64 < blocks then (block (j - 64)).1 else 0) ∧
       WritesVFlags (.vmxunpk d a f k ty) s d S.width g fun j =>
         mxExpand F S s.me.rm (x 8 a (64 + j / 32)) (x F.width a j))) ∧
  (∀ (S T c : Nat) (u sat : Bool) (r : Rm),
     let w := 8 * 2 ^ T
     let lo : Int := if u then 0 else -2 ^ (w - 1)
     let hi : Int := if u then 2 ^ w - 1 else 2 ^ (w - 1) - 1
     (4 ≤ S → S < 11 → 4 ≤ T → T < 11 →
       ((fmtOf S).decode c).isNan = false → convert S T u sat r c = (fmtOf T).round ((fmtOf S).decode c) r sat) ∧
     (4 ≤ S → S < 11 → 4 ≤ T → T < 11 → ∀ q, (fmtOf S).decode c = .nan q →
       convert S T u sat r c = ((fmtOf T).nan, { noFlags with nv := q || T == 10 })) ∧
     (4 ≤ S → S < 11 → T < 4 → ∀ neg m e, (fmtOf S).decode c = .fin neg m e →
       let x : ℚ := (if neg then -1 else 1) * (m : ℚ) * (2 : ℚ) ^ e
       ∃ i : Int,
         (match r with
           | .rtz => i = if 0 ≤ x then ⌊x⌋ else ⌈x⌉
           | .rdn => i = ⌊x⌋
           | .rup => i = ⌈x⌉
           | .rne => |x - i| ≤ 1 / 2 ∧ (|x - i| = 1 / 2 → Even i)
           | .rmm => |x - i| ≤ 1 / 2 ∧ (|x - i| = 1 / 2 → |x| < |(i : ℚ)|)) ∧
         convert S T u sat r c = if i < lo then ((lo % 2 ^ w).toNat, { noFlags with nv := true })
           else if hi < i then ((hi % 2 ^ w).toNat, { noFlags with nv := true })
           else ((i % 2 ^ w).toNat, { noFlags with nx := decide ((i : ℚ) ≠ x) })) ∧
     (S < 4 → 4 ≤ T → T < 11 →
       let v : Nat := c % 2 ^ (8 * 2 ^ S)
       let i : Int := if u ∨ v < 2 ^ (8 * 2 ^ S - 1) then (v : Int) else (v : Int) - 2 ^ (8 * 2 ^ S)
       convert S T u sat r c = (fmtOf T).round (.fin (decide (i < 0)) i.natAbs 0) r sat)) ∧
  (∀ (F T : Fmt) (r : Rm) (sc c : Nat) (vs : List Val), sc < 256 → F = .e4m3 ∨ F = .e5m2 ∨ F = .e2m1 →
     let emax : Int := if F = .e4m3 then 8 else if F = .e5m2 then 15 else 2
     let size := fun v : Val => match v with | .fin _ m e => (m : ℚ) * (2 : ℚ) ^ e | _ => 0
     let finite := fun v : Val => match v with | .fin _ _ _ => True | _ => False
     (sc = 255 ∨ (F.decode c).isNan = true → mxExpand F T r sc c = (T.nan, noFlags)) ∧
     (sc < 255 → ∀ n, F.decode c = .inf n → mxExpand F T r sc c = T.round (.inf n) r false) ∧
     (sc < 255 → ∀ n m e, F.decode c = .fin n m e → mxExpand F T r sc c = T.round (.fin n m (e + sc - 127)) r false) ∧
     ((∃ v ∈ vs, ¬finite v) → mxPack F r vs = (0xFF, vs.map (fun _ => F.nan), { noFlags with nv := true })) ∧
     ((∀ v ∈ vs, finite v ∧ size v = 0) → mxPack F r vs = (0x7F, vs.map (fun v => F.sign v.isNeg), noFlags)) ∧
     ∀ n : Int, (∀ v ∈ vs, finite v ∧ size v < (2 : ℚ) ^ (n + 1)) → (∃ v ∈ vs, (2 : ℚ) ^ n ≤ size v) →
       let x := max (-127) (min 127 (n - emax))
       let one := fun v : Val => match v with | .fin s m e => F.round (.fin s m (e - x)) r true | _ => (0, noFlags)
       mxPack F r vs = ((x + 127).toNat, vs.map (fun v => (one v).1), vs.foldl (fun f v => f.union (one v).2) noFlags))

/-- R175, R176: VCMP writes the active bits of its mask below the count and keeps the others; the permutes move raw elements,
and set no flag.
R177, R123 to R125: a reduction writes element 0 and clears the rest: an integer sum of the active elements and the start
modulo 2^w, the greatest and the least active element under the reading of .u; the floating-point sum is the tree of R123 (reduceAdd)
and the extremes are fpExtreme's. VSCANADD writes the running sums of its active integer elements, and for floating point those of
R125 (scanSums).
R123 to R125, R116: the tree of a floating-point sum, half by half, its leaves, its empty root and its starting value; the extreme of a
list; the running sums, each from the one before it. -/
def Obligations.ComparePermuteReductionResults : Prop :=
  (∀ (s : State) (d a b : Reg) (k : Reg3) (t : BitVec 3) (cc : BitVec 4),
     let w := widthOf t.toNat
     let n := countOf w
     let g := s.me.getK k
     let x := fun r j => elemNat w (s.me.getV r) j
     let sl := fun j : Nat => (j : Int) + (s.getX b).toInt
     let one : Nat → Bool × FpFlags := fun j =>
       if t.toNat < 4 then (cond cc (.ofInt 64 (toSigned w (x a j))) (.ofInt 64 (toSigned w (x b j))), noFlags)
       else fcond cc.toNat ((fmtOf t.toNat).decode (x a j)) ((fmtOf t.toNat).decode (x b j))
     (∃ v : KReg, (∀ j, j < 128 → v.getLsbD j =
         if j < n ∧ g.getLsbD j then (one j).1 else (s.me.getK (low3 d)).getLsbD j) ∧
       Completes (.vcmp d a b k (t.setWidth 4) cc) s
         ((s.me.setK (low3 d) v).raiseFlags (activeFlags n g fun j => (0, (one j).2)))) ∧
     WritesV (.vsel d a b k t) s d w (BitVec.allOnes 128) (fun j => if g.getLsbD j then x a j else x b j) ∧
     WritesV (.vbcast d a k t) s d w g (fun _ => (s.getX a).toNat % 2 ^ w) ∧
     WritesX (.vextr d a b t) s d (.ofNat 64 (x a ((s.getX b).toNat % n))) ∧
     WritesV (.vins d a b t) s d w (BitVec.allOnes 128)
       (fun j => if j = (s.getX b).toNat % n then (s.getX a).toNat % 2 ^ w else x d j) ∧
     WritesV (.vperm d a b k t) s d w g (fun j => x a (x b j % n)) ∧
     WritesV (.vslide d a b k t) s d w g (fun j => if 0 ≤ sl j ∧ sl j < n then x a (sl j).toNat else 0) ∧
     WritesV (.vzip d a b k t) s d w g (fun j => if j % 2 = 0 then x a (j / 2) else x b (j / 2)) ∧
     WritesV (.vunzip d a b k t) s d w g (fun j => if j < n / 2 then x a (2 * j) else x b (2 * j - n))) ∧
  (∀ (s : State) (d a b : Reg) (k : Reg3) (t : BitVec 3) (v u : BitVec 1),
     let ty := t.toNat
     let w := widthOf ty
     let n := countOf w
     let g := s.me.getK k
     let x := fun j => elemNat w (s.me.getV a) j
     let on := (List.range n).filter fun j => g.getLsbD j
     let leaves := (List.range n).map fun j => if g.getLsbD j then some (x j) else none
     let start := if v = 1 then some (elemNat w (s.me.getV b) 0) else none
     let value := fun j => if u = 1 then (x j : Int) else toSigned w (x j)
     let result (i : Instr) (r : Nat) (f : FpFlags) : Prop := Completes i s ((s.me.setV d (.ofNat 1024 r)).raiseFlags f)
     (ty < 4 →
       result (.vredadd d a b k t v) (((on.map x).sum + start.getD 0) % 2 ^ w) noFlags ∧
       (∃ r : Nat, result (.vredmax d a k t u) r noFlags ∧ r < 2 ^ w ∧
         (on = [] → (if u = 1 then (r : Int) else toSigned w r) = intMin w (u == 1)) ∧
         (on ≠ [] → ∃ j ∈ on, r = x j ∧ ∀ i ∈ on, value i ≤ value j)) ∧
       (∃ r : Nat, result (.vredmin d a k t u) r noFlags ∧ r < 2 ^ w ∧
         (on = [] → (if u = 1 then (r : Int) else toSigned w r) = intMax w (u == 1)) ∧
         (on ≠ [] → ∃ j ∈ on, r = x j ∧ ∀ i ∈ on, value j ≤ value i)) ∧
       WritesV (.vscanadd d a k t) s d w g
         (fun j => ((on.filter fun i => i ≤ j).map x).sum % 2 ^ w)) ∧
     (4 ≤ ty →
       (let r := reduceAdd ty s.me.rm leaves start
        result (.vredadd d a b k t v) (r.1 % 2 ^ w) r.2) ∧
       (let r := fpExtreme (fmtOf ty) true (on.map x)
        result (.vredmax d a k t u) (r.1 % 2 ^ w) r.2) ∧
       (let r := fpExtreme (fmtOf ty) false (on.map x)
        result (.vredmin d a k t u) (r.1 % 2 ^ w) r.2) ∧
       WritesVFlags (.vscanadd d a k t) s d w g
         (fun j => ((scanSums ty s.me.rm none leaves).getD j none).getD (0, noFlags)))) ∧
  (∀ (F : Fmt) (r : Rm) (ty : Nat), 4 ≤ ty → ty < 8 → F = fmtOf ty →
     let lone := fun c : Nat => (if (F.decode c).isNan then F.nan else c, nvIf (F.decode c).isSnan)
     let sum := fun (a b : Nat) =>
       let e := fpAdd r (F.decode a) (F.decode b)
       ((F.round e.1 r false).1, (F.round e.1 r false).2.union e.2)
     (∀ x, treeRoot F r 0 [x] = (x, noFlags)) ∧
     (∀ (n : Nat) (l k : List (Option Nat)), l.length = 2 ^ n → k.length = 2 ^ n →
       let a := treeRoot F r n l
       let b := treeRoot F r n k
       let node : Option Nat × FpFlags := match a.1, b.1 with
         | none, none => (none, noFlags)
         | some x, none => (some (lone x).1, (lone x).2)
         | none, some y => (some (lone y).1, (lone y).2)
         | some x, some y => (some (sum x y).1, (sum x y).2)
       treeRoot F r (n + 1) (l ++ k) = (node.1, (a.2.union b.2).union node.2)) ∧
     (∀ (l : List (Option Nat)) (n : Nat), 1024 / F.width = 2 ^ n →
       let t := treeRoot F r n l
       reduceAdd ty r l none = (t.1.getD 0, t.2) ∧
       ∀ s, reduceAdd ty r l (some s) = ((sum s (t.1.getD 0)).1, t.2.union (sum s (t.1.getD 0)).2)) ∧
     (∀ (big : Bool) (l : List Nat),
       let v := fpExtreme F big l
       let before := fun a b : Nat => if big then (F.decode a).lt (F.decode b) else (F.decode b).lt (F.decode a)
       v.2 = nvIf (l.any fun c => (F.decode c).isSnan) ∧
       (l = [] → v.1 = F.sign big + F.top) ∧
       (l ≠ [] → (∀ c ∈ l, (F.decode c).isNan = true) → v.1 = F.nan) ∧
       ((∃ c ∈ l, (F.decode c).isNan = false) → v.1 ∈ l ∧ (F.decode v.1).isNan = false ∧ (∀ c ∈ l, before v.1 c = false) ∧
         ∀ c ∈ l, (F.decode c).isZero = true → (F.decode v.1).isZero = true → (F.decode c).isNeg = !big → (F.decode v.1).isNeg = !big)) ∧
     ∀ (l : List (Option Nat)) (j : Nat),
       let at_ := fun i : Nat => (scanSums ty r none l).getD i none
       (l[j]? = some none → at_ j = none) ∧
       (∀ x, l[j]? = some (some x) → (∀ i, i < j → l[i]? = some none) → at_ j = some (lone x)) ∧
       ∀ x y i, l[j]? = some (some x) → l[i]? = some (some y) → i < j → (∀ k, i < k → k < j → l[k]? = some none) →
         ∃ q, at_ i = some q ∧ at_ j = some (sum q.1 x))

/-- R121: on a finite argument x that is not zero, each of 2^x, log2 x, sin x, cos x and tanh x is rounded once from the exact value, whatever
the mode: two numbers that enclose the real value round, to nearest even, to the result with its flags. A result of +0 without a flag, which no
such argument has but 1 under log2, is the model's own answer where its narrowing finds no such numbers (log 88, UNVERIFIED), and is left out. -/
def Obligations.SpecialFunctionsRoundOnce : Prop :=
  ∀ (F : Fmt) (c m : Nat) (neg : Bool) (e : Int), F = .fp32 ∨ F = .bf16 → F.decode c = .fin neg m e → m ≠ 0 →
    let real := fun (neg : Bool) (m : Nat) (e : Int) => (if neg then -1 else 1) * (m : ℝ) * (2 : ℝ) ^ e
    let x := real neg m e
    let rounds := fun (f : Special) (y : ℝ) => F.special f c ≠ (0, noFlags) →
      ∃ (p q : Bool) (k l : Nat) (g h : Int), real p k g ≤ y ∧ y ≤ real q l h ∧
        F.round (.fin p k g) .rne false = F.special f c ∧ F.round (.fin q l h) .rne false = F.special f c
    rounds .exp2 ((2 : ℝ) ^ x) ∧ (neg = false → rounds .log2 (Real.logb 2 x)) ∧ rounds .sin (Real.sin x) ∧
      rounds .cos (Real.cos x) ∧ rounds .tanh (Real.tanh x)

/-- R165 to R171: each result is rounded once in the mode of its static field, 7 taking cw.fpctl.rm, and written to the low bits
of x[d], the upper bits cleared; FCVT to an integer sign-extends a signed word; FCMP writes a predicate, FCLASS one bit. -/
def Obligations.ScalarFloatResults : Prop :=
  ∀ (s : State) (d a b c : Reg) (r : BitVec 3) (t : BitVec 2) (cc : BitVec 4),
    let F := fmtOf2 t.toNat
    let code := fun q => (s.getX q).toNat % 2 ^ F.width
    let x := fun q => F.decode (code q)
    let m := if r = 7 then s.me.rm else Rm.ofCode r.toNat
    let writes (i : Instr) (v : Nat × FpFlags) : Prop := Completes i s ((s.me.setX d (.ofNat 64 v.1)).raiseFlags v.2)
    let rounds (i : Instr) (m : Rm) (e : Exact) : Prop :=
      writes i ((F.round e.1 m false).1, (F.round e.1 m false).2.union e.2)
    rounds (.fadd d a b r t) m (fpAdd m (x a) (x b)) ∧
    rounds (.fsub d a b r t) m (fpAdd m (x a) (x b).neg) ∧
    rounds (.fmul d a b r t) m (fpMul (x a) (x b)) ∧
    rounds (.fdiv d a b r t) m (fpDiv (x a) (x b)) ∧
    rounds (.fsqrt d a r t) m (fpSqrt (x a)) ∧
    rounds (.ffma d a b c (t.setWidth 3)) s.me.rm (fpFma s.me.rm (x a) (x b) (x c)) ∧
    writes (.fmin d a b t) (F.pick false (code a) (code b)) ∧
    writes (.fmax d a b t) (F.pick true (code a) (code b)) ∧
    Completes (.fcmp d a b cc t) s
      ((s.me.setP (low3 d) (fcond cc.toNat (x a) (x b)).1).raiseFlags (fcond cc.toNat (x a) (x b)).2) ∧
    WritesX (.fclass d a t) s d (.ofNat 64 (2 ^ F.classBit (code a))) ∧
    ∀ cls : BitVec 2, cls ≠ 3 →
      let S := if cls = 0 then 4 + t.toNat else cls.toNat + 1
      let T := b.toNat % 16
      let v := convert S T (b.getLsbD 4) false m ((s.getX a).toNat % 2 ^ widthOf S)
      2 ≤ T → T ≤ 7 →
      Completes (.fcvt d a b cls r t) s ((s.me.setX d
        (if T = 2 ∧ b.getLsbD 4 = false then .ofInt 64 (toSigned 32 v.1) else .ofNat 64 v.1)).raiseFlags v.2)

/-- R170: FCLASS sets exactly the one bit of x[d] that its operand's class names, in each format, and no flag. -/
def Obligations.FclassSetsOneBit : Prop :=
  ∀ (s : State) (d a : Reg) (t : BitVec 2),
    let (e, f) : Nat × Nat := if t = 0 then (5, 10) else if t = 1 then (8, 7) else if t = 2 then (8, 23) else (11, 52)
    let v := (s.getX a).toNat
    let neg := v / 2 ^ (e + f) % 2 = 1
    let x := v / 2 ^ f % 2 ^ e
    let g := v % 2 ^ f
    let bit := if x = 2 ^ e - 1 then
        if g = 0 then (if neg then 0 else 7) else if g / 2 ^ (f - 1) = 0 then 8 else 9
      else if x = 0 then if g = 0 then (if neg then 3 else 4) else if neg then 2 else 5
      else if neg then 1 else 6
    WritesX (.fclass d a t) s d (.ofNat 64 (2 ^ bit))

/-- R108, R109, R113: rounding the value a finite encoding stands for gives that encoding and no flag, in every format and mode,
saturating or not.
R112, R113: a finite value strictly between two neighbouring finite encodings of its sign is rounded to one of the two: by RTZ to the one
nearer zero, by RUP and RDN to the one on their side, by RNE to the nearer, at a tie to the even one, by RMM to the nearer, at a tie to the one
farther from zero. nx is raised; uf too below the smallest normal, and not from there on; no other flag.
R112, R113, R117: beyond the largest finite value the grid goes on with the spacing of its last binade. What the mode rounds to the
largest value (RNE at the tie only where its encoding is even) becomes it with nx. Everything else overflows: of and nx, and an infinity
where the format has one, the mode rounds toward it and nothing saturates; E4M3 then gives its NaN, and every other case the largest finite
encoding of the sign. An infinity itself keeps its place where the format has one and nothing saturates; elsewhere nv is raised.
R115: on finite values the sum, the product and the fused sum are exact, and the quotient and the root stand to every number of at most 64
bits as the true value does, so that rounding cannot tell them apart. A value is n units of 2^g.
R109, R115 to R118, R168: the exact results of the scalar operations on zeros, infinities and NaNs, written out as encodings, with their
flags nv and dz: invalid operations, division by zero, the signs of zero results, NaN operands, the orders of FMIN, FMAX and FCMP,
conversions of NaNs and infinities, and one as a factor and as a divisor. -/
def Obligations.RoundingIsCorrect : Prop :=
  (∀ (F : Fmt) (c : Nat) (m : Rm) (sat : Bool), c < 2 ^ F.width → c % 2 ^ (F.width - 1) ≤ F.maxCode →
     F.round (F.decode c) m sat = (c, noFlags)) ∧
  (∀ (F : Fmt) (c m l : Nat) (e : Int) (neg sat : Bool), c + 1 ≤ F.maxCode →
     let lower := F.decode c
     let upper := F.decode (c + 1)
     let inner := F.sign neg + c
     let outer := F.sign neg + (c + 1)
     let v : Val := .fin neg m e
     let code := fun r => (F.round v r sat).1
     lower.lt (.fin false m e) = true → (Val.fin false m e).lt upper = true →
       code .rtz = inner ∧ code .rup = (if neg then inner else outer) ∧ code .rdn = (if neg then outer else inner) ∧
       (∀ r, (F.round v r sat).2 = { noFlags with nx := true, uf := (F.round v r sat).2.uf } ∧
         (2 ^ F.frac ≤ c → (F.round v r sat).2.uf = false) ∧ (c + 1 < 2 ^ F.frac → (F.round v r sat).2.uf = true)) ∧
       ∀ p q : Nat, ∀ g : Int, g ≤ e → (l : Int) = m * 2 ^ (e - g).toNat →
         lower.lt (.fin false p g) = false → (Val.fin false p g).lt lower = false →
         upper.lt (.fin false q g) = false → (Val.fin false q g).lt upper = false →
         code .rne = (if 2 * l < p + q then inner else if p + q < 2 * l then outer else if c % 2 = 0 then inner else outer) ∧
         code .rmm = if 2 * l < p + q then inner else outer) ∧
  (∀ (F : Fmt) (m : Nat) (e : Int) (neg sat : Bool) (r : Rm),
     let toward := r = .rne ∨ r = .rmm ∨ (r = .rup ∧ neg = false) ∨ (r = .rdn ∧ neg = true)
     let wide := F = .fp64 ∨ F = .fp32 ∨ F = .fp16 ∨ F = .bf16 ∨ F = .e5m2
     (∀ (p q l : Nat) (g : Int), g ≤ e → (l : Int) = m * 2 ^ (e - g).toNat →
       (F.decode F.maxCode).lt (.fin false p g) = false → (Val.fin false p g).lt (F.decode F.maxCode) = false →
       (F.decode (F.maxCode - 1)).lt (.fin false q g) = false → (Val.fin false q g).lt (F.decode (F.maxCode - 1)) = false →
       p < l →
       let next := p + (p - q)
       let stays := l < next ∧ match r with
         | .rtz => True
         | .rup => neg = true
         | .rdn => neg = false
         | .rne => 2 * l < p + next ∨ (2 * l = p + next ∧ F.maxCode % 2 = 0)
         | .rmm => 2 * l < p + next
       (stays → F.round (.fin neg m e) r sat = (F.sign neg + F.maxCode, { noFlags with nx := true })) ∧
       (¬stays → F.round (.fin neg m e) r sat = (if sat = false ∧ toward ∧ wide then F.sign neg + F.top
         else if sat = false ∧ toward ∧ F = .e4m3 then 0x7F else F.sign neg + F.maxCode, { noFlags with of := true, nx := true }))) ∧
     F.round (.inf neg) r sat = if sat = false ∧ wide then (F.sign neg + F.top, noFlags)
       else if sat = false ∧ F = .e4m3 then (0x7F, { noFlags with nv := true })
       else (F.sign neg + F.maxCode, { noFlags with nv := true })) ∧
  (∀ (r : Rm) (s t u : Bool) (a b c : Nat) (e f k g : Int),
     let units := fun (neg : Bool) (m : Nat) (e g : Int) => (if neg then -1 else 1) * (m : Int) * 2 ^ (e - g).toNat
     (g ≤ e → g ≤ f → ∃ neg n h, fpAdd r (.fin s a e) (.fin t b f) = (.fin neg n h, noFlags) ∧ (g ≤ h ∧
       units neg n h g = units s a e g + units t b f g)) ∧
     (g ≤ e + f → ∃ neg n h, fpMul (.fin s a e) (.fin t b f) = (.fin neg n h, noFlags) ∧ (g ≤ h ∧
       units neg n h g = units (s != t) (a * b) (e + f) g)) ∧
     (g ≤ e + f → g ≤ k → ∃ neg n h, fpFma r (.fin s a e) (.fin t b f) (.fin u c k) = (.fin neg n h, noFlags) ∧ (g ≤ h ∧
       units neg n h g = units (s != t) (a * b) (e + f) g + units u c k g)) ∧
     (a ≠ 0 → b ≠ 0 → ∃ n h, fpDiv (.fin s a e) (.fin t b f) = (.fin (s != t) n h, noFlags) ∧
       ∀ (p : Nat) (q : Int), p < 2 ^ 64 → g ≤ q → g ≤ h → g ≤ q + f → g ≤ e →
         (p * 2 ^ (q - g).toNat < n * 2 ^ (h - g).toNat ↔ p * b * 2 ^ (q + f - g).toNat < a * 2 ^ (e - g).toNat) ∧
         (n * 2 ^ (h - g).toNat < p * 2 ^ (q - g).toNat ↔ a * 2 ^ (e - g).toNat < p * b * 2 ^ (q + f - g).toNat)) ∧
     (a ≠ 0 → ∃ n h, fpSqrt (.fin false a e) = (.fin false n h, noFlags) ∧
       ∀ (p : Nat) (q : Int), p < 2 ^ 64 → g ≤ q → g ≤ h → g ≤ 2 * q → g ≤ e →
         (p * 2 ^ (q - g).toNat < n * 2 ^ (h - g).toNat ↔ p * p * 2 ^ (2 * q - g).toNat < a * 2 ^ (e - g).toNat) ∧
         (n * 2 ^ (h - g).toNat < p * 2 ^ (q - g).toNat ↔ a * 2 ^ (e - g).toNat < p * p * 2 ^ (2 * q - g).toNat))) ∧
  (∀ (s : State) (d a b c : Reg) (r : BitVec 3) (t : BitVec 2),
     let F := fmtOf2 t.toNat
     let half := 2 ^ (F.width - 1)
     let A := (s.getX a).toNat % 2 ^ F.width
     let B := (s.getX b).toNat % 2 ^ F.width
     let C := (s.getX c).toNat % 2 ^ F.width
     let nan := fun v : Nat => F.top < v % half
     let snan := fun v : Nat => decide (F.top < v % half ∧ v % 2 ^ F.frac < 2 ^ (F.frac - 1))
     let inf := fun v : Nat => v % half = F.top
     let zero := fun v : Nat => v % half = 0
     let finite := fun v : Nat => v % half < F.top
     let neg := fun v : Nat => decide (half ≤ v)
     let signed := fun (g : Bool) (v : Nat) => (if g then half else 0) + v
     let quiet := F.top + 2 ^ (F.frac - 1)
     let rdn := (if r = 7 then s.me.rm else Rm.ofCode r.toNat) == .rdn
     let gives := fun (i : Instr) (v : Nat) (nv dz : Bool) =>
       Completes i s ((s.me.setX d (.ofNat 64 v)).raiseFlags { noFlags with nv := nv, dz := dz })
     let sgn := neg A != neg B
     let add := Instr.fadd d a b r t
     let sub := Instr.fsub d a b r t
     let mul := Instr.fmul d a b r t
     let div := Instr.fdiv d a b r t
     let sqrt := Instr.fsqrt d a r t
     (nan A ∨ nan B → ∀ i ∈ [add, sub, mul, div], gives i quiet (snan A || snan B) false) ∧
     (nan A → gives sqrt quiet (snan A) false) ∧
     (nan A ∨ nan B ∨ nan C → gives (.ffma d a b c (t.setWidth 3)) quiet
       (snan A || snan B || snan C || decide (inf A ∧ zero B ∨ zero A ∧ inf B)) false) ∧
     (inf A → inf B → (if sgn then gives add quiet true false else gives add A false false) ∧
       (if sgn then gives sub A false false else gives sub quiet true false) ∧
       gives mul (signed sgn F.top) false false ∧ gives div quiet true false) ∧
     (inf A → finite B → gives add A false false ∧ gives sub A false false ∧ gives div (signed sgn F.top) false false ∧
       (if B % half = 0 then gives mul quiet true false else gives mul (signed sgn F.top) false false)) ∧
     (finite A → inf B → gives add B false false ∧ gives sub (signed (!neg B) F.top) false false ∧ gives div (signed sgn 0) false false ∧
       (if A % half = 0 then gives mul quiet true false else gives mul (signed sgn F.top) false false)) ∧
     (zero A → zero B → gives add (if sgn then signed rdn 0 else A) false false ∧ gives sub (if sgn then A else signed rdn 0) false false ∧
       gives mul (signed sgn 0) false false ∧ gives div quiet true false) ∧
     (finite A → finite B → A % half = B % half → ¬zero A →
       (if sgn then gives add (signed rdn 0) false false else gives sub (signed rdn 0) false false)) ∧
     (finite A → ¬zero A → zero B → gives add A false false ∧ gives sub A false false ∧ gives mul (signed sgn 0) false false ∧
       gives div (signed sgn F.top) false true) ∧
     (zero A → finite B → ¬zero B → gives add B false false ∧ gives mul (signed sgn 0) false false ∧ gives div (signed sgn 0) false false) ∧
     (finite A → B % half = F.bias * 2 ^ F.frac → gives mul (signed sgn (A % half)) false false ∧
       gives div (signed sgn (A % half)) false false) ∧
     (zero A ∨ A = F.top → gives sqrt A false false) ∧ (neg A = true → ¬zero A → ¬nan A → gives sqrt quiet true false) ∧
     (∀ i ∈ [Instr.fmin d a b t, Instr.fmax d a b t],
       (nan A → nan B → gives i quiet (snan A || snan B) false) ∧ (nan A → ¬nan B → gives i B (snan A) false) ∧
       (¬nan A → nan B → gives i A (snan B) false)) ∧
     (zero A → zero B → gives (.fmin d a b t) (signed (neg A || neg B) 0) false false ∧
       gives (.fmax d a b t) (signed (neg A && neg B) 0) false false) ∧
     (∀ cc : BitVec 4,
       let cmp := fun (v nv : Bool) =>
         Completes (.fcmp d a b cc t) s ((s.me.setP (low3 d) v).raiseFlags { noFlags with nv := nv })
       (nan A ∨ nan B → (cc = 0 ∨ cc = 13 → cmp false (snan A || snan B)) ∧ (cc = 1 ∨ cc = 12 → cmp true (snan A || snan B)) ∧
         (2 ≤ cc.toNat → cc.toNat ≤ 5 → cmp false true)) ∧
       (zero A → zero B → cmp (cc = 0 ∨ cc = 3 ∨ cc = 4 ∨ cc = 13) false ∨ 5 < cc.toNat ∧ cc.toNat ≠ 12 ∧ cc.toNat ≠ 13)) ∧
     (∀ T : BitVec 4, 4 ≤ T.toNat → T.toNat ≤ 7 → b.toNat % 16 = T.toNat →
       let G := fmtOf T.toNat
       (nan A → gives (.fcvt d a b 0 r t) (G.top + 2 ^ (G.frac - 1)) (snan A) false) ∧
       (inf A → gives (.fcvt d a b 0 r t) (G.sign (neg A) + G.top) false false)) ∧
     ∀ T : Nat, T = 2 ∨ T = 3 → b.toNat % 16 = T →
       let w := 8 * 2 ^ T
       let u := b.getLsbD 4
       let int := fun i : Int => Completes (.fcvt d a b 0 r t) s ((s.me.setX d (.ofInt 64 i)).raiseFlags { noFlags with nv := true })
       (nan A → int 0) ∧
       (inf A → int (if u then (if neg A then 0 else 2 ^ w - 1) else if neg A then -2 ^ (w - 1) else 2 ^ (w - 1) - 1)))

/-! ## Registers, transfers, traps, control words -/

/-- R90, R130, R146, R153, R84: padding, prepares, moves of branch registers and RDTIME. A target's low three bits are dropped; a
prepare completes alike with every hint, which lets it bring the target's line into the caches and, where no copy unit has a line pinned
(R276), has no other effect, none at all with hint 3 (R131). PAUSE changes only the issue order (R282).
R132, R77, R47: BR and CALL check in step 1 only the valid bit of their b register, and trap with cause 0x03 where it is clear;
step 3 reads the predicate: a taken transfer goes to the target, a CALL then leaves the address of its bundle + 8 in b0, one not
taken goes on at the bundle's address + 8.
R148, R149: ERET, from supervisor mode up, and URET, from user mode with an upcall active, name their transfer in step 1 and
trap otherwise. In step 3 ERET restores cw.status from cw.estat with a mode never above the one it runs in, and goes to the bundle
and slot of cw.epc, or of cw.fwepc in firmware mode; URET clears uact and goes to those of cw.uepc. -/
def Obligations.PreparesBranchesReturns : Prop :=
  (∀ (s : State) (d a : Reg) (b : BitVec 3) (o : BitVec 20) (h : BitVec 2) (i : BitVec 48),
     let tgt := fun (v : Dword) (valid : Bool) => ({ target := .ofNat 61 (v.toNat / 8), valid := valid } : BReg)
     CompletesC .cnop s s.me ∧
     CompletesC .pause s { s.me with pausedTill := s.cyc + 16 } ∧
     (∃ u t, (NoPins s → CachesOnly s u) ∧ (h = 3 → u = s) ∧ exec (.prep b o h) s = .next t ∧
       StepOneDone u t (s.me.setB b (tgt (.ofInt 64 (s.me.pc.toNat + o.toInt * 8)) true))) ∧
     (∃ u t, (NoPins s → CachesOnly s u) ∧ (h = 3 → u = s) ∧ exec (.prepx d a h) s = .next t ∧
       StepOneDone u t (s.me.setB (low3 d) (tgt (s.getX a) true))) ∧
     CompletesC (.bclr d a) s (s.me.setB (low3 d) (tgt (s.getX a) false)) ∧
     CompletesC (.movxb d a) s (s.me.setX d
       (.ofNat 64 ((s.me.getB (low3 a)).target.toNat * 8 + if (s.me.getB (low3 a)).valid then 1 else 0))) ∧
     CompletesC (.rdtime d) s (s.me.setX d s.dev.time) ∧
     ∃ u t, (NoPins s → CachesOnly s u) ∧ (h = 3 → u = s) ∧ exec (.lprep b h i) s = .next t ∧
       BundleDone u t { s.me.setB b (tgt (.ofInt 64 (i.toInt * 8)) true) with xfer := .next }) ∧
  (∀ (s : State) (b p : BitVec 3) (n : BitVec 1),
     ((s.me.getB b).valid = true →
       (∃ t, exec (.br b p n) s = .next t ∧ StepOneEnds s t s.me (.br b p n)) ∧
       ∃ t, exec (.call b p n) s = .next t ∧ StepOneEnds s t s.me (.call b p n)) ∧
     ((s.me.getB b).valid = false →
       exec (.br b p n) s = .next (s.trapC (exc 3 (.ofNat 64 b.toNat))) ∧
       exec (.call b p n) s = .next (s.trapC (exc 3 (.ofNat 64 b.toNat)))) ∧
     ∀ c : Ctx,
       let taken := c.getP p != (n == 1)
       let at_ := fun (c : Ctx) (v : Nat) => { c with pc := .ofNat 64 (v / 8 * 8), slotA := false, phase := .fetch, xfer := .next }
       let fall := c.pc.toNat + 8
       ({ c with xfer := .next } : Ctx).transfer = at_ c fall ∧
       ({ c with xfer := .br b p n } : Ctx).transfer = (if taken then at_ c ((c.getB b).target.toNat * 8) else at_ c fall) ∧
       ({ c with xfer := .call b p n } : Ctx).transfer =
         (if taken then at_ (c.setB 0 { target := .ofNat 61 (fall / 8), valid := true }) ((c.getB b).target.toNat * 8)
          else at_ c fall)) ∧
  ((∀ s : State,
     (s.me.mode ≠ 0 → ∃ t, exec .eret s = .next t ∧ StepOneEnds s t s.me .eret) ∧
     (s.me.mode = 0 → exec .eret s = .next (s.trapC (exc 2 s.me.instrWord))) ∧
     (s.me.mode = 0 → s.me.cw.upctl.getLsbD 1 = true → ∃ t, exec .uret s = .next t ∧ StepOneEnds s t s.me .uret) ∧
     (s.me.mode ≠ 0 ∨ s.me.cw.upctl.getLsbD 1 = false → exec .uret s = .next (s.trapC (exc 1 s.me.instrWord)))) ∧
   ∀ c : Ctx,
     let goes := fun (c : Ctx) (e : Dword) =>
       { c with pc := .ofNat 64 (e.toNat / 8 * 8), slotA := e.getLsbD 2, phase := .fetch, xfer := .next }
     let low := min (c.cw.estat.toNat % 4) c.mode.toNat
     let m := if low = 2 then 1 else low
     let r := ({ c with xfer := .eret } : Ctx).transfer
     r = goes { c with cw := { c.cw with status := (c.cw.estat &&& 0x1C) ||| .ofNat 64 m } }
       (if c.mode = 3 then c.cw.fwepc else c.cw.epc) ∧
     r.mode.toNat ≤ c.mode.toNat ∧ r.mode ≠ 2 ∧
     ({ c with xfer := .uret } : Ctx).transfer = goes { c with cw := { c.cw with upctl := c.cw.upctl &&& 1 } } c.cw.uepc)

/-- R296, R297, R147, R79: a trap that does not go to firmware makes the supervisor entry, in the context that raises it and in no other, at
the cw.trapvec of its bundle's rename (R55); TRAP raises the system call at slot A and BRK the breakpoint at slot C, and the turn passes. A
pattern that is no instruction, or an A word beside a solo C word, raises cause 0x01 with the pattern, at the slot whose step holds it (R91,
R80).
R296, R50, R360: code 0x30, and every synchronous trap from firmware mode or from supervisor mode with nx set, enters firmware.
A trap of another code is a double trap: it is kept as an error record whose index cw.tval reports. -/
def Obligations.TrapEntries : Prop :=
  ((∀ (s : State) (c : CtxId) (e : Exc) (slot : Bool), ¬GoesToFirmware (s.ctx c) e →
     EntersSupervisor s (s.enterTrap c e slot) c e slot) ∧
   (∀ (s : State) (code : BitVec 15),
     let call : Exc := { code := 0x0F, detail := 0, tval := .ofNat 64 code.toNat, tval2 := 0, intr := false }
     let brk : Exc := { code := 0x0E, detail := 0, tval := .ofNat 64 code.toNat, tval2 := 0, intr := false }
     exec (.trap code) s = .next (s.enterTrap s.cur call true).yieldTurn ∧
     exec (.brk code) s = .next (s.enterTrap s.cur brk false).yieldTurn ∧
     ((s.me.mode = 0 ∨ (s.me.mode = 1 ∧ s.me.cw.status.getLsbD 4 = false)) →
       (∃ t, exec (.trap code) s = .next t ∧ ∃ u, EntersSupervisor s u s.cur call true ∧ t = u.yieldTurn) ∧
       ∃ t, exec (.brk code) s = .next t ∧ ∃ u, EntersSupervisor s u s.cur brk false ∧ t = u.yieldTurn)) ∧
   ∀ (s : State) (r : Reject), s.me.st = .running →
     let w := s.me.bundle
     let c := w.extractLsb' 0 32
     let a := w.extractLsb' 32 32
     let traps := fun (v : Dword) (slot : Bool) => s.now = some (.illegalInstruction v) →
       exec .illegalInstruction s = .next (s.enterTrap s.cur (exc 1 v) slot).yieldTurn
     (s.me.phase = .first → w.getLsbD 31 = true → decodeLong w = .error r → traps w false) ∧
     (s.me.phase = .first → w.getLsbD 31 = false → isSolo c = false → decodeC c = .error r → traps (.ofNat 64 c.toNat) false) ∧
     (s.me.phase = .first → w.getLsbD 31 = false → isSolo c = true → a ≠ 0 → traps (.ofNat 64 a.toNat) false) ∧
     (s.me.phase = .second → w.getLsbD 31 = false → decodeA a = .error r → traps (.ofNat 64 a.toNat) true)) ∧
  (∀ (s : State) (c : CtxId) (e : Exc) (slot : Bool), GoesToFirmware (s.ctx c) e →
     let t := s.enterTrap c e slot
     (e.code = 0x30 → EntersFirmware s t c e.detail e.tval slot ∧ t.ras = s.ras) ∧
     (e.code ≠ 0x30 → ∃ (i : Nat) (r : Vector Dword 8),
       EntersFirmware s t c 1 (.ofNat 64 i) slot ∧ (i, r) ∈ t.ras.ring ∧ r[0].toNat % 8 = 3 ∧
       r[4] = .ofNat 64 (e.code + e.detail * 2 ^ 8 + if e.intr then 2 ^ 63 else 0) ∧ r[5] = e.tval ∧ r[6] = e.tval2 ∧
       r[7] = .ofNat 64 ((s.ctx c).pc.toNat / 8 * 8 + if slot then 4 else 0)))

/-- R51: in a mode below the one it needs, an instruction of R51's table raises cause 0x02 with the instruction's word, and has no
other effect: ERET, TLBINV, CTXSAVE, CTXLOAD, TSAVE and TRSTR from user mode, HALT from below firmware mode, and an access to a
control word of a higher range. -/
def Obligations.PrivilegedInstructionsTrap : Prop :=
  ∀ (s : State) (d a b : Reg) (q : BitVec 3) (n : BitVec 15),
    let traps (i : Instr) : Prop := exec i s = .next (s.trapC { code := 2, detail := 0, tval := s.me.instrWord, tval2 := 0, intr := false })
    (s.me.mode = 0 → traps .eret ∧ traps .tlbinvAll ∧ traps (.tlbinvAsn b) ∧ traps (.tlbinvPage a b) ∧ traps (.tlbinvVa a) ∧
      traps (.ctxsave a) ∧ traps (.ctxload a) ∧ traps (.tsave b) ∧ traps (.trstr q b)) ∧
    (s.me.mode ≠ 3 → traps .halt) ∧
    (s.me.mode.toNat < (if n.toNat < 0x100 then 0 else if n.toNat < 0x200 then 1 else 3) →
      (cwExists n.toNat = true → traps (.getcw d n)) ∧
      (cwWritable n.toNat = true → traps (.setcw a n) ∧ traps (.swapcw d a n)))

/-- R135, R150 to R152, R154, R200, R210, R211, R27: WAIT, HALT, WAITUNTIL, TOKWAIT, MKWAIT and TKWAIT complete where their condition holds
and park the context otherwise; WAIT and HALT clear the wake-event latch when they complete; WAITUNTIL writes package time; a MKWAIT writes
whether its phase is still to be waited for. IFENCE has the thread's stores performed, waits for its posted ones, and drops what the core
holds of the address space's code. That a TOKWAIT, as any acquire, waits at a fabric scope for the thread's posted stores is the model's
choice (log 101). -/
def Obligations.WaitsCompleteOrPark : Prop :=
  ∀ (s : State) (d a b : Reg) (m : BitVec 5) (p k : BitVec 3) (scope : BitVec 4),
    let pend := (s.me.cw.ipend &&& 0x1E) ||| if s.me.cw.timecmp.toNat ≤ s.dev.time.toNat then 1 else 0
    let met := s.me.cw.ien &&& pend ≠ 0 ∨ s.me.latch = true
    let mk := tableGet (s.skein (skeinOf s.cur)).markers m.toNat Marker.reset
    let u := s.getX a
    let ticket := (s.getX a).extractLsb' 0 16
    (met → CompletesC .wait s { s.me with latch := false } ∧ (s.me.mode = 3 → CompletesC .halt s { s.me with latch := false })) ∧
    (¬met → ParksAt .wait s .wait ∧ (s.me.mode = 3 → ParksAt .halt s .wait)) ∧
    ((s.getX a).toNat ≤ s.dev.time.toNat → CompletesC (.waituntil d a) s (s.me.setX d s.dev.time)) ∧
    (s.dev.time.toNat < (s.getX a).toNat → ParksAt (.waituntil d a) s (.until (s.getX a))) ∧
    (u = BitVec.allOnes 64 ∨ u.toNat < mk.b.toNat → CompletesC (.mkwait a m p) s (s.me.setP p false)) ∧
    (u ≠ BitVec.allOnes 64 → mk.b.toNat ≤ u.toNat → u.toNat < mk.p.toNat → ∃ t, exec (.mkwait a m p) s = .next t ∧
      StepOneDone (s.acquireS (coreOf s.cur) 2) t (s.me.setP p true)) ∧
    (u ≠ BitVec.allOnes 64 → mk.b.toNat ≤ u.toNat → mk.p.toNat ≤ u.toNat → ParksAt (.mkwait a m p) s (.marker (skeinOf s.cur) m u)) ∧
    (s.ticketReady s.cur ticket = true → CompletesC (.tkwait a) s s.me) ∧
    (s.ticketReady s.cur ticket = false → ParksAt (.tkwait a) s (.tkwait ticket)) ∧
    ((s.getX b).toNat % 8 ≠ 0 → exec (.tokwait scope k a b) s = .next (s.trapC (exc 4 (s.getX b)))) ∧
    (∀ s1 l s2 w, (s.getX b).toNat % 8 = 0 → s.mapRange (s.who s.cur) .load (s.getX b) 8 = .ok (s1, l) →
      (s1.acquire s.cur scope).readBytes s.cur l = .ok (s2, w) →
      let v : Dword := .ofNat 64 (ofBytes w)
      let holds := if k = 0 then (s.getX a).toNat ≤ v.toNat else if k = 1 then v = s.getX a else v ≠ s.getX a
      (holds → s.releaseWaits s.cur scope = true → exec (.tokwait scope k a b) s = .next s.stall) ∧
      (holds → s.releaseWaits s.cur scope = false → ∃ t, exec (.tokwait scope k a b) s = .next t ∧ StepOneDone s2 t s2.me) ∧
      (¬holds → ∃ t, exec (.tokwait scope k a b) s = .next t ∧
        Parks s2 t (.token (s.getX b) (scope.toNat < 2) k (s.getX a)))) ∧
    (let s1 := s.drain s.cur
     s1.posted s1.cur = [] → ∃ t, exec .ifence s = .next t ∧ ElseSame s1 t ∧ MemorySame s1 t ∧
       t.me = { s1.me with phase := .second, xfer := .next } ∧ t.turns = s1.turns ∧
       t.myCore = { s1.myCore.leaveFused (ctxInCore s.cur) with icache := t.myCore.icache } ∧
       ∀ e, e ∈ t.myCore.icache ↔ e ∈ s1.myCore.icache ∧ e.asn ≠ s.me.cw.asn) ∧
    (let s1 := s.drain s.cur
     s1.posted s1.cur ≠ [] → exec .ifence s = .next s1.stall)

/-- R53 to R64, R155: a control word that exists is read by GETCW where the mode allows it; a write by SETCW or SWAPCW stores the
word's writable bits, keeps its read-only ones, clears the bits of cw.ipend written 1, and stores a rounding mode of 5 to 7 as 0; no
other word changes but cw.ipend's timer bit with cw.timecmp; a number that names no word, or no writable word, raises cause 0x01 in every
mode, before the mode is checked, which is the model's reading (log 54, DEDUCED). That the ignored bits [2:0] of cw.uvec, cw.trapvec,
cw.exitpc and cw.fwvec read as 0 after a write is its choice (log 76). -/
def Obligations.ControlWordAccess : Prop :=
  ∀ (s : State) (d a : Reg) (n : BitVec 15),
    let v := s.getX a
    let read := fun (t : State) (n : Nat) => t.readCw s.cur n
    let stored : Nat → Dword := fun n =>
      match n with
      | 0x003 => 1 | 0x004 => ~~~7 | 0x005 => ~~~3 | 0x100 => 0x1C | 0x101 => 0x1F | 0x102 => ~~~3
      | 0x103 => 0x800000000000FFFF | 0x104 => ~~~0 | 0x105 => 0xC00000000000FFFF | 0x106 => ~~~0 | 0x108 => 0x1F
      | 0x10A => ~~~0 | 0x180 => ~~~7 | 0x181 => ~~~7 | 0x182 => 0xFFFFFFFFFFFF | 0x200 => ~~~7 | 0x201 => ~~~3
      | _ => 0x800000000000FFFF
    let kept : Nat → Dword := fun n => if n = 0x003 then 2 else if n = 0x100 then 3 else 0
    let needs := if n.toNat < 0x100 then 0 else if n.toNat < 0x200 then 1 else 3
    (cwExists n.toNat = false → exec (.getcw d n) s = .next (s.trapC (exc 1 s.me.instrWord))) ∧
    (cwWritable n.toNat = false → exec (.setcw a n) s = .next (s.trapC (exc 1 s.me.instrWord)) ∧
      exec (.swapcw d a n) s = .next (s.trapC (exc 1 s.me.instrWord))) ∧
    (cwExists n.toNat = true → needs ≤ s.me.mode.toNat → CompletesC (.getcw d n) s (s.me.setX d (read s n.toNat))) ∧
    (cwWritable n.toNat = true → needs ≤ s.me.mode.toNat → ∀ swap : Bool,
      ∃ t, exec (if swap then .swapcw d a n else .setcw a n) s = .next t ∧ ElseSame s t ∧ MemorySame s t ∧
        t.turns = s.turns ∧
        t.me = { s.me with cw := t.me.cw, x := if swap then (s.me.setX d (read s n.toNat)).x else s.me.x
                           phase := .second, xfer := .next } ∧
        t.myCore = { s.myCore with trapvec := t.myCore.trapvec, exitpc := t.myCore.exitpc, robcap := t.myCore.robcap
                                   fwvec := t.myCore.fwvec } ∧
        (n ≠ 0x002 → n ≠ 0x109 → read t n.toNat = (read s n.toNat &&& kept n.toNat) ||| (v &&& stored n.toNat)) ∧
        (n = 0x002 → read t 2 = (v &&& 0x1F0) ||| if v.toNat % 8 ≤ 4 then v &&& 7 else 0) ∧
        (n = 0x109 → read t 0x109 = read s 0x109 &&& ~~~(v &&& 0x1E)) ∧
        ∀ j, cwExists j = true → j ≠ n.toNat → ¬(n = 0x10A ∧ j = 0x109) → read t j = read s j)

/-- R157, R158: TLBINV, from supervisor mode up, once no posted store of the thread is outstanding, drops exactly the cached translations
its function names, and changes no register and no byte of memory beyond the stores performed. That it first has the stores of all the
core's threads performed, and that .page drops global entries of every address space, is the model's reading (log 55, DEDUCED).
R325 to R327, R339: a shootdown slot's request drops every cached translation its kind and range name, and nothing where its descriptor
is not allowed; slot 16 alone drops window translations. It completes once the stores made under what it dropped are performed, and then
writes its sequence number, with bit 32 set where it was refused, to its completion word. When a request completes is the model's reading
(log 33). -/
def Obligations.TranslationsAreDropped : Prop :=
  (∀ (s : State) (a b : Reg), s.me.mode ≠ 0 → s.me.st = .running →
     let s1 := s.drainCore (coreOf s.cur)
     let va := s.getX a
     let asn : BitVec 16 := .ofNat 16 (s.getX b).toNat
     let covers := fun (e : TlbEntry) => va.toNat < 2 ^ 56 ∧ e.vpn * 4096 / 2 ^ e.shift = va.toNat / 2 ^ e.shift
     let drops (i : Instr) (p : TlbEntry → Prop) : Prop :=
       (s1.posted s.cur ≠ [] → exec i s = .next s1.stall) ∧
       (s1.posted s.cur = [] → ∃ t, exec i s = .next t ∧ MemorySame s1 t ∧
         t.me = { s1.me with phase := .second, xfer := .next } ∧
         t.myCore = { s1.myCore with tlb := t.myCore.tlb } ∧
         (∀ e, e ∈ t.myCore.tlb ↔ e ∈ s1.myCore.tlb ∧ ¬p e) ∧
         ∀ k, k ≠ coreOf s.cur → t.core k = s1.core k)
     drops .tlbinvAll (fun _ => True) ∧
     drops (.tlbinvAsn b) (fun e => e.global = false ∧ e.asn = asn) ∧
     drops (.tlbinvPage a b) (fun e => (e.global = true ∨ e.asn = asn) ∧ covers e) ∧
     drops (.tlbinvVa a) covers) ∧
  ((∀ (s : State) (n : BitVec 5), s.now = some (.shootdownRequest n) →
     let w := (s.sdq n).w
     let kind := w[0].toNat % 16
     let asn : BitVec 16 := .ofNat 16 (w[0].toNat / 2 ^ 16)
     let allowed := kind ≤ 4 ∧ (kind = 4 → n = 16) ∧ w[0].toNat / 16 % 2 ^ 12 = 0 ∧ w[3].toNat % 8 = 0
     let within := fun e : TlbEntry =>
       let lo := e.vpn * 4096 / 2 ^ e.shift * 2 ^ e.shift
       w[2] = 0 ∨ (lo < w[1].toNat + w[2].toNat ∧ w[1].toNat < lo + 2 ^ e.shift)
     let named := fun e : TlbEntry => kind = 0 ∨ (kind = 1 ∧ e.global = false ∧ e.asn = asn) ∨
       (kind = 2 ∧ (e.global = true ∨ e.asn = asn) ∧ within e) ∨ (kind = 3 ∧ within e)
     (16 < n.toNat ∨ (s.sdq n).busy ≠ none → exec .shootdownRequest s = .next s) ∧
     (n.toNat ≤ 16 → (s.sdq n).busy = none → ∃ t, exec .shootdownRequest s = .next t ∧ MemorySame s t ∧
       (t.sdq n).w = w ∧ .own (.shootdownComplete n) ∈ t.agenda ∧
       (¬allowed → (t.sdq n).busy = some (w, true) ∧ (∀ k, t.core k = s.core k) ∧ (∀ c, t.ctx c = s.ctx c) ∧ t.dev.wins = s.dev.wins) ∧
       (allowed → (t.sdq n).busy = some (w, false) ∧
         (∀ k, t.core k = { s.core k with tlb := (t.core k).tlb, ast := (t.core k).ast }) ∧
         (kind = 4 → t.dev.wins = [] ∧ ∀ k, t.core k = s.core k) ∧
         (kind ≠ 4 → t.dev.wins = s.dev.wins ∧
           (∀ k e, e ∈ (t.core k).tlb ↔ e ∈ (s.core k).tlb ∧ ¬named e) ∧
           (∀ k e, e ∈ (t.core k).ast ↔ e ∈ (s.core k).ast ∧ ¬(kind = 0 ∨ kind = 3 ∨ e.asn = asn)) ∧
           ∀ e, e ∈ t.dev.ast ↔ e ∈ s.dev.ast ∧ ¬(kind = 0 ∨ kind = 3 ∨ e.asn = asn))))) ∧
   ∀ (s : State) (n : BitVec 5) (w : Vector Dword 4) (bad : Bool), s.now = some (.shootdownComplete n) →
     (s.sdq n).busy = some (w, bad) →
     let s1 := s.listedCores.foldl (fun s c => (s.drainCore c).landUnits c) s
     ∃ t, exec .shootdownComplete s = .next t ∧ (t.sdq n).busy = none ∧ (∀ c, t.ctx c = s1.ctx c) ∧
       (∀ c, coreOf c ∈ s.listedCores → (t.ctx c).stores = []) ∧
       ((∀ off, s1.region w[3].toNat ≠ .dev off) → s1.agentReaches false w[3].toNat = true → Memory.wf s1.mem = true →
         let at_ := (s1.region w[3].toNat).loc
         ofBytes (readCells t.mem at_ 8) = w[0].toNat / 2 ^ 32 + (if bad then 2 ^ 32 else 0) ∧
         (NoPins s1 → ∀ a, a < at_ ∨ at_ + 8 ≤ a → readCell t.mem a = readCell s1.mem a)))

/-! ## Memory -/

/-- R94, R52, R239: a firmware-mode access is not translated: bytes of committed or uncommitted HBM that is ready are those at their
offset, treated as D, and nothing changes; bits [63:56] set raise the access fault with detail 1. In a lower mode a fabric address raises it
with detail 2, an address with bits [62:56] set with detail 1.
R322, R320: the walk of a table from level 4 down reads the entry that bits [12 + 9·level + 8:12 + 9·level] of the address index, as
home holds it: V clear is not present; then each of R322's malformed cases is malformed; a leaf ends the walk, anything else leads to the
table of its PPN. An address space's entry is the core's copy, or the table's four doublewords, valid with bit 0 set and its zero fields
zero.
R321 to R324, R52: translating a page in a lower mode. An address space that is not valid raises the page fault with detail 0. A cached
leaf that permits the access and needs no update serves it; else a walk that finds a leaf: the mode rule raises the access fault with
detail 3, a permission the leaf lacks the page fault with detail 1, a write to a page whose D bit is clear in a dref address space the page
fault with detail 2, A being set all the same; otherwise A, and D for a write, are set in that PTE and no other byte, and the address is the leaf's page with the
offset. No leaf raises detail 0, a malformed one 1. A tile access faults with cause 0x08 and never with detail 2.
R94, R323: translating an access changes nothing but bits A and D of the leaf PTEs that walks of its own addresses find, what its core
caches of the tables, and which lines the caches hold and in what state, no S line of an L1 among them; the bytes it gives are those of the
access, in order; a firmware-mode access changes nothing. Only where a copy unit has pinned a line of the tables, which the unit writes
first (R276), is the state not as said here. -/
def Obligations.TranslationOutcomes : Prop :=
  (∀ (s : State) (w : Who) (k : Kind) (va : Dword) (n : Nat),
     (w.mode = 3 → va.toNat < 2 ^ 56 → s.dev.hbmBase ≤ va.toNat → va.toNat + n ≤ s.dev.hbmBase + 768 * 2 ^ 30 →
       (va.toNat + n ≤ s.dev.bar0 ∨ s.dev.bar0 + 256 * 2 ^ 20 ≤ va.toNat) →
       (∀ d, d < 8 → s.boot.ready.getLsbD (9 + d) = true ∧ s.boot.ready.getLsbD (33 + d) = false) →
       s.mapRange w k va n = .ok (s, (List.range n).map fun j =>
         { va := va.toNat + j, loc := va.toNat + j - s.dev.hbmBase, t := .D })) ∧
     (w.mode = 3 → 2 ^ 56 ≤ va.toNat → s.mapRange w k va n = .error (.trap (excD 9 1 va))) ∧
     (w.mode ≠ 3 → 2 ^ 63 ≤ va.toNat → s.mapRange w k va n = .error (.trap (excD 9 2 va))) ∧
     (w.mode ≠ 3 → 2 ^ 56 ≤ va.toNat → va.toNat < 2 ^ 63 → s.mapRange w k va n = .error (.trap (excD 9 1 va)))) ∧
  ((∀ (s : State) (va table level : Nat),
     let at_ := table + 8 * (va / 2 ^ (12 + 9 * level) % 512)
     let w := s.walkFrom va level table
     (∀ e, s.physDword false at_ = .error e → w = .error e) ∧
     ∀ p, s.physDword false at_ = .ok p →
       let bit := fun n : Nat => p.getLsbD n = true
       let ppn := p.toNat / 2 ^ 10 % 2 ^ 44
       let leaf := bit 1 ∨ bit 3
       let malformed := (bit 2 ∧ ¬bit 1) ∨ (∃ n, 54 ≤ n ∧ n ≤ 62 ∧ bit n) ∨ (bit 63 ∧ ¬(level = 0 ∧ leaf ∧ ppn % 16 = 8)) ∨
         (¬leaf ∧ (bit 4 ∨ bit 6 ∨ bit 7)) ∨ (leaf ∧ ppn % 2 ^ (9 * level) ≠ 0) ∨ (level = 0 ∧ ¬leaf)
       (¬bit 0 → w = .ok .absent) ∧
       (bit 0 → malformed → w = .ok .malformed) ∧
       (bit 0 → ¬malformed → leaf → w = .ok (.leaf level p at_)) ∧
       (bit 0 → ¬malformed → ¬leaf → ∃ n, level = n + 1 ∧ w = s.walkFrom va n (ppn * 4096))) ∧
   (∀ (s : State) (firmware : Bool) (pa off : Nat), NoPins s → s.region pa = .hbm off → s.dev.committed = true ∨ firmware = true →
     s.boot.ready.getLsbD (9 + homeDie off) = true → s.boot.ready.getLsbD (33 + homeDie off) = false →
     s.physDword firmware pa = if s.poisoned off then .error (.machine 2 9 off) else .ok (.ofNat 64 (ofBytes (readCells s.mem off 8)))) ∧
   ∀ (s : State) (core : CoreId) (asn : BitVec 16),
     let base := s.dev.astBase.toNat
     let at_ := base / 2 ^ 21 % 2 ^ 35 * 2 ^ 21 + 32 * asn.toNat
     let valid := fun e : AsEntry => e.word0.getLsbD 0 = true ∧ e.word0.toNat / 2 ^ 4 % 2 ^ 8 = 0 ∧ e.word0.toNat / 2 ^ 56 = 0 ∧ e.last = 0
     let found := fun e : AsEntry => if valid e then some e else none
     (base % 2 ^ 17 ≤ asn.toNat → s.asEntry core asn = .ok (s, none)) ∧
     (asn.toNat < base % 2 ^ 17 →
       (∀ e, (s.core core).ast.find? (fun e => e.asn == asn) = some e → s.asEntry core asn = .ok (s, found e)) ∧
       (NoPins s → (∀ e ∈ (s.core core).ast, e.asn ≠ asn) → ∀ w0 w1 w2 w3, s.physDword true at_ = .ok w0 → s.physDword true (at_ + 8) = .ok w1 →
         s.physDword true (at_ + 16) = .ok w2 → s.physDword true (at_ + 24) = .ok w3 →
         let e : AsEntry := { asn := asn, word0 := w0, lmask := w1, dmask := w2, last := w3 }
         ∃ t, s.asEntry core asn = .ok (t, found e) ∧ (t.core core).ast = e :: (s.core core).ast ∧ t.mem = s.mem)) ∧
     ∀ e : AsEntry, e.root = e.word0.toNat / 2 ^ 12 % 2 ^ 44 * 2 ^ 12) ∧
  (∀ (s s1 : State) (w : Who) (k : Kind) (va : Nat), w.mode ≠ 3 → NoPins s →
     let v : Dword := .ofNat 64 va
     let r := s.translatePage w k va
     let tile := k = .tileRead ∨ k = .tileWrite ∨ k = .tileBoth
     let reads := k = .load ∨ k = .rmw ∨ k = .tileRead ∨ k = .tileBoth
     let writes := k = .store ∨ k = .rmw ∨ k = .tileWrite ∨ k = .tileBoth
     let code := match k with | .fetch => 5 | .load => 6 | .store => 7 | .rmw => 7 | _ => 8
     let info := match k with | .fetch => 0 | .load => 0 | .store => 0 | .rmw => 0 | _ => w.tval2
     let fault := fun (detail : Nat) =>
       r = .error (.trap { code := code, detail := detail, tval := v, tval2 := info, intr := false })
     let broken := fun p : Dword => if w.mode = 0 then p.getLsbD 4 = false else p.getLsbD 4 = true ∧ (k = .fetch ∨ w.sum = false)
     let may := fun p : Dword =>
       (k = .fetch → p.getLsbD 3 = true) ∧ (reads → p.getLsbD 1 = true) ∧ (writes → p.getLsbD 2 = true)
     let serves := fun e : TlbEntry => (e.global = true ∨ e.asn = w.asn) ∧ e.vpn * 4096 / 2 ^ e.shift = va / 2 ^ e.shift ∧
       ¬broken e.pte ∧ may e.pte ∧ e.pte.getLsbD 6 = true ∧ (writes → e.pte.getLsbD 7 = true)
     let page := fun (p : Dword) (size : Nat) => p.toNat / 2 ^ 10 % 2 ^ 44 * 4096 / size * size + va % size
     (s.asEntry w.core w.asn = .ok (s1, none) → fault 0) ∧
     ∀ a, s.asEntry w.core w.asn = .ok (s1, some a) →
       ((∃ e ∈ (s.core w.core).tlb, serves e) → ∃ e ∈ (s.core w.core).tlb, serves e ∧
         r = .ok (s1, page e.pte (2 ^ e.shift), pteTreat e.pte)) ∧
       ((∀ e ∈ (s.core w.core).tlb, ¬serves e) →
         (s1.walkFrom va 4 a.root = .ok .absent → fault 0) ∧
         (s1.walkFrom va 4 a.root = .ok .malformed → fault 1) ∧
         ∀ level p at_, s1.walkFrom va 4 a.root = .ok (.leaf level p at_) →
           let dirty := writes ∧ ¬tile ∧ p.getLsbD 7 = false ∧ a.word0.getLsbD 2 = true
           let size := 2 ^ (if p.getLsbD 63 then 16 else 12 + 9 * level)
           let loc := (s.region at_).loc
           (broken p → r = .error (.trap (excD 9 3 v))) ∧
           (¬broken p → ¬may p → fault 1) ∧
           (¬broken p → may p → dirty → p.getLsbD 6 = true → fault 2) ∧
           (¬broken p → may p → dirty → p.getLsbD 6 = false →
             let e : Exc := { code := code, detail := 2, tval := v, tval2 := 0, intr := false }
             r = .error (.dirtyRefused e at_ (p ||| 0x40)) ∧ ∃ t : State, s.stop (.dirtyRefused e at_ (p ||| 0x40)) = .next (t.trapC e) ∧
               t = { s with cores := t.cores, skeins := t.skeins, msc := t.msc, away := t.away, free := t.free, mem := t.mem } ∧
               (Memory.wf s.mem = true → t.memDword loc = p ||| 0x40 ∧
                 ∀ x, x < loc ∨ loc + 8 ≤ x → readCell t.mem x = readCell s.mem x)) ∧
           (¬broken p → may p → ¬dirty → ∃ t, r = .ok (t, page p size, pteTreat p) ∧
             (∃ e ∈ (t.core w.core).tlb, serves e ∧ page e.pte (2 ^ e.shift) = page p size) ∧
             (Memory.wf s.mem = true → t.memDword loc = (p ||| 0x40 ||| if k = .store ∨ k = .rmw ∨ k = .tileWrite ∨ k = .tileBoth then 0x80 else 0) ∧
               ∀ x, x < loc ∨ loc + 8 ≤ x → readCell t.mem x = readCell s.mem x)))) ∧
  (∀ (s t : State) (w : Who) (k : Kind) (va : Dword) (addrs : List Nat) (l : List ByteAt), NoPins s →
     s.mapBytes w k va addrs = .ok (t, l) →
     l.map (·.va) = addrs ∧ (w.mode = 3 → t = s) ∧
     (Memory.wf s.mem = true → Memory.wf t.mem = true ∧ ∀ x, readCell t.mem x = readCell s.mem x ∨
       ∃ s1 a, s.asEntry w.core w.asn = .ok (s1, some a) ∧ ∃ va' ∈ addrs, ∃ level p at_,
         s1.walkFrom va' 4 a.root = .ok (.leaf level p at_) ∧ x = (s.region at_).loc ∧
         (readCell t.mem x = readCell s.mem x ||| 0x40 ∨
           (k ≠ .fetch ∧ k ≠ .load ∧ k ≠ .tileRead ∧ readCell t.mem x = readCell s.mem x ||| 0xC0))) ∧
     t.core w.core = { s.core w.core with tlb := (t.core w.core).tlb, ast := (t.core w.core).ast, l1 := (t.core w.core).l1 } ∧
     (∀ c, c ≠ w.core → t.core c = { s.core c with l1 := (t.core c).l1 }) ∧
     (∀ c, (t.core c).l1.filter (·.s) = (s.core c).l1.filter (·.s)) ∧ (∀ k, t.skein k = { s.skein k with sc := (t.skein k).sc }) ∧
     t = { s with cores := t.cores, skeins := t.skeins, mem := t.mem, msc := t.msc, away := t.away, free := t.free })

/-- R245, R187, R241: a read first has the thread's older stores performed that merge a maximum into one of its bytes, or where a line is
poisoned. Then bytes of lines not poisoned are read as the thread's own youngest retired store to them left them, else as the core's S line
or home holds them, and nothing changes but what the caches hold; an access within one line finds there what it held before. A poisoned line
that the L1 does not hold on an S page traps with cause 0x0C and the line's address.
R185, R187, R242, R245: bytes stored to D or S pages wait in the thread's queue behind its older stores, seen by its own reads, and
memory keeps its bytes; bytes stored to a U page with no older store waiting are in memory at once, no cache holds the line as D, and no
other byte changes. A write of
part of a poisoned line traps with cause 0x0C. The queue is the model's choice (log 11).
R185, R187, R226, R241, R242: a retired store is performed when no older one orders it or writes its bytes, a fence or an acquire only when none
is older, and leaves the queue; a gang
stop holds those of an Exiting thread (R26). The bytes stored to a D page are then in memory, with a whole line's poison cleared, those stored
to an S page in the core's L1, and an amax word holds the unsigned maximum; no other byte changes but by write-backs of displaced S lines.
That retired stores stand in one queue a thread is the model's choice (log 11). -/
def Obligations.StoresAreSeenAndPerformed : Prop :=
  (∀ (s : State) (c : CtxId) (l : List ByteAt), (∀ b ∈ l, b.isDev = false) → NoPins s →
     let q := (s.ctx c).stores
     let core := coreOf c
     let bad := fun b : ByteAt => s.poisoned b.loc = true ∧
       ¬(b.t = .S ∧ ∃ e, (s.core core).findLine (b.loc / 128) = some e ∧ e.s = true)
     let merges := ∃ b ∈ l, ∃ t a m, Retired.amax t a m ∈ q ∧ a ≤ b.loc ∧ b.loc < a + 4
     let clean := ∀ b ∈ l, s.poisoned b.loc = false
     (clean → ¬merges → ∃ t, CachesMoved s t core ∧
       s.readBytes c l = .ok (t, l.map fun b =>
         match forwarded q b.loc with
         | some v => v
         | none => t.byteFor core b.t b.loc) ∧
       ∀ (n : Nat) (tr : Treat), (∀ b ∈ l, b.loc / 128 = n ∧ b.t = tr) → (∀ e : L1Line, tr = .S → (s.core core).findLine n = some e → e.s = true) →
         ∀ b ∈ l, t.byteFor core b.t b.loc = s.byteFor core b.t b.loc) ∧
     (merges ∨ ¬clean → s.readBytes c l = (s.drainFor c (l.map (·.loc))).readBytes c l) ∧
     ((∀ r ∈ q, ∀ b ∈ l, r.touches b.loc = false) → ∀ (i : Nat) (b : ByteAt), l[i]? = some b → bad b → (∀ (j : Nat) (b' : ByteAt), j < i → l[j]? = some b' → ¬bad b') →
       s.readBytes c l = .error (.trap (exc 0x0C (.ofNat 64 (b.va / 128 * 128)))))) ∧
  (∀ (s : State) (c : CtxId) (whole : Bool) (l : List ByteAt) (d : List Byte), l ≠ [] → l.length = d.length →
     (l.map (·.loc)).Nodup → NoPins s → (∀ b ∈ l, b.isDev = false) →
     let clean := ∀ b ∈ l, s.poisoned b.loc = false
     (clean → (∀ b ∈ l, b.t ≠ .U) → ∃ q,
       s.writeMemBytes c whole l d = .ok (s.modCtx c fun x => { x with stores := x.stores ++ q }) ∧
       (∀ j (h : j < l.length), forwarded ((s.ctx c).stores ++ q) l[j].loc = d[j]?) ∧
       ∀ a, a ∉ l.map (·.loc) → forwarded ((s.ctx c).stores ++ q) a = forwarded (s.ctx c).stores a) ∧
     (clean → (∀ b ∈ l, b.t = .U) → (s.ctx c).stores = [] → Memory.wf s.mem = true → ∃ t, s.writeMemBytes c whole l d = .ok t ∧
       (∀ j (h : j < l.length), d[j]? = some (readCell t.mem l[j].loc)) ∧
       (∀ a, a ∉ l.map (·.loc) → readCell t.mem a = readCell s.mem a) ∧
       (∀ k, t.ctx k = s.ctx k) ∧ (∀ k, t.core k = { s.core k with l1 := (t.core k).l1 } ∧
         ∀ e, e ∈ (t.core k).l1 ↔ e ∈ (s.core k).l1 ∧ ¬(e.s = false ∧ ∃ b ∈ l, e.line = b.loc / 128)) ∧
       t.dev = s.dev ∧ t.niu = s.niu ∧ t.agenda = s.agenda ∧
       t.turns = s.turns ∧ t.poison = s.poison) ∧
     ∀ n b, l.head? = some b → (∀ b' ∈ l, b'.loc / 128 = n ∧ b'.t = b.t) → s.poisoned b.loc = true → whole = false ∨ l.length < 128 →
       (∀ r ∈ (s.ctx c).stores, ∀ a, a / 128 = n → r.touches a = false) →
       ¬(b.t = .S ∧ ∃ e, (s.core (coreOf c)).findLine n = some e ∧ e.s = true) →
       s.writeMemBytes c whole l d = .error (.trap (exc 0x0C (.ofNat 64 (b.va / 128 * 128))))) ∧
  (∀ (s : State) (c : CtxId) (n : Nat) (r : Retired),
     let q := (s.ctx c).stores
     let core := coreOf c
     q[n]? = some r →
     let first := n = 0 ∨ (r.orders = false ∧ r ≠ .seen ∧ ∀ o ∈ q.take n, o.orders = false ∧ ∀ a ∈ r.locs, o.touches a = false)
     let held := s.dev.gsctl.getLsbD 1 = true ∧ (s.ctx c).st = .exiting
     let u := (s.setCtx c { s.ctx c with stores := q.eraseIdx n }).performRetired core r
     let kept := fun b => readCell u.mem b = readCell s.mem b ∨ WrittenBack (s.core core) b (readCell u.mem b)
     (s.now = some (.storePerform c n) →
       (first ∧ ¬held → exec .storePerform s = .next u) ∧ (¬(first ∧ ¬held) → exec .storePerform s = .next s)) ∧
     (∀ t a m, r = .amax t a m →
       (s.now = some (.amaxMerge c n) →
         (first ∧ ¬held → exec .amaxMerge s = .next u) ∧ (¬(first ∧ ¬held) → exec .amaxMerge s = .next s)) ∧
       (t ≠ .S → a % 4 = 0 → NoPins s → Memory.wf s.mem = true →
         ofBytes (readCells u.mem a 4) = max (ofBytes (readCells s.mem a 4)) m.toNat ∧ ∀ b, b < a ∨ a + 4 ≤ b → kept b)) ∧
     (∀ l whole, r = .bytes .D l whole → NoPins s → Memory.wf s.mem = true → (l.map Prod.fst).Nodup →
       (∀ e ∈ l, readCell u.mem e.1 = e.2) ∧ (∀ b, b ∉ l.map Prod.fst → kept b) ∧
       ∀ e, l.head? = some e → whole = true → u.poisoned e.1 = false) ∧
     ∀ l whole k, r = .bytes .S l whole → NoPins s → (l.map Prod.fst).Nodup → (∀ e ∈ l, e.1 / 128 = k) →
       whole = true ∨ s.poisoned (k * 128) = false →
       (∀ e ∈ l, u.byteFor core .S e.1 = e.2) ∧ (Memory.wf s.mem = true → ∀ b, kept b))

/-- R83, R190: the scalar loads at x[base] + disp × size: LDB, LDH and LDW sign-extend, LDBU, LDHU, LDWU and LDD zero-extend; a local
address is read in memory, a fabric one at its home, after what an older release orders before it (R245, R251).
R83, R190: the scalar stores write the low bytes of x[s] at x[base] + disp × size, and change no register; a fabric one is posted
after what an older release orders before it. -/
def Obligations.ScalarLoadsAndStores : Prop :=
  (∀ (s : State) (d b : Reg) (e : BitVec 12),
     let loads (i : Instr) (n : Nat) (ext : Nat → Dword) : Prop :=
       let va : Dword := .ofInt 64 ((s.getX b).toNat + e.toInt * n)
       (¬(va.getLsbD 63 = true ∧ s.me.mode ≠ 3) → LocalLoad i s va n fun v c => c.setX d (ext v)) ∧
       (va.getLsbD 63 = true → s.me.mode ≠ 3 →
         let r := s.drainFabric s.cur
         FabricRead i r (r.packet s.cur .load va n (.ofNat 128 (2 ^ n - 1)) 0 0) va
           (fun s1 v t => StepOneDone s1 t (s1.me.setX d (ext (v.toNat % 2 ^ (8 * n))))) s)
     let sg := fun (w v : Nat) => BitVec.ofInt 64 (toSigned w v)
     loads (.ldb d b e) 1 (sg 8) ∧ loads (.ldbu d b e) 1 (.ofNat 64) ∧ loads (.ldh d b e) 2 (sg 16) ∧
     loads (.ldhu d b e) 2 (.ofNat 64) ∧ loads (.ldw d b e) 4 (sg 32) ∧ loads (.ldwu d b e) 4 (.ofNat 64) ∧
     loads (.ldd d b e) 8 (.ofNat 64)) ∧
  (∀ (s : State) (r b : Reg) (e : BitVec 12),
     let stores (i : Instr) (n : Nat) : Prop :=
       let va : Dword := .ofInt 64 ((s.getX b).toNat + e.toInt * n)
       let s1 := s.drainFabric s.cur
       (¬(va.getLsbD 63 = true ∧ s.me.mode ≠ 3) → LocalStore i s va n (s.getX r).toNat) ∧
       (va.getLsbD 63 = true → s.me.mode ≠ 3 → FabricStore i s1 (s1.packet s.cur .store va n (.ofNat 128 (2 ^ n - 1))
         (.ofNat 1024 ((s.getX r).toNat % 2 ^ (8 * n))) 0) va s)
     stores (.stb r b e) 1 ∧ stores (.sth r b e) 2 ∧ stores (.stw r b e) 4 ∧ stores (.std r b e) 8)

/-- R191: LDV and STV translate, read and write only the bytes their mask picks, nothing with none; LDV keeps the other bytes of v[d]. At
a fabric address the access must be a whole aligned line; that an all-zero mask does not spare it that fault is the model's choice
(log 64).
R192: the strided and indexed accesses translate every active element, lowest first, before they read or write any; element j is at
x[a] + j × x[b], or at x[a] + v[b].elem[j] × 2^c with the element unsigned; a load keeps the inactive elements of v[d]. -/
def Obligations.VectorLoadsAndStores : Prop :=
  (∀ (s : State) (d b : Reg) (m : BitVec 3) (e : BitVec 12),
     let va : Dword := .ofInt 64 ((s.getX b).toNat + e.toInt * 128)
     let k := s.me.getK m
     let at_ := ((List.range 128).filter fun j => k.getLsbD j).map fun j => va.toNat + j
     let v := s.me.getV d
     let data := ((List.range 128).filter fun j => k.getLsbD j).map fun j => BitVec.ofNat 8 (elemNat 8 v j)
     let fabric := va.getLsbD 63 = true ∧ s.me.mode ≠ 3
     let put := fun (s1 : State) (t : State) (f : Nat → Nat) => ∃ v,
       StepOneDone s1 t (s1.me.setV d v) ∧ Elements 8 128 k (s1.me.getV d) v f
     ((fabric → va.toNat % 128 = 0) → k = 0 → CompletesC (.ldv d b m e) s s.me ∧ CompletesC (.stv d b m e) s s.me) ∧
     (¬fabric → k ≠ 0 →
       (∀ x, s.mapBytes (s.who s.cur) .load va at_ = .error x → exec (.ldv d b m e) s = s.stop x) ∧
       (∀ s1 l s2 r, s.mapBytes (s.who s.cur) .load va at_ = .ok (s1, l) → s1.readMem s.cur l = .ok (s2, r) →
         ∃ t, exec (.ldv d b m e) s = .next t ∧
           put s2 t fun j => (r.getD ((List.range j).countP fun i => k.getLsbD i) 0).toNat) ∧
       (∀ x, s.mapBytes (s.who s.cur) .store va at_ = .error x → exec (.stv d b m e) s = s.stop x) ∧
       (∀ s1 l s2, s.mapBytes (s.who s.cur) .store va at_ = .ok (s1, l) → s1.writeMemBytes s.cur true l data = .ok s2 →
         ∃ t, exec (.stv d b m e) s = .next t ∧ StepOneDone s2 t s2.me)) ∧
     (fabric → va.toNat % 128 ≠ 0 →
       exec (.ldv d b m e) s = .next (s.trapC (excD 9 2 va)) ∧ exec (.stv d b m e) s = .next (s.trapC (excD 9 2 va))) ∧
     (fabric → va.toNat % 128 = 0 → k ≠ 0 →
       let s1 := s.drainFabric s.cur
       FabricRead (.ldv d b m e) s1 (s1.packet s.cur .load va 128 k 0 0) va (fun s1 v t => put s1 t (elemNat 8 v)) s ∧
       (FabricStore (.stv d b m e) s1 (s1.packet s.cur .store va 128 k v 0) va s))) ∧
  (∀ (s : State) (d a b : Reg) (c : BitVec 2) (m : Reg3) (wc : BitVec 2),
     let w := 8 * 2 ^ wc.toNat
     let k := s.me.getK m
     let on := (List.range (1024 / w)).filter fun j => k.getLsbD j
     let stride := on.map fun j => (j, BitVec.ofNat 64 ((s.getX a).toNat + j * (s.getX b).toNat))
     let index := on.map fun j => (j, BitVec.ofNat 64 ((s.getX a).toNat + elemNat w (s.me.getV b) j * 2 ^ c.toNat))
     let loads (i : Instr) (els : List (Nat × Dword)) : Prop :=
       (∀ x, s.mapElements .load (w / 8) els = .error x → exec i s = s.stop x) ∧
       ∀ s1 l s2 r, s.mapElements .load (w / 8) els = .ok (s1, l) → s1.readElements l = .ok (s2, r) →
         ∃ t v, exec i s = .next t ∧ StepOneDone s2 t (s2.me.setV d v) ∧
           Elements w (1024 / w) k (s2.me.getV d) v fun j => (r.lookup j).getD 0 % 2 ^ w
     let stores (i : Instr) (els : List (Nat × Dword)) : Prop :=
       (∀ x, s.mapElements .store (w / 8) els = .error x → exec i s = s.stop x) ∧
       ∀ s1 l s2, s.mapElements .store (w / 8) els = .ok (s1, l) → s1.writeElements (w / 8) (s1.me.getV d) l = .ok s2 →
         ∃ t, exec i s = .next t ∧ StepOneDone s2 t s2.me
     loads (.ldvs d a b m wc) stride ∧ loads (.ldvg d a b c m wc) index ∧
     stores (.stvs d a b m wc) stride ∧ stores (.stvx d a b c m wc) index)

/-- R193, R194: LDNC reads as LDNC's size code says, from home; LDAQ zero-extends and acquires at its scope, an SC one after the thread's
stores and, at a fabric scope, once its posted ones are acknowledged, which any acquire at such a scope waits for (the model's choice, log
101); STRL stores the low bytes of x[a] after every older store and the S write-back of its scope; at a fabric scope the core's S lines, written
back, go too (log 101). -/
def Obligations.HomeAcquireRelease : Prop :=
  ∀ (s : State) (d a b : Reg) (z k : BitVec 3) (e : BitVec 12) (scope : BitVec 4) (o : BitVec 2),
    (let n : Nat := 2 ^ (z.toNat / 2)
     let va : Dword := .ofInt 64 ((s.getX b).toNat + e.toInt * n)
     let ext := fun v : Nat => if z.toNat % 2 = 0 ∧ z.toNat < 6 then BitVec.ofInt 64 (toSigned (8 * n) v) else .ofNat 64 v
     z ≠ 7 →
     (¬(va.getLsbD 63 = true ∧ s.me.mode ≠ 3) →
       (∀ x, s.mapRange (s.who s.cur) .load va n = .error x → exec (.ldnc d b z e) s = s.stop x) ∧
       ∀ s1 l s2 r, s.mapRange (s.who s.cur) .load va n = .ok (s1, l) → s1.readHome s.cur l = .ok (s2, r) →
         ∃ t, exec (.ldnc d b z e) s = .next t ∧ StepOneDone s2 t (s2.me.setX d (ext (ofBytes r)))) ∧
     (va.getLsbD 63 = true → s.me.mode ≠ 3 →
       let r := s.drainFabric s.cur
       FabricRead (.ldnc d b z e) r (r.packet s.cur .load va n (.ofNat 128 (2 ^ n - 1)) 0 0) va
         (fun s1 v t => StepOneDone s1 t (s1.me.setX d (ext (v.toNat % 2 ^ (8 * n))))) s)) ∧
    (let n := 2 ^ k.toNat
     let va := s.getX b
     let fabric := va.getLsbD 63 = true ∧ s.me.mode ≠ 3
     let waits := s.releaseWaits s.cur scope = true
     let data := (s.getX a).toNat % 2 ^ (8 * n)
     (¬fabric → ¬waits → ∀ x, s.mapRange (s.who s.cur) .load va n = .error x → exec (.ldaq scope o k a b) s = s.stop x) ∧
     (¬fabric → ¬waits → ∀ s1 l s2 r, s.mapRange (s.who s.cur) .load va n = .ok (s1, l) →
       ((s1.releaseIf (o == 3) s.cur scope).acquire s.cur scope).readBytes s.cur l = .ok (s2, r) →
       ∃ t, exec (.ldaq scope o k a b) s = .next t ∧ StepOneDone s2 t (s2.me.setX a (.ofNat 64 (ofBytes r)))) ∧
     let unsent := s.ownEntry s.cur va (s.packet s.cur .load va n (.ofNat 128 (2 ^ n - 1)) 0 0) = none
     (waits → exec (.strl scope o k a b) s = .next s.stall ∧
       (¬fabric ∨ (o = 3 ∧ unsent) → exec (.ldaq scope o k a b) s = .next s.stall)) ∧
     (k.toNat < 4 → fabric → ¬(o = 3 ∧ waits ∧ unsent) → let r := (s.releaseIf (o == 3) s.cur scope).drainFabric s.cur
       FabricRead (.ldaq scope o k a b) r (r.packet s.cur .load va n (.ofNat 128 (2 ^ n - 1)) 0 0) va
       (fun s1 v t => let s2 := s1.acquire s.cur scope
         (waits → t = s.stall) ∧ (¬waits → StepOneDone s2 t (s2.me.setX a (.ofNat 64 (v.toNat % 2 ^ (8 * n)))))) s) ∧
     (¬fabric → ¬waits →
       (∀ x, s.mapRange (s.who s.cur) .store va n = .error x → exec (.strl scope o k a b) s = s.stop x) ∧
       ∀ s1 l, s.mapRange (s.who s.cur) .store va n = .ok (s1, l) → devWriteOf s.me.mode l (toBytes n data) = none →
         let g := lineStores false l (toBytes n data)
         let sw := if 7 ≤ scope.toNat then (s1.writeBackS (coreOf s.cur) fun _ => true).dropS (coreOf s.cur) fun _ => true else s1
         (∀ x, sw.checkLines s.cur g = .error x → exec (.strl scope o k a b) s = s.stop x) ∧
         ∀ s2, sw.checkLines s.cur g = .ok s2 → let s3 := s2.retireRelease s.cur scope g
         ∃ t, exec (.strl scope o k a b) s = .next t ∧ StepOneDone s3 t s3.me) ∧
     (¬fabric → ¬waits → ∀ s1 l x, s.mapRange (s.who s.cur) .store va n = .ok (s1, l) → devWriteOf s.me.mode l (toBytes n data) = some x →
       let s2 := (s1.releaseNow s.cur scope).postFirst x
       ∃ t, exec (.strl scope o k a b) s = .next t ∧ StepOneDone s2 t s2.me) ∧
     (k.toNat < 4 → fabric → ¬waits → let s1 := s.releaseNow s.cur scope
       FabricStore (.strl scope o k a b) s1 (s1.packet s.cur .store va n (.ofNat 128 (2 ^ n - 1)) (.ofNat 1024 data) 0) va s))

/-- R195, R196, R244: AMO and CAS on an aligned word or doubleword of memory: x[a] takes the old value, a word sign-extended; the place takes
F(old, x[a]), or for CAS x[a + 1] where the old value is x[a]; a misaligned address traps with cause 0x04; an ordered one with a release part
waits for the thread's posted stores at a fabric scope, and so does one with an acquire part, which is the model's choice (log 101). On an S page the line's dirty bytes go home first, where the access is performed. An atomic on a
U page is sent, waits, and is performed as its answer comes, at the thread's next turn, which is the model's choice (log 102). -/
def Obligations.AtomicResults : Prop :=
  ∀ (s : State) (scope : BitVec 4) (o : BitVec 2) (w r : BitVec 1) (a b : Reg) (f : BitVec 4),
    let n := if w = 1 then 8 else 4
    let bits := 8 * n
    let va := s.getX b
    let y := (s.getX a).toNat % 2 ^ bits
    let new := (s.getX (a + 1)).toNat % 2 ^ bits
    let rel := r = 1 ∧ o ≠ 0
    let acq := r = 1 ∧ o ≠ 1
    let fabric := va.getLsbD 63 = true ∧ s.me.mode ≠ 3
    let old := fun (t : State) (v : Nat) => t.me.setX a (if w = 1 then .ofNat 64 v else .ofInt 64 (toSigned 32 v))
    let amo := fun x : Nat => match f.toNat with
      | 0 => y | 1 => (x + y) % 2 ^ bits | 2 => x &&& y | 3 => x ||| y | 4 => x ^^^ y
      | 5 => if toSigned bits y < toSigned bits x then y else x
      | 6 => if toSigned bits x < toSigned bits y then y else x
      | 7 => min x y | _ => max x y
    let cas := fun x : Nat => if x = y then new else x
    let does (i : Instr) (kind : FabKind) (g : Nat → Nat) (data : Nat) (op : BitVec 4) : Prop :=
      (va.toNat % n ≠ 0 → exec i s = .next (s.trapC (exc 4 va))) ∧
      (va.toNat % n = 0 → ¬fabric → r = 1 → s.releaseWaits s.cur scope = true → exec i s = .next s.stall) ∧
      (va.toNat % n = 0 → ¬fabric → ¬(r = 1 ∧ s.releaseWaits s.cur scope = true) →
        let s0 := if s.me.asked = true then s.modMe fun x => { x with asked := false } else s
        (∀ x, s0.mapRange (s.who s.cur) .rmw va n = .error x → exec i s = s0.stop x) ∧
        (∀ s1 l, s0.mapRange (s.who s.cur) .rmw va n = .ok (s1, l) → s.me.asked = false → (∃ b ∈ l, b.t = .U) →
          exec i s = .next (s1.modMe fun x => { x with asked := true }).stall) ∧
        ∀ s1 l s2 v, s0.mapRange (s.who s.cur) .rmw va n = .ok (s1, l) → (∀ b ∈ l, b.t = .U → s.me.asked = true) →
          (s1.releaseIf (decide rel) s.cur scope).rmw s.cur l g = .ok (s2, v) →
          ∃ t, exec i s = .next t ∧ StepOneDone (s2.acquireIf (decide acq) s.cur scope) t
            (old (s2.acquireIf (decide acq) s.cur scope) v)) ∧
      (va.toNat % n = 0 → fabric →
        let q := s.packet s.cur kind va n (.ofNat 128 (2 ^ n - 1)) (.ofNat 1024 data) op
        let s1 := (s.releaseIf (decide rel) s.cur scope).drainFabric s.cur
        (r = 1 → s.releaseWaits s.cur scope = true → s.ownEntry s.cur va q = none → exec i s = .next s.stall) ∧
        (¬(r = 1 ∧ s.releaseWaits s.cur scope = true ∧ s.ownEntry s.cur va q = none) →
        FabricRead i s1 (s1.packet s.cur kind va n (.ofNat 128 (2 ^ n - 1)) (.ofNat 1024 data) op) va (fun s2 v t => let s3 := s2.acquireIf (decide acq) s.cur scope
          StepOneDone s3 t (old s3 (v.toNat % 2 ^ bits))) s))
    does (.amo scope o w a b r f) .amo amo y f ∧ does (.cas scope o w a b r) .cas cas (y + new * 2 ^ 64) 0 ∧
    ∀ (s : State) (c : CtxId) (p : ByteAt) (l : List ByteAt) (g : Nat → Nat), Memory.wf s.mem = true → NoPins s →
      (∀ q ∈ p :: l, q.isDev = false ∧ s.poisoned q.loc = false) → (s.ctx c).stores = [] → p.loc % 128 + l.length < 128 →
      (p :: l).map (·.loc) = (List.range (l.length + 1)).map (p.loc + ·) →
      let n := l.length + 1
      let h := if p.t = .S then s.returnLine (coreOf c) (p.loc / 128) else s
      let old := ofBytes (readCells h.mem p.loc n)
      ∃ t, s.rmw c (p :: l) g = .ok (t, old) ∧ readCells t.mem p.loc n = toBytes n (g old) ∧
        ∀ x, x < p.loc ∨ p.loc + n ≤ x → readCell t.mem x = readCell h.mem x ∨ WrittenBack (s.core (coreOf c)) x (readCell t.mem x)

/-- R197 to R199, R251: FENCE waits for the thread's acknowledgments at PARTITION scope and wider, then reports a failed store, then a lost
one, each with its trap, then completes, an acquire too once they are there (the model's choice, log 101); AFENCE puts a barrier behind the commands of each queue its mask names, and waits while one of them is
full; the cache operations act on the line of x[a] after the thread's older stores to it, and complete unless its translation stops them; that a
stop names the line's address is the model's choice (log 65). PREF completes always, with no trap, and changes only what the caches hold and
what its translation changes; with level 1 it asks for a D line with write permission, unless the L1 holds the line. That a free value
says whether the core can track one more miss is the model's choice (log 62). -/
def Obligations.FencesAndCacheOperations : Prop :=
  ∀ (s : State) (scope : BitVec 4) (o : BitVec 2) (a lv : Reg),
    let wide := 7 ≤ scope.toNat
    let rel := o ≠ 0
    let waiting := rel ∧ wide ∧ s.posted s.cur ≠ []
    let qs := (List.range 4).filter fun i => (s.getX a).getLsbD i
    let line : Dword := .ofNat 64 ((s.getX a).toNat / 128 * 128)
    let does (i : Instr) (f : State → Nat → Treat → State) : Prop :=
      (∀ x, s.mapRange (s.who s.cur) .load line 128 = .error x → exec i s = s.stop x) ∧
      ∀ s1 p r, s.mapRange (s.who s.cur) .load line 128 = .ok (s1, p :: r) →
        let s2 := f ((s1.drainBarriers s.cur).drainFor s.cur ((p :: r).map (·.loc))) (p.loc / 128) p.t
        (p.isDev = false → ∃ t, exec i s = .next t ∧ StepOneDone s2 t s2.me) ∧
        (p.isDev = true → ∃ t, exec i s = .next t ∧ StepOneDone s1 t s1.me)
    (waiting → exec (.fence scope o) s = .next s.stall) ∧
    (¬waiting → wide → ∀ x r, s.me.fails = x :: r → exec (.fence scope o) s = .next ((s.modMe fun c => { c with fails := r }).trapC
      (if x.poison then exc 0x0C (.ofNat 64 (x.addr.toNat / 128 * 128))
       else { code := 0x0B, detail := 0, tval := x.addr, tval2 := .ofNat 64 (2 ^ 63 + x.ticket.toNat), intr := false }))) ∧
    (¬waiting → wide → rel → s.me.fails = [] → ∀ n r, s.me.lost = n :: r →
      exec (.fence scope o) s = .next ((s.modMe fun c => { c with lost := r }).trapC (exc 0x10 (.ofNat 64 n)))) ∧
    (wide → s.posted s.cur ≠ [] → s.me.fails = [] → exec (.fence scope o) s = .next s.stall) ∧
    (¬(wide ∧ (s.posted s.cur ≠ [] ∨ s.me.fails ≠ [] ∨ (rel ∧ s.me.lost ≠ []))) →
      ∃ t, exec (.fence scope o) s = .next t ∧ StepOneDone (s.fenceOrder scope o) t (s.fenceOrder scope o).me) ∧
    ((∃ q ∈ qs, 16 ≤ (s.myCore.cq.toList.getD q []).length) → exec (.afence a) s = .next s.stall) ∧
    ((∀ q ∈ qs, (s.myCore.cq.toList.getD q []).length < 16) → ∃ t, exec (.afence a) s = .next t ∧ ElseSame s t ∧ MemorySame s t ∧
      t.me = { s.me with phase := .second, xfer := .next } ∧ t.myCore = { s.myCore with cq := t.myCore.cq } ∧
      ∀ q, q < 4 → let old := s.myCore.cq.toList.getD q []
        t.myCore.cq.toList.getD q [] = if q ∈ qs ∧ old ≠ [] then old ++ [.barrier] else old) ∧
    does (.cflush a) (fun s l _ => (s.cleanLine l).removeLine l) ∧
    does (.cclean a) (fun s l _ => s.cleanLine l) ∧
    does (.cinv a) (fun s l t => if t = .S then
      (s.writeBackS (coreOf s.cur) fun e => e.line == l).dropS (coreOf s.cur) fun e => e.line == l else s) ∧
    (¬((s.getX a).getLsbD 63 = true ∧ s.me.mode ≠ 3) →
      (∀ x, s.mapRange (s.who s.cur) .store line 128 = .error x → exec (.czero a) s = s.stop x) ∧
      ∀ s1 l s2, s.mapRange (s.who s.cur) .store line 128 = .ok (s1, l) →
        s1.writeMemBytes s.cur true l (List.replicate 128 0) = .ok s2 → ∃ t, exec (.czero a) s = .next t ∧ StepOneDone s2 t s2.me) ∧
    ((s.getX a).getLsbD 63 = true → s.me.mode ≠ 3 → let s1 := s.drainFabric s.cur
      FabricStore (.czero a) s1 (s1.packet s.cur .store line 128 (BitVec.allOnes 128) 0 0) line s) ∧
    (∀ x, s.mapRange (s.who s.cur) .load line 128 = .error x → CompletesC (.pref a lv) s s.me) ∧
    ∀ s1 p r, s.mapRange (s.who s.cur) .load line 128 = .ok (s1, p :: r) →
      let core := coreOf s.cur
      let dropped := p.isDev = true ∨ p.t = .U
      let full := Config.missesFull s1.free = true
      let held := fun u : State => (u.core core).findLine (p.loc / 128)
      ∃ u t, (NoPins s1 → CachesMoved s1 u core) ∧ (dropped → u = s1) ∧
        (¬dropped → full ∨ (lv = 1 ∧ p.t = .D ∧ held s1 ≠ none) → u = { s1 with free := s1.free + 1 }) ∧
        exec (.pref a lv) s = .next t ∧ StepOneDone u t s1.me ∧
        (lv = 1 → ¬dropped → ¬full → p.t = .D → held s1 = none → ∀ e, held u = some e → e.s = false → e.state ≠ .shared)

/-- R188, R189: sending an access takes the lowest free entry of the core's ticket table, in state sent, with the package of address bits
[62:50] and the window offset of bits [49:0]; it is sent only where an entry is free and the flow may send, and goes to the part's own NIU;
for another package, to the fabric by its flow's route, or, with no request of the flow outstanding, by the one chosen now, and exactly where
there is none it is answered REFUSED (R351). -/
def Obligations.FabricSend : Prop :=
  ∀ (s : State) (c : CtxId) (kind : TkKind) (va : Dword) (q : Packet),
    let k := s.core (coreOf c)
    let free := (List.range 32).filter fun n => (k.tk.map (·.1)).contains n = false
    (∀ f len m d op, let p := s.packet c f va len m d op
      p.dest.toNat = va.toNat / 2 ^ 50 % 2 ^ 13 ∧ p.off.toNat = va.toNat % 2 ^ 50 ∧ p.kind = f ∧ p.srcCore = coreOf c ∧
      p.srcPkg = s.niu.pkgNum ∧ p.partId = s.dev.partId ∧ p.mask = m ∧ p.data = d ∧ p.op = op) ∧
    (free = [] → s.launchAccess c kind va q = none) ∧
    (s.maySend (coreOf c) q.dest q.tt = false → s.launchAccess c kind va q = none) ∧
    ∀ n r, free = n :: r → s.maySend (coreOf c) q.dest q.tt = true → q.srcCore = coreOf c → ∃ t e,
      s.launchAccess c kind va q = some t ∧
      tableGet (t.core (coreOf c)).tk n e = e ∧ e.kind = kind ∧ e.ctx = ctxInCore c ∧ e.state = .sent ∧ e.addr = va ∧
      e.packet = { q with owner := .entry (.ofNat 5 n), route := e.packet.route } ∧ (n, e) ∈ (t.core (coreOf c)).tk ∧
      MemorySame s t ∧ (∀ d, t.ctx d = s.ctx d) ∧
      (q.dest = s.niu.pkgNum → t.out = s.out ∧ t.agenda = s.agenda ++ [.own (.fabricRequest e.packet)]) ∧
      (q.dest ≠ s.niu.pkgNum →
        let route := if s.outstanding (coreOf c) q.dest = [] ∨ (s.flowOr (coreOf c) q.dest).route = [] then s.chooseRoute q.dest q.tt
          else some (s.flowOr (coreOf c) q.dest).route
        (∀ r, route = some r → e.packet.route = r ∧ t.out = s.out ++ [.request e.packet] ∧ t.agenda = s.agenda) ∧
        (route = none → e.packet.route = [] ∧ t.out = s.out ∧
          t.agenda = s.agenda ++ [.own (.fabricResponse (coreOf c) (.entry (.ofNat 5 n)) .refused)]))

/-! ## Threads, launches, copies -/

/-- R202, R17, R16, R321, R24: SPAWN first makes its release at PACKAGE scope; a refused request writes false to its predicate, one the router
enters or holds true, and step 1 waits while the router does not answer, its core chosen once. EXIT makes the context Exiting and retires. -/
def Obligations.SpawnAndExit : Prop :=
  ∀ (s : State) (d a : Reg),
    let x := fun n : Reg => s.getX (a + n)
    let q : LaunchReq := { target := .ofNat 11 ((x 3).toNat % 2 ^ 11), pc := x 0, arg0 := x 1, arg1 := x 2
                           asn := .ofNat 16 ((x 3).toNat / 2 ^ 16), tag := .ofNat 32 ((x 3).toNat / 2 ^ 32)
                           prio := .ofNat 2 ((x 3).toNat / 2 ^ 11), fence := (x 3).getLsbD 13, token := x 4, comp := x 5 }
    let s1 := s.releaseNow s.cur 4
    (∀ e, s1.asEntry (coreOf s.cur) q.asn = .error e → exec (.spawn d a) s = s1.stop e) ∧
    (∀ s2 as, s1.asEntry (coreOf s.cur) q.asn = .ok (s2, as) →
      let refused := (x 3).toNat / 2 ^ 14 % 4 ≠ 0 ∨ 2 ^ 12 ≤ (x 5).toNat ∨
        ((x 3).getLsbD 10 = true ∧ 128 ≤ (x 3).toNat % 2 ^ 10) ∨ (x 0).toNat % 8 ≠ 0 ∨ 2 ^ 56 ≤ (x 0).toNat ∨
        9 < (x 5).toNat / 2 % 16 ∨ ((x 5).getLsbD 0 = true ∧ ((x 4).toNat % 8 ≠ 0 ∨ 2 ^ 63 ≤ (x 4).toNat)) ∨
        s2.targetServer q = true ∨
        match as with
        | none => True
        | some e => (q.asn ≠ s.me.cw.asn ∧ e.word0.getLsbD 3 = false) ∨
            ((x 5).getLsbD 5 = true ∧ e.dmask.getLsbD ((x 5).toNat / 2 ^ 6 % 2 ^ 6) = false)
      let core := s2.me.spawnTo.getD (s2.chooseCore q)
      (refused → ∃ t, exec (.spawn d a) s = .next t ∧ StepOneDone s2 t { s2.me.setP (low3 d) false with spawnTo := none }) ∧
      (¬refused → ∀ s3 r, s2.route (.spawn s.cur) q core = (s3, r) →
        (r = .unanswered → exec (.spawn d a) s = .next (s2.modMe fun x => { x with spawnTo := some core }).stall) ∧
        (r ≠ .unanswered → ∃ t, exec (.spawn d a) s = .next t ∧
          StepOneDone s3 t { s3.me.setP (low3 d) true with spawnTo := none }))) ∧
    ∃ t, exec .exit s = .next t ∧ OnlyContext s t ∧ t.ctx s.cur = { s.me with st := .exiting } ∧
      t.core (coreOf s.cur) = (let k := (s.core (coreOf s.cur)).leaveFused (ctxInCore s.cur); { k with retired := k.retired + 1 }) ∧
      t.turns = s.yieldTurn.turns

/-- R17, R19, R20, R278, R279: a request for any core of a skein goes to its lowest worker with an Idle context, else to the worker with the
fewest queue entries, the lowest on a tie; a ready core's queue with room and nobody waiting takes it at its end; otherwise it waits at the
router, a SPAWN's only in one of the skein's eight hold entries.
R17, R202, R278, R279, R333, R368: a request that reaches the router is refused with the first of the reasons 2, 3, 1 and 5 that holds, and
otherwise routed: a mailbox's head is consumed when it is refused or enters a queue, and never while it waits; one for a die that is not
ready is held, and checked when it is served (log 104). A copy's launch ends its command when the router takes it (log 26). A free queue
entry of a ready core takes the request that first found the queue full. -/
def Obligations.LaunchRouting : Prop :=
  (∀ (s : State) (o : LaunchOrigin) (q : LaunchReq),
     let core := s.chooseCore q
     let workers := (List.range 8).filter fun n => !s.isServer (.ofNat 10 (q.target.toNat % 128 * 8 + n))
     let idle := fun n : Nat => ∃ c : BitVec 3, (s.ctx ((BitVec.ofNat 10 (q.target.toNat % 128 * 8 + n)) ++ c)).st = .idle
     let len := fun n : Nat => (s.core (.ofNat 10 (q.target.toNat % 128 * 8 + n))).lq.length
     let isOpen := s.boot.ready.getLsbD (1 + core.toNat / 128) = true ∧ (s.core core).lq.length < 16
     let free := isOpen ∧ ∀ w ∈ s.dev.router, w.core ≠ core
     let holds := (s.dev.router.filter fun w => w.hold && w.core.toNat / 8 == core.toNat / 8).length
     (q.target.getLsbD 10 = false → core.toNat = q.target.toNat % 1024) ∧
     (q.target.getLsbD 10 = true → workers ≠ [] → ∃ n ∈ workers, core.toNat = q.target.toNat % 128 * 8 + n ∧
       ((∃ m ∈ workers, idle m) → idle n ∧ ∀ m ∈ workers, idle m → n ≤ m) ∧
       ((∀ m ∈ workers, ¬idle m) → ∀ m ∈ workers, len n < len m ∨ (len n = len m ∧ n ≤ m))) ∧
     (free → ∃ e : LqEntry, e.req = q ∧ e.origin = o ∧ (s.route o q core).2 = .entered core ∧
       ((s.route o q core).1.core core).lq = (s.core core).lq ++ [e]) ∧
     (¬free → ((s.route o q core).1.core core).lq = (s.core core).lq ∧
       (∀ c, o = .spawn c → 8 ≤ holds → s.route o q core = (s, .unanswered)) ∧
       (∀ c, o = .spawn c → holds < 8 → (s.route o q core).2 = .held ∧
         (s.route o q core).1.dev.router = s.dev.router ++ [{ core := core, req := q, origin := o, hold := true, unchecked := false }]) ∧
       (∀ m, o = .mailbox m → (s.route o q core).2 = .waits ∧
         (s.route o q core).1.dev.router = s.dev.router ++ [{ core := core, req := q, origin := o, hold := false, unchecked := false }]) ∧
       ∀ k n sc, o = .copy k n sc → (s.route o q core).2 = (if holds < 8 then .held else .waits) ∧
         (s.route o q core).1.dev.router = s.dev.router ++ [{ core := core, req := q, origin := o, hold := decide (holds < 8), unchecked := false }])) ∧
  (let workers := fun (s : State) (q : LaunchReq) => (List.range 8).filter fun n => !s.isServer (.ofNat 10 (q.target.toNat % 128 * 8 + n))
   let refuses := fun (s : State) (o : LaunchOrigin) (q : LaunchReq) (as : Option AsEntry) (reason : Nat) =>
     let mayLaunch := fun a : AsEntry => match o with
       | .mailbox m => a.lmask.getLsbD m.toNat = true
       | .spawn c => (s.ctx c).cw.asn = q.asn ∨ a.word0.getLsbD 3 = true
       | .copy _ _ _ => True
     let server := if q.target.getLsbD 10 then workers s q = [] else s.isServer (q.target.setWidth 10) = true
     let badEnd := fun a : AsEntry => (q.comp.getLsbD 0 = true ∧ (q.token.toNat % 8 ≠ 0 ∨ 2 ^ 63 ≤ q.token.toNat)) ∨
       9 < q.comp.toNat / 2 % 16 ∨ (q.comp.getLsbD 5 = true ∧ a.dmask.getLsbD (q.comp.toNat / 2 ^ 6 % 2 ^ 6) = false)
     ((q.pc.toNat % 8 ≠ 0 ∨ 2 ^ 56 ≤ q.pc.toNat) → reason = 2) ∧
     (q.pc.toNat % 8 = 0 → q.pc.toNat < 2 ^ 56 →
       (as = none → reason = 3) ∧
       ∀ a, as = some a →
         (¬mayLaunch a → reason = 3) ∧ (mayLaunch a → server → reason = 1) ∧
         (mayLaunch a → ¬server → badEnd a → reason = 5) ∧ (mayLaunch a → ¬server → ¬badEnd a → reason = 0))
   (∀ (s u : State) (o : LaunchOrigin) (q : LaunchReq) (as : Option AsEntry), s.now = some (.launchRoute o q) →
     s.asLookup q.asn = .ok (u, as) →
     let core := u.chooseCore q
     let early := ¬(q.target.getLsbD 10 = true ∧ workers s q = []) ∧ s.boot.ready.getLsbD (1 + (s.chooseCore q).toNat / 128) = false
     ∃ reason : Nat, refuses s o q as reason ∧
       (∀ m, o = .mailbox m → (s.h2d m).waiting = true → early → ∃ t, exec .launchRoute s = .next t ∧ MemorySame s t ∧
         t.dev = { s.dev with router := s.dev.router ++
           [{ core := s.chooseCore q, req := q, origin := o, hold := false, unchecked := true }] } ∧
         (∀ c, t.ctx c = s.ctx c) ∧ ∀ k, t.core k = { s.core k with ctr := (t.core k).ctr }) ∧
       (∀ m, o = .mailbox m → (s.h2d m).waiting = true → ¬early →
         (reason ≠ 0 → exec .launchRoute s = .next (u.consume m 3 reason 0)) ∧
         (reason = 0 → ∀ t r, u.route o q core = (t, r) →
           (∀ core, r = .entered core → exec .launchRoute s = .next (t.consume m 2 0 core.toNat)) ∧
           (r = .waits → exec .launchRoute s = .next t))) ∧
       (∀ c, o = .spawn c → reason = 0 → exec .launchRoute s = .next (u.route o q core).1) ∧
       ∀ k n sc, o = .copy k n sc → u.copyWaits k n = true →
         (reason ≠ 0 → exec .launchRoute s = .next ((u.setCqFail k n).popCopy k n)) ∧
         (reason = 0 → ∀ t r, u.route o q core = (t, r) →
           (r = .waits → exec .launchRoute s = .next t) ∧ (r ≠ .waits → exec .launchRoute s = .next (t.popCopy k n)))) ∧
   ∀ (s : State) (core : CoreId) (l r : List RouterWait) (w : RouterWait), s.now = some (.routerFill core) →
     s.dev.router = l ++ w :: r → (∀ x ∈ l, x.core ≠ core) → w.core = core →
     s.boot.ready.getLsbD (1 + core.toNat / 128) = true → (s.core core).lq.length < 16 →
     (∀ u as reason m, w.unchecked = true → w.origin = .mailbox m → s.asLookup w.req.asn = .ok (u, as) →
       refuses s w.origin w.req as reason → reason ≠ 0 → exec .routerFill s = .next (((({ u with
         dev := { u.dev with router := l ++ r } } : State).consume m 3 reason 0).promoteCopy (skeinOfCore core)).post (.routerFill core))) ∧
     (w.unchecked = false ∨ (∃ u as, s.asLookup w.req.asn = .ok (u, as) ∧ refuses s w.origin w.req as 0) →
     ∃ (t : State) (e : LqEntry), exec .routerFill s = .next t ∧ e.req = w.req ∧ e.origin = w.origin ∧
       (t.core core).lq = (s.core core).lq ++ [e] ∧ (∀ k, k ≠ core → (t.core k).lq = (s.core k).lq) ∧
       t.dev.router.map (fun x => (x.core, x.req, x.origin)) = (l ++ r).map (fun x => (x.core, x.req, x.origin)) ∧
       (∀ c, t.ctx c = s.ctx c)))

/-- R159 to R162, R302 to R306: CTXSAVE, from supervisor mode up, writes the 5,120-byte image after the thread's stores, and waits where it
needs a forwarding record and none is free; with a record the image's stores are performed at once. CTXLOAD traps in a tile-enabled thread,
then for another identifier, then stops as the reading of the image stops, and otherwise gives the context the image's thread. The
model's choices: which of several entries or failures the image names (log 66), when a marker's wait is over (log 27).
R302, R303, R162: the image's fields stand at R302's offsets, every reserved byte is zero, and the flags, ticket, failure and marker
wait are R303's; loading what was saved gives the thread every register and control word again, with reserved bits cleared and the
mode as it was. Which of several entries or failures the image names, and that a marker's wait is marked over, are the model's choices
(logs 66, 27). -/
def Obligations.ContextSaveAndLoad : Prop :=
  (∀ (s : State) (a : Reg), s.me.mode ≠ 0 →
     let va : Dword := .ofNat 64 ((s.getX a).toNat / 128 * 128)
     let bad := exec (.ctxload a) s = .next (s.trapC (exc 1 s.me.instrWord))
     (∀ e, s.mapRange (s.who s.cur) .store va 5120 = .error e → exec (.ctxsave a) s = s.stop e) ∧
     (∀ s1 l, s.mapRange (s.who s.cur) .store va 5120 = .ok (s1, l) →
       let s2 := s1.drain s.cur
       let needs := s2.posted s.cur ≠ [] ∨ ∃ e ∈ s2.readEntries s.cur, s2.awaits e.2 = true
       let rec? := (s2.core (coreOf s.cur)).freeRecord
       let held := needs ∨ s2.markerOpen s.cur ≠ none
       let image := s2.me.imageBytes s2.dev.time (s2.tid s.cur) (s2.imageHead s.cur (decide held && rec?.isSome))
       (needs → rec? = none → exec (.ctxsave a) s = .next s2.stall) ∧
       (¬(needs ∧ rec? = none) → (∀ e, s2.writeBytes s.cur false l image = .error e → exec (.ctxsave a) s = s.stop e) ∧
         ∀ s3, s2.writeBytes s.cur false l image = .ok s3 →
         let s4 := if held ∧ rec? ≠ none then (s3.drain s.cur).releaseS (coreOf s.cur) 4 else s3
         ∃ t, exec (.ctxsave a) s = .next t ∧ MemorySame s4 t ∧ t.ctx s.cur = { s4.me with phase := .second, xfer := .next } ∧
           (∀ c, c ≠ s.cur → t.ctx c = s4.ctx c) ∧ (∀ k, k ≠ coreOf s.cur → t.core k = s4.core k) ∧
           (let k := s4.core (coreOf s.cur)
            let u := t.core (coreOf s.cur)
            u = { k with tk := u.tk, fwd := u.fwd }) ∧
           ∀ n b r, rec? = some n → held → l = b :: r → ∃ w, (n, w) ∈ (t.core (coreOf s.cur)).fwd ∧
             w.img = b.loc ∧ w.stores = (s2.posted s.cur).length)) ∧
     (s.me.tile = true → bad) ∧
     (s.me.tile = false →
       (∀ e, s.mapRange (s.who s.cur) .load va 5120 = .error e → exec (.ctxload a) s = s.stop e) ∧
       ∀ s1 l, s.mapRange (s.who s.cur) .load va 5120 = .ok (s1, l) →
         (∀ e, s1.readMem s.cur (l.take 8) = .error e → exec (.ctxload a) s = s.stop e) ∧
         ∀ s2 id, s1.readMem s.cur (l.take 8) = .ok (s2, id) →
           (ofBytes (id.take 8) ≠ 0x280001 → bad) ∧
           (ofBytes (id.take 8) = 0x280001 → (∀ e, s2.readMem s.cur l = .error e → exec (.ctxload a) s = s.stop e) ∧
             ∀ s3 d, s2.readMem s.cur l = .ok (s3, d) → ∃ t, exec (.ctxload a) s = .next t ∧ MemorySame s3 t ∧
               t.ctx s.cur = { s3.me.loadImage d s.dev.time with phase := .second, xfer := .next } ∧
               t.core (coreOf s.cur) = (s3.core (coreOf s.cur)).leaveFused (ctxInCore s.cur) ∧
               (∀ c, c ≠ s.cur → t.ctx c = s3.ctx c) ∧ ∀ k, k ≠ coreOf s.cur → t.core k = s3.core k))) ∧
  ((∀ (c y : Ctx) (time tid : Dword) (h : ImageHead),
     let d := c.imageBytes time tid h
     let at_ := fun off n : Nat => ofBytes ((d.drop off).take n)
     let z := y.loadImage d time
     let w := c.cw
     let pend : Dword := (w.ipend.setWidth 64 &&& 0x1E) ||| if w.timecmp.toNat ≤ time.toNat then 1 else 0
     (d.length = 5120 ∧ at_ 0 8 = 0x280001 ∧ at_ 8 8 = h.flags % 2 ^ 64 ∧ at_ 0x10 8 = 0 ∧ at_ 0x18 8 = h.ticket.toNat ∧
       at_ 0x20 8 = h.failAddr.toNat ∧ at_ 0x28 8 = h.failTicket.toNat ∧ at_ 0x30 8 = h.marker % 2 ^ 64 ∧ at_ 0x38 8 = h.phase.toNat ∧
       (∀ r : Reg, at_ (0x80 + 8 * r.toNat) 8 = (c.getX r).toNat) ∧ (∀ r : Reg3, at_ (0x180 + 8 * r.toNat) 8 = (c.getB r).image.toNat) ∧
       at_ 0x1C0 8 < 256 ∧ (∀ r : Reg3, (at_ 0x1C0 8).testBit r.toNat = c.getP r) ∧ at_ 0x1C8 8 = c.fmt.toNat ∧
       (∀ r : Reg3, at_ (0x1D0 + 16 * r.toNat) 16 = (c.getK r).toNat) ∧ (∀ r : Reg, at_ (0x400 + 128 * r.toNat) 128 = (c.getV r).toNat) ∧
       (∀ b ∈ (d.drop 0x40).take 64 ++ (d.drop 0x2F0).take 272, b = 0) ∧
       (List.range 20).map (fun i => at_ (0x250 + 8 * i) 8) = ([tid, w.ltag.setWidth 64, w.fpctl, w.upctl, w.uvec, w.uepc, w.uinfo, w.status,
         w.estat, w.epc, w.cause, w.tval, w.tval2, w.scratch, w.asn.setWidth 64, w.ien.setWidth 64, pend, w.timecmp, w.fwepc,
         w.fwcause] : List Dword).map (·.toNat)) ∧
     (∀ r, z.getX r = c.getX r) ∧ (∀ r, z.getP r = c.getP r) ∧ z.b = c.b ∧ (∀ r, z.getK r = c.getK r) ∧
     z.v = c.v ∧ z.fmt = c.fmt ∧ z.latch = h.flags.testBit 1 ∧
     z.cw = { ltag := w.ltag, asn := w.asn, ien := w.ien, tval := w.tval, scratch := w.scratch, timecmp := w.timecmp
              fpctl := (w.fpctl &&& 0x1F0) ||| if w.fpctl.toNat % 8 ≤ 4 then w.fpctl &&& 7 else 0
              upctl := w.upctl &&& 3, uvec := w.uvec &&& ~~~7, uepc := w.uepc &&& ~~~3, uinfo := w.uinfo &&& 0xFFFF
              status := (y.cw.status &&& 3) ||| (w.status &&& 0x1C), estat := w.estat &&& 0x1F, epc := w.epc &&& ~~~3
              cause := w.cause &&& 0x800000000000FFFF, tval2 := w.tval2 &&& 0xC00000000000FFFF, ipend := w.ipend &&& 0x1E
              fwepc := w.fwepc &&& ~~~3, fwcause := w.fwcause &&& 0x800000000000FFFF }) ∧
   ∀ (s : State) (c : CtxId) (record : Bool),
     let x := s.ctx c
     let h := s.imageHead c record
     h.flags.testBit 0 = x.tile ∧ h.flags.testBit 1 = x.latch ∧ h.flags.testBit 5 = record ∧ h.flags / 256 = (s.posted c).length ∧
     h.flags.testBit 7 = false ∧
     (s.readEntries c = [] → h.flags / 4 % 8 = 0 ∧ h.ticket = 0) ∧
     (∀ e r, s.readEntries c = e :: r → h.ticket = e.2.ticket ∧ h.flags.testBit 2 = true ∧ h.flags.testBit 3 = !s.awaits e.2 ∧
       h.flags.testBit 4 = (!s.awaits e.2 && s.noticeOf e.2 == some false)) ∧
     (x.fails = [] → h.flags.testBit 6 = false ∧ h.failAddr = 0 ∧ h.failTicket = 0) ∧
     (∀ f r, x.fails = f :: r → h.flags.testBit 6 = true ∧ h.failAddr = f.addr ∧ h.failTicket = f.ticket) ∧
     (x.markerWait = none → h.marker = 0 ∧ h.phase = 0) ∧
     ∀ m u, x.markerWait = some (m, u) → h.phase = u ∧ h.marker % 32 = m.toNat ∧
       h.marker.testBit 8 = let mk := tableGet (s.skein (skeinOf c)).markers m.toNat Marker.reset
         decide (mk.b.toNat ≤ u.toNat ∧ mk.p.toNat ≤ u.toNat))

/-- R208, R209: WCFG writes whether its 32-byte descriptor is valid, and a valid one becomes the channel's nest; WGET takes the next chunk of
its channel, or writes false where no tile remains. A chunk is of chunk tiles, or, guided, of at least the remaining tiles over twice the
takers, cut to what remains and to the end of its run; its bounds are those of its first tile, and in the last dimension of its last, cut to
the extents; an unused dimension's are 0 and 1. -/
def Obligations.FeederChunks : Prop :=
  (∀ (s : State) (d a c : Reg) (p : BitVec 3),
    let k := skeinOf s.cur
    let n := tableGet (s.skein k).ch c.toNat Nest.empty
    (∀ e, s.mapRange (s.who s.cur) .load (s.getX a) 32 = .error e → exec (.wcfg a c p) s = s.stop e) ∧
    (∀ s1 l s2 b, s.mapRange (s.who s.cur) .load (s.getX a) 32 = .ok (s1, l) → s1.readBytes s.cur l = .ok (s2, b) →
      (nestOf b = none → ∃ t, exec (.wcfg a c p) s = .next t ∧ StepOneDone s2 t (s2.me.setP p false)) ∧
      ∀ m, nestOf b = some m → ∃ t, exec (.wcfg a c p) s = .next t ∧ MemorySame s2 t ∧
        t.ctx s.cur = { s2.me.setP p true with phase := .second, xfer := .next } ∧
        tableGet (t.skein k).ch c.toNat Nest.empty = m ∧ ∀ j, j ≠ k → t.skein j = s2.skein j) ∧
    (n.total ≤ n.next → CompletesC (.wget d c p) s (s.me.setP p false)) ∧
    (n.next < n.total → 1 ≤ d.toNat → d.toNat ≤ 26 → ∃ t, exec (.wget d c p) s = .next t ∧ MemorySame s t ∧
      tableGet (t.skein k).ch c.toNat Nest.empty = { n with next := n.next + n.take } ∧
      (∀ j, j ≠ k → t.skein j = s.skein j) ∧ (t.ctx s.cur).getP p = true ∧
      (∀ i, i < 3 → (t.ctx s.cur).getX (.ofNat 5 (d.toNat + 2 * i)) = .ofNat 64 (n.bounds n.take i).1 ∧
        (t.ctx s.cur).getX (.ofNat 5 (d.toNat + 2 * i + 1)) = .ofNat 64 (n.bounds n.take i).2) ∧
      (∀ r : Reg, r.toNat < d.toNat ∨ d.toNat + 6 ≤ r.toNat → (t.ctx s.cur).getX r = s.getX r) ∧
      (∀ q, q ≠ p → (t.ctx s.cur).getP q = s.me.getP q))) ∧
  (∀ (n : Nest) (len : Nat),
    let size := fun i => n.tile.toList.getD i 0
    let ext := fun i => n.ext.toList.getD i 0
    let tiles := fun i => if i < n.dims then (ext i + n.tile.toList.getD i 1 - 1) / n.tile.toList.getD i 1 else 1
    let coord := fun m i : Nat => if i = 0 then m / (tiles 1 * tiles 2) else if i = 1 then m / tiles 2 % tiles 1 else m % tiles 2
    let rem := n.total - n.next
    let run := tiles (n.dims - 1) - n.next % tiles (n.dims - 1)
    (n.guided = false → n.take = min n.chunk (min rem run)) ∧
    (n.guided = true → n.take = min (max n.chunk (rem / (2 * n.takers))) (min rem run)) ∧
    ∀ i, i < 3 → n.bounds len i = if n.dims ≤ i then (0, 1) else
      (coord n.next i * size i, min ((coord (if i + 1 = n.dims then n.next + len - 1 else n.next) i + 1) * size i) (ext i))) ∧
  (∀ b : List Byte,
    let f := fun off n : Nat => ofBytes ((b.drop off).take n)
    let tiles := fun i => if i < f 18 1 then (f (4 * i) 4 + f (12 + 2 * i) 2 - 1) / f (12 + 2 * i) 2 else 1
    (nestOf b ≠ none ↔ 1 ≤ f 18 1 ∧ f 18 1 ≤ 3 ∧ f 19 1 ≤ 1 ∧ (∀ i, i < f 18 1 → f (12 + 2 * i) 2 ≠ 0) ∧ 1 ≤ f 20 4 ∧
      (f 19 1 = 1 → 1 ≤ f 24 2 ∧ f 24 2 ≤ 64) ∧ f 26 6 = 0 ∧ tiles 0 * tiles 1 * tiles 2 < 2 ^ 32) ∧
    ∀ n, nestOf b = some n → n.dims = f 18 1 ∧ (n.guided = true ↔ f 19 1 = 1) ∧ n.chunk = f 20 4 ∧ n.takers = f 24 2 ∧
      n.next = 0 ∧ n.total = tiles 0 * tiles 1 * tiles 2 ∧
      ∀ i, i < 3 → n.ext.toList.getD i 0 = f (4 * i) 4 ∧ n.tile.toList.getD i 0 = f (12 + 2 * i) 2) ∧
  ∀ (b : List Byte) (n : Nest) (next : Nat), nestOf b = some n → next < n.total →
    let m := { n with next := next }
    let last := m.t (m.dims - 1)
    1 ≤ m.take ∧ next + m.take ≤ m.total ∧ next % last + m.take ≤ last ∧
    ∀ i, i < m.dims → (m.bounds m.take i).1 < (m.bounds m.take i).2 ∧ (m.bounds m.take i).2 ≤ m.ext.toList.getD i 0

/-- R210, R211, R201: MKINIT sets a marker's count of 1 to 64 and ends its phase, or writes false; MKARR releases at SKEIN scope, writes the
phase it arrives in, and the n-th arrival ends it; TKPOLL writes whether no access of the thread, load or posted store, still waits for the
ticket's notice (a marker's change may forward the wait of a departed thread, R307, and so raise the inter-core interrupt); MSEND writes 2
for a mailbox that is not open to the address space, 1 for a full one, and 0 where it has posted the message. -/
def Obligations.MarkersTicketsMessages : Prop :=
  (∀ (s : State) (d a : Reg) (m : BitVec 5) (p : BitVec 3),
    let k := skeinOf s.cur
    let n := (s.getX a).toNat
    let mk := tableGet (s.skein k).markers m.toNat Marker.reset
    let s1 := s.releaseNow s.cur 2
    let notice := fun (t : State) (c : Ctx) => t.ctx s.cur = { c with
      phase := .second, xfer := .next, icSrc := (t.ctx s.cur).icSrc
      cw := { c.cw with ipend := (t.ctx s.cur).cw.ipend } }
    (1 ≤ n → n ≤ 64 → ∃ t, exec (.mkinit a m p) s = .next t ∧
      notice t (s.me.setP p true) ∧
      tableGet (t.skein k).markers m.toNat Marker.reset = { n := n, a := 0, p := mk.p + 1, b := mk.p + 1 } ∧
      (∀ j, j ≠ m.toNat → tableGet (t.skein k).markers j Marker.reset = tableGet (s.skein k).markers j Marker.reset)) ∧
    (n = 0 ∨ 64 < n → CompletesC (.mkinit a m p) s (s.me.setP p false)) ∧
    (mk.n = 0 → ∃ t, exec (.mkarr d m) s = .next t ∧ StepOneDone s1 t (s1.me.setX d (BitVec.allOnes 64))) ∧
    (mk.n ≠ 0 → ∃ t, exec (.mkarr d m) s = .next t ∧
      notice t (s1.me.setX d mk.p) ∧
      tableGet (t.skein k).markers m.toNat Marker.reset =
        if mk.a + 1 = mk.n then { mk with a := 0, p := mk.p + 1 } else { mk with a := mk.a + 1 }) ∧
    (let ticket := n % 2 ^ 16
     let mine := fun e : TkEntry => (e.kind = .read ∨ e.kind = .posted) ∧ e.squashed = false ∧ e.ctx = ctxInCore s.cur ∧
       e.ticket.toNat = ticket ∧ (e.state = .ticket ∨ e.state = .blocked) ∧
       ∀ f ∈ s.niu.flows, f.core = e.packet.srcCore → f.dest = e.packet.dest → ∀ n ∈ f.notes, n.1 ≠ e.ticket
     ((∃ e ∈ s.myCore.tk, mine e.2) → CompletesC (.tkpoll d a) s (s.me.setP (low3 d) false)) ∧
     ((∀ e ∈ s.myCore.tk, ¬mine e.2) → CompletesC (.tkpoll d a) s (s.me.setP (low3 d) true)))) ∧
  ∀ (s : State) (d a b : Reg),
    let va : Dword := .ofNat 64 ((s.getX a).toNat / 64 * 64)
    let m : BitVec 6 := .ofNat 6 (s.getX b).toNat
    (∀ e, s.mapRange (s.who s.cur) .load va 64 = .error e → exec (.msend d a b) s = s.stop e) ∧
    ∀ s1 l s2 data s3 as, s.mapRange (s.who s.cur) .load va 64 = .ok (s1, l) → s1.readBytes s.cur l = .ok (s2, data) →
      s2.asEntry (coreOf s.cur) s.me.cw.asn = .ok (s3, as) →
      let box := s3.d2h m
      let shut := 64 ≤ (s.getX b).toNat ∨ box.cfg.getLsbD 0 = false ∨
        match as with | none => True | some e => e.dmask.getLsbD m.toNat = false
      let full := 256 ≤ (box.posted - box.head.setWidth 32).toNat ∨ ∃ g ∈ s3.dev.msgs, g.mailbox = m
      (shut → ∃ t, exec (.msend d a b) s = .next t ∧ StepOneDone s3 t (s3.me.setX d 2)) ∧
      (¬shut → full → ∃ t, exec (.msend d a b) s = .next t ∧ StepOneDone s3 t (s3.me.setX d 1)) ∧
      (¬shut → ¬full → let s4 := (s3.releaseNow s.cur 5).postEntry m 1 (.ofNat 16 s.cur.toNat) (data.drop 8)
        (s4.d2h m).posted = box.posted + 1 ∧ ∃ t, exec (.msend d a b) s = .next t ∧ StepOneDone s4 t (s4.me.setX d 0))

/-- R204 to R207, R290: COPY and CPFL read their registers, trap on a token address that is no multiple of 8, stop as their probes stop, wait
while the queue holds 16 entries or a fabric acknowledgment of the release is due, and otherwise put one command at the end of the queue.
R205, R206, R259, R274 to R276, R291, R362, R393: the engine takes the head of the queue it is inside a unit of, or else of the next one
in round robin that nothing blocks, one part further. Before the first part the command's release writes the issuing core's dirty S bytes
back; a unit is read whole, its line pinned, unless two others of the set are, and written at home once permitted, when no other cache holds
the line; after the last unit comes the completion action. Where the release and the translations stand is the model's reading (log 25). -/
def Obligations.CopyCommands : Prop :=
  (∀ (s : State) (l c : BitVec 2) (scope : BitVec 4) (d a g r : Reg) (q : BitVec 2),
     let x := s.me
     let cmd : CopyCmd :=
       { level := none, scope := scope, dst := x.getX d, src := x.getX a
         rowLen := (x.getX g).toNat % 2 ^ 32, rows := (x.getX g).toNat / 2 ^ 32
         srcPitch := (x.getX (g + 1)).toNat % 2 ^ 32, dstPitch := (x.getX (g + 1)).toNat / 2 ^ 32
         done := if c = 1 then .token (x.getX r) else if c = 2 then .spawn (x.getX r) (x.getX (r + 1)) (x.getX (r + 2)) else .none
         asn := x.cw.asn, tag := x.cw.ltag, mode := x.mode, sum := x.cw.status.getLsbD 3, issuer := ctxInCore s.cur
         row := 0, col := 0, failed := false, unit := none, buf := [], bufPoison := false, started := false, pin := none
         wait := .none, finished := false }
     let enters (i : Instr) (cmd : CopyCmd) : Prop :=
       (c = 1 → (x.getX r).toNat % 8 ≠ 0 → exec i s = .next (s.trapC (exc 4 (x.getX r)))) ∧
       ((c = 1 → (x.getX r).toNat % 8 = 0) →
         (∀ e, s.probeCopy cmd = .error e → exec i s = s.stop e) ∧
         ∀ s1, s.probeCopy cmd = .ok s1 →
           let old := s1.myCore.cq.toList.getD q.toNat []
           let waits := 16 ≤ old.length ∨ (7 ≤ scope.toNat ∧ s1.posted s1.cur ≠ [])
           (waits → exec i s = .next s1.stall) ∧
           (¬waits → let s2 := s1.drain s.cur
             ∃ t, exec i s = .next t ∧ MemorySame s2 t ∧ t.ctx s.cur = ({ s2.me with xfer := .next } : Ctx).transfer ∧
               (∀ k, k ≠ s.cur → t.ctx k = s2.ctx k) ∧
               (t.core (coreOf s.cur)).cq.toList.getD q.toNat [] = clearWait (s2.myCore.cq.toList.getD q.toNat [] ++ [.cmd cmd]) ∧
               (∀ j, j < 4 → j ≠ q.toNat → (t.core (coreOf s.cur)).cq.toList.getD j [] = s2.myCore.cq.toList.getD j []) ∧
               ∀ k, k ≠ coreOf s.cur → t.core k = s2.core k))
     enters (.copy c scope d a g r q) cmd ∧ enters (.cpfl l c scope a g r q) { cmd with level := some l, dst := 0 }) ∧
  (∀ (s : State) (k : SkeinId) (n : Nat) (c : CopyCmd) (rest : List CqEntry), s.now = some (.copyUnit k) →
     s.nextQueue k = some n → c.level = none →
     let last := (s.skein k).copyRr % 32
     let free := fun m : Nat => s.servable (queueAt k m).1 (queueAt k m).2 = true
     let inside := fun m : Nat => ∃ d r, (s.core (queueAt k m).1).queue (queueAt k m).2 = .cmd d :: r ∧ d.inUnit = true
     (free n ∧ (inside last → free last → n = last) ∧
       (n = last ∨ ∃ i, 1 ≤ i ∧ i ≤ 32 ∧ n = (last + i) % 32 ∧ ∀ j, 1 ≤ j → j < i → ¬free ((last + j) % 32))) ∧
     let core := (queueAt k n).1
     let q := (queueAt k n).2
     let queue := fun t : State => (t.core core).cq.toList.getD q.toNat []
     (queue s = .cmd c :: rest →
     let s0 := s.setSkein k { s.skein k with copyRr := n }
     let s1 := if c.started then s0 else s0.writeBackS core fun _ => true
     let c1 := { c with started := true }
     let goesOn := fun (u : State) (d : CopyCmd) => ∃ t, exec .copyUnit s = .next t ∧ MemorySame u t ∧ (∀ x, t.ctx x = u.ctx x) ∧
       queue t = .cmd d :: rest ∧ t.skein k = u.skein k
     let len := min (c.rowLen - c.col) (128 - c.dstAt.toNat % 128)
     let advanced := fun d : CopyCmd =>
       let d := { d with unit := none, buf := [], bufPoison := false, pin := none }
       if c.rowLen ≤ c.col + len then { d with row := c.row + 1, col := 0 } else { d with col := c.col + len }
     let gone := (rest.dropWhile fun e => match e with | .barrier => true | .cmd _ => false)
     let ended := fun u t : State => MemorySame u t ∧ (∀ x, t.ctx x = u.ctx x) ∧ queue t = clearWait gone
     (∀ e d, c.unit = some e → e.packet.kind = .load → e.state = .done → e.answer = some (.ok d) →
       goesOn s1 { c1 with unit := none, buf := c.buf ++ bytesOf e.packet.len.toNat d }) ∧
     (c.unit = none → c.pin = none → c.row < c.rows → c.rowLen ≠ 0 →
       (c.buf.length < len →
         let va : Dword := .ofNat 64 (c.srcAt.toNat + c.buf.length)
         (va.getLsbD 63 = false ∨ c.mode = 3) →
         (∀ s2 l, s1.mapRange (c.who core) .load va (len - c.buf.length) = .ok (s2, l) → (∀ b ∈ l, b.isDev = false) →
           goesOn (s2.engineLines l) { c1 with buf := c.buf ++ l.map (fun b => readCell (s2.engineLines l).mem b.loc)
                                               bufPoison := c.bufPoison || l.any fun b => (s2.engineLines l).poisoned b.loc }) ∧
         ∀ x, s1.mapRange (c.who core) .load va (len - c.buf.length) = .error (.trap x) →
           goesOn s1 { c1 with failed := true, row := c.rows, buf := [], bufPoison := false }) ∧
       (len ≤ c.buf.length → (c.dstAt.getLsbD 63 = false ∨ c.mode = 3) →
         (∀ x, s1.mapRange (c.who core) .store c.dstAt len = .error (.trap x) →
           goesOn s1 { c1 with failed := true, row := c.rows, buf := [], bufPoison := false }) ∧
         (∀ x a p, s1.mapRange (c.who core) .store c.dstAt len = .error (.dirtyRefused x a p) →
           goesOn (s1.putPte a p) { c1 with failed := true, row := c.rows, buf := [], bufPoison := false }) ∧
         ∀ s2 b r, s1.mapRange (c.who core) .store c.dstAt len = .ok (s2, b :: r) → b.isDev = false → b.t ≠ .U →
           (2 ≤ s2.setPinned k (b.loc / 128) → goesOn s2 { c1 with wait := .pin }) ∧
           (s2.setPinned k (b.loc / 128) < 2 → ∃ t, exec .copyUnit s = .next t ∧ MemorySame (s2.settlePin (b.loc / 128)) t ∧
             queue t = .cmd { c1 with pin := some (b.loc, b.t, false) } :: rest ∧
             ∃ l ∈ (t.skein k).sc, l.line = b.loc / 128 ∧ l.pins ≠ 0))) ∧
     (∀ loc t, c.unit = none → c.pin = some (loc, t, false) → ∃ u, exec .copyUnit s = .next u ∧
       MemorySame (s1.settlePin (loc / 128)) u ∧ queue u = .cmd { c1 with pin := some (loc, t, true) } :: rest ∧
       (∀ f ∈ (u.skein k).sc, f.line = loc / 128 → f.permission = true) ∧
       ∀ d, ∀ f ∈ (u.core d).l1, f.s = true ∨ f.line ≠ loc / 128) ∧
     (∀ loc, c.unit = none → c.pin = some (loc, .D, true) → c.started = true → c.bufPoison = false → s.poisoned loc = false →
       Memory.wf s.mem = true → ∃ t, exec .copyUnit s = .next t ∧ queue t = .cmd (advanced c) :: rest ∧ t.poison = s.poison ∧
         (∀ j (h : j < c.buf.length), readCell t.mem (loc + j) = c.buf[j]) ∧
         (∀ a, a < loc ∨ loc + c.buf.length ≤ a → readCell t.mem a = readCell s.mem a) ∧ ∀ x, t.ctx x = s.ctx x) ∧
     (c.unit = none → c.pin = none → c.rows ≤ c.row ∨ c.rowLen = 0 →
       (c.done = .none → ∃ t, exec .copyUnit s = .next t ∧ ended s1 t ∧
         (t.skein k).cqfail = if c.failed then
           (s.skein k).cqfail ||| ((1 : BitVec 32) <<< (core.toNat % 8 * 4 + q.toNat)) else (s.skein k).cqfail) ∧
       (∀ a s2 s3 l old, c.done = .token a → (s1.releaseS core c.scope).mapRange (c.who core) .rmw a 8 = .ok (s2, l) →
         s2.rmw (core ++ c.issuer) l (fun v => (v + 1) % 2 ^ 64 ||| if c.failed then 2 ^ 63 else 0) = .ok (s3, old) →
         (∀ b ∈ l, b.isDev = false) → ∃ t, exec .copyUnit s = .next t ∧ ended s3 t) ∧
       ∀ pc a b, c.done = .spawn pc a b → ∃ t, exec .copyUnit s = .next t ∧ MemorySame (s1.releaseS core c.scope) t ∧
         queue t = .cmd { c1 with finished := true } :: rest ∧
         ∃ l, t.agenda = s.agenda ++ .own (.launchRoute (.copy core q c.scope)
           { target := .ofNat 11 (2 ^ 10 + k.toNat), pc := pc, arg0 := a, arg1 := if c.failed then b ||| 0x8000000000000000 else b
             asn := c.asn, tag := c.tag, prio := 0, fence := false, token := 0, comp := 0 }) :: l)))

/-! ## Tiles -/

/-- R217 to R220, R13, R48: TCFG sets fmt and, where the limits of R13 allow one more tile-enabled thread of the core and of the skein, gives the
thread eight zero tile registers, waiting for free slots (the model's choice, log 115); where they do not it writes false. TREL ends the tile
state and keeps fmt; both execute as the thread's oldest tile instruction. TZERO clears a tile register. TCFG and TRSTR apart, a tile
instruction without tile state is illegal.
R222, R228, R219, R220, R283: an fmt that an instruction does not accept raises cause 0x0D with fmt in cw.tval. With eight commands in the
core's tile queue a tile instruction waits; TCFG, TREL, TSAVE and TRSTR wait until the thread's older ones have retired, and what writes tile
registers until it obtains its slots: of 512 a skein, those in use are the threads' and those that unretired commands will free; the thread's
oldest takes any that are free, a younger one only those beyond the reserve of 8 for each tile-enabled thread less its oldest's new ones. A TMMAP
for which something waits stops waiting for a partner in time, the model's choice (log 23). -/
def Obligations.TileStateAndFormats : Prop :=
  (∀ (s : State) (q d : BitVec 3) (f : BitVec 1) (a : Reg) (i : BitVec 16),
     let v : BitVec 16 := if f = 1 then .ofNat 16 (s.getX a).toNat else i
     let here := ((List.range 8).filter fun n => (s.ctx (coreOf s.cur ++ BitVec.ofNat 3 n)).tile).length
     let skein := ((List.range 64).filter fun n => (s.ctx (skeinOf s.cur ++ BitVec.ofNat 6 n)).tile).length
     let illegal (i : Instr) : Prop := exec i s = .next (s.trapC (exc 1 s.me.instrWord))
     let room := s.myCore.tq.length < 8
     let oldest := room ∧ ∀ t ∈ s.myCore.tq, t.ctx ≠ ctxInCore s.cur
     (oldest → s.me.tile = true → CompletesLong (.tcfg q f a i) s ({ s.me with fmt := v }.setP q true)) ∧
     (oldest → s.me.tile = false → here < 4 → skein < 32 → s.enables (skeinOf s.cur) = true → ∃ sl, sl.length = 8 ∧ CompletesLong (.tcfg q f a i) s
       ({ s.me with tile := true, tslots := sl, m := Vector.replicate 8 0, fmt := v }.setP q true)) ∧
     (oldest → s.me.tile = false → ¬(here < 4 ∧ skein < 32) → CompletesLong (.tcfg q f a i) s (s.me.setP q false)) ∧
     (oldest → s.me.tile = true → ∃ t, exec .trel s = .next t ∧ (t.ctx s.cur).tslots = [] ∧
       TileDone s t { s.me with tile := false, tslots := [], m := Vector.replicate 8 0 }) ∧
     (room → s.me.tile = true → s.obtains s.cur 1 = true → ∃ t, exec (.tzero d) s = .next t ∧ TileDone s t (s.me.setM d 0)) ∧
     (s.me.tile = false → ∀ (m n h : BitVec 3) (b g c k u w y : Reg) (t scope : BitVec 4) (am bm mx : BitVec 1),
       illegal .trel ∧ illegal (.tzero m) ∧ illegal (.tld m b g) ∧ illegal (.tst m b g t) ∧ illegal (.tstAmax m b g t w scope) ∧
       illegal (.tadd m n h) ∧ illegal (.tsclRow m n b) ∧ illegal (.tsclCol m n b) ∧ illegal (.tcvt m n h t) ∧ illegal (.ttr m n t) ∧
       illegal (.trowv m b g) ∧ illegal (.tvrow m b g) ∧ illegal (.tamax m b) ∧ illegal (.tmma m n b g c k am bm mx u w) ∧
       illegal (.tmmag m n h b g c k mx u w) ∧ illegal (.tmmap y b g c k mx u w) ∧ (s.me.mode ≠ 0 → illegal (.tsave b)))) ∧
  ((∀ (s : State) (d a b h : BitVec 3) (x y z w u v g : Reg) (t scope : BitVec 4) (l am bm mx : BitVec 1) (i : BitVec 16),
     let f := s.me.fmt
     let fa := f.toNat % 16
     let fb := f.toNat / 16 % 16
     let acc := f.toNat / 256 % 4
     let scl := f.toNat / 1024 % 4
     let top := f.getLsbD 15 = true
     let pair := (acc = 0 ∧ ((fa = 0 ∧ fb = 0) ∨ (fa = 1 ∧ fb = 1) ∨ ((fa = 2 ∨ fa = 3) ∧ (fb = 2 ∨ fb = 3)) ∨ (fa = 4 ∧ fb = 4))) ∨
       (acc = 1 ∧ (fa = 5 ∨ fa = 6) ∧ (fb = 5 ∨ fb = 6))
     let badMul := ¬pair ∨ 2 ≤ scl ∨ (mx = 1 ∧ scl = 0) ∨ (mx = 0 ∧ scl = 1) ∨ (mx = 1 ∧ ¬(fa = 2 ∨ fa = 3 ∨ fa = 4)) ∨ top
     let badAcc := 2 ≤ acc ∨ top
     let badDrain := badAcc ∨ f.toNat / 4096 % 4 = 3 ∨ ((t = 5 ∨ t = 6) ∧ acc = 0)
     let bad (i : Instr) : Prop := exec i s = .next (s.trapC (exc 0x0D (.ofNat 64 f.toNat)))
     let waitsOn (cores : List CoreId) (i : Instr) : Prop :=
       exec i s = .next (match cores.findSome? fun k => ((s.core k).tq.find? fun (c : TileCmd) => c.pair.isSome).map fun (c : TileCmd) => k ++ c.ctx with
         | some c => s.post (.tmmapPairTimeout c)
         | none => s).stall
     let waits := waitsOn [coreOf s.cur]
     let starves := waitsOn ((List.range 8).map fun n => (skeinOf s.cur ++ BitVec.ofNat 3 n : CoreId))
     let full := 8 ≤ s.myCore.tq.length
     let older := ∃ c ∈ s.myCore.tq, c.ctx = ctxInCore s.cur
     let tile := s.me.tile = true
     let needs (n : Nat) (ok : Prop) (i : Instr) : Prop :=
       (¬ok → bad i) ∧ (ok → full → waits i) ∧ (ok → ¬full → s.obtains s.cur n = false → starves i)
     let tiles := fun h : BitVec 3 => if h = 0 ∨ h = 1 then 2 else if h = 2 ∨ h = 3 ∨ h = 4 then 4 else 8
     (multiplyBad f (mx == 1) = true ↔ badMul) ∧ (accBad f = true ↔ badAcc) ∧ (drainBad f t.toNat = true ↔ badDrain) ∧
     (full ∨ older → waits (.tcfg d l x i) ∧ (s.me.mode ≠ 0 → waits (.trstr d x)) ∧ (tile → waits .trel ∧ (s.me.mode ≠ 0 → waits (.tsave x)))) ∧
     (¬full → ¬older → s.me.tile = false → s.tileRoom s.cur = true → s.enables (skeinOf s.cur) = false → starves (.tcfg d l x i)) ∧
     (tile → needs 1 True (.tzero d) ∧ needs 1 True (.tld d x y) ∧ needs 1 True (.ttr d a t) ∧ needs 1 True (.tvrow d x y) ∧
       needs 1 (¬badAcc) (.tadd d a b) ∧ needs 1 (acc = 0 ∧ ¬top) (.tsclRow d a x) ∧ needs 1 (acc = 0 ∧ ¬top) (.tsclCol d a x) ∧
       needs 1 (¬badDrain) (.tcvt d a h t) ∧ needs 1 (¬badMul) (.tmma d a x y z w am bm mx u v) ∧
       needs (tiles h) (¬badMul) (.tmmag d a h x y z w mx u v) ∧ needs 8 (¬badMul) (.tmmap g x y z w mx u v) ∧
       (badAcc → bad (.tamax a x) ∧ bad (.tstAmax a x y t z scope) ∧ (t = 15 → bad (.tst a x y t))) ∧
       (badDrain → t ≠ 15 → bad (.tst a x y t) ∧ bad (.tstAmax a x y t z scope)) ∧
       (full → waits (.trowv a x y) ∧ (¬badAcc → waits (.tamax a x) ∧ (t = 15 ∨ ¬badDrain → waits (.tstAmax d x y t z scope))) ∧
         ((if t = 15 then ¬badAcc else ¬badDrain) → waits (.tst d x y t))))) ∧
   ∀ (s : State) (c : CtxId) (n : Nat),
     let k := skeinOf c
     let ctxs := (List.range 64).map fun j => (k ++ BitVec.ofNat 6 j : CtxId)
     let cores := (List.range 8).map fun j => (k ++ BitVec.ofNat 3 j : CoreId)
     let oldest := fun d : CtxId => (s.core (coreOf d)).tq.find? fun t => t.ctx == ctxInCore d
     let used := (ctxs.map fun d => (s.ctx d).tslots.length).sum +
       (cores.map fun j => ((s.core j).tq.map fun t => t.old.length).sum).sum
     let held := fun d => if (s.ctx d).tile then 8 - ((oldest d).map fun t => t.old.length).getD 0 else 0
     let reserve := (ctxs.map held).sum
     (s.obtains c n = true ↔ n = 0 ∨ (oldest c = none ∧ n ≤ 512 - used) ∨ (oldest c ≠ none ∧ n + reserve ≤ 512 - used)) ∧
     (s.enables k = true ↔ 16 + reserve ≤ 512 - used) ∧
     (s.tileRoom c = true ↔ (((List.range 8).filter fun j => (s.ctx (coreOf c ++ BitVec.ofNat 3 j)).tile).length < 4 ∧
       ((List.range 64).filter fun j => (s.ctx (k ++ BitVec.ofNat 6 j)).tile).length < 32)))

/-- R232, R127, R129: the tile register operations with an accepted fmt, room in the tile queue and a slot for what they write: sums, scaled accumulators, converted
parts, transposes, moves of half rows and the largest magnitude, element by element, every other element and register kept.
R129, R116, R226: a drained accumulator is rounded once to its target, in the mode and with the saturation of fmt, an INT32 one to INT8 or
UINT8 clamped or cut to its low byte; a row drains element by element. The largest magnitude of a list of accumulators is one of theirs and no
less than any; NaNs count only where there is nothing else. -/
def Obligations.TileRegisterResults : Prop :=
  (∀ (s : State) (d a b h : BitVec 3) (x y : Reg) (t : BitVec 4), s.me.tile = true → s.myCore.tq.length < 8 →
     let f := s.me.fmt
     let ta := s.me.getM a
     let tb := s.me.getM b
     let td := s.me.getM d
     let acc := f.toNat / 256 % 4
     let plain := acc < 2 ∧ f.getLsbD 15 = false
     let fp := fun e => Fmt.fp32.decode e
     let scale := fun n => if n < 32 then elemNat 32 (s.me.getV x) n else elemNat 32 (s.me.getV (x + 1)) (n - 32)
     let row := (s.getX y).toNat % 64
     let half := (s.getX y).toNat / 64 % 2
     let writes (i : Instr) (w n : Nat) (g : Nat → Nat → Nat) : Prop :=
       s.obtains s.cur 1 = true → ∃ t v, exec i s = .next t ∧ TileDone s t (s.me.setM d v) ∧ ∀ r j, r < 64 → j < n → tileElem w v r j = g r j
     (plain → writes (.tadd d a b) 32 64 fun r j =>
       let p := tileElem 32 ta r j
       let q := tileElem 32 tb r j
       if acc = 1 then (p + q) % 2 ^ 32 else (Fmt.fp32.round (fpAdd .rne (fp p) (fp q)).1 .rne false).1) ∧
     (acc = 0 → f.getLsbD 15 = false →
       writes (.tsclRow d a x) 32 64 (fun r j => (Fmt.fp32.round (fpMul (fp (tileElem 32 ta r j)) (fp (scale r))).1 .rne false).1) ∧
       writes (.tsclCol d a x) 32 64 (fun r j => (Fmt.fp32.round (fpMul (fp (tileElem 32 ta r j)) (fp (scale j))).1 .rne false).1)) ∧
     (t.toNat ≤ 6 → drainBad f t.toNat = false → h.toNat * (64 * tileWidth t.toNat / 8) < 256 →
       writes (.tcvt d a h t) (tileWidth t.toNat) (2048 / tileWidth t.toNat) fun r j =>
         if j / 64 = h.toNat then drain1 f t.toNat (tileElem 32 ta r (j % 64)) else tileElem (tileWidth t.toNat) td r j) ∧
     (t.toNat ≤ 2 → let w := 8 * 2 ^ t.toNat
       writes (.ttr d a t) w (2048 / w) fun r j => tileElem w ta (j % 64) (64 * (j / 64) + r)) ∧
     (∃ t' v, exec (.trowv a x y) s = .next t' ∧ TileDone s t' (s.me.setV x v) ∧ v.toNat = tileElem 1024 ta row half) ∧
     (writes (.tvrow d x y) 1024 2 fun r j => if r = row ∧ j = half then (s.me.getV x).toNat else tileElem 1024 td r j) ∧
     (plain → ∃ t' m, exec (.tamax a x) s = .next t' ∧ TileDone s t' (s.me.setX x (.ofNat 64 m)) ∧
       (acc = 1 → (∀ r j, r < 64 → j < 64 → (toSigned 32 (tileElem 32 ta r j)).natAbs ≤ m) ∧
         ∃ r j, r < 64 ∧ j < 64 ∧ m = (toSigned 32 (tileElem 32 ta r j)).natAbs) ∧
       (acc = 0 → (∀ r j, r < 64 → j < 64 → (fp (tileElem 32 ta r j)).isNan = false → tileElem 32 ta r j % 2 ^ 31 ≤ m) ∧
         ((∃ r j, r < 64 ∧ j < 64 ∧ (fp (tileElem 32 ta r j)).isNan = false ∧ m = tileElem 32 ta r j % 2 ^ 31) ∨
           (∀ r j, r < 64 → j < 64 → (fp (tileElem 32 ta r j)).isNan = true) ∧ m = 0x7FC00000)))) ∧
  (∀ (f : BitVec 16) (t row v : Nat) (es : List Nat),
     let acc := f.toNat / 256 % 4
     let rnd := f.toNat / 4096 % 4
     let sat := f.getLsbD 14
     let mode : Rm := if rnd = 1 then .rtz else if rnd = 2 then .rmm else .rne
     let signed := fun n : Nat => if n % 2 ^ 32 < 2 ^ 31 then (n % 2 ^ 32 : Int) else (n % 2 ^ 32 : Int) - 2 ^ 32
     let F := if t = 0 then Fmt.bf16 else if t = 1 then .fp16 else if t = 2 then .e4m3 else if t = 3 then .e5m2 else .e2m1
     let w := if t ≤ 4 then F.width else 8
     let nan := fun n : Nat => (Fmt.fp32.decode n).isNan
     (t ≤ 4 → acc = 0 → drain1 f t v = (F.round (Fmt.fp32.decode v) mode sat).1) ∧
     (t ≤ 4 → acc = 1 → drain1 f t v = (F.round (.fin (decide (signed v < 0)) (signed v).natAbs 0) mode sat).1) ∧
     (t = 5 ∨ t = 6 → drain1 f t v = if sat
       then ((max (if t = 5 then -128 else 0) (min (if t = 5 then 127 else 255) (signed v))) % 256).toNat else v % 256) ∧
     (t ≤ 6 → ∀ j, j < 64 → drainRow f t row / 2 ^ (w * j) % 2 ^ w = drain1 f t (row / 2 ^ (32 * j) % 2 ^ 32) % 2 ^ w) ∧
     (es = [] → largest f es = 0) ∧
     (acc = 1 → es ≠ [] → (∀ n ∈ es, (signed n).natAbs ≤ largest f es) ∧ ∃ n ∈ es, largest f es = (signed n).natAbs) ∧
     (acc = 0 → es ≠ [] → (∀ n ∈ es, nan n = true) → largest f es = 0x7FC00000) ∧
     (acc = 0 → (∃ n ∈ es, nan n = false) →
       (∀ n ∈ es, nan n = false → n % 2 ^ 31 ≤ largest f es) ∧ ∃ n ∈ es, nan n = false ∧ largest f es = n % 2 ^ 31))

/-- R215, R216, R224 to R226, R233, R304: TLD reads the rows its geometry gives and clears the others; TST stores each row raw or converted,
with every page checked before any byte is written, and TST.AMAX then merges the largest magnitude, after the data, which is the model's choice
(log 69); TSAVE writes the tile image, field by field R304's, with no poisoned line of it, and TRSTR checks its identifier, which if not
accepted leaves nothing of the probe, then the quota and the free slots, and only then reads it. That a page fault of the image goes before its
identifier is the model's choice (log 106). -/
def Obligations.TileMemory : Prop :=
  ∀ (s : State) (d q : BitVec 3) (b g w : Reg) (t scope : BitVec 4),
    let f := s.me.fmt
    let geo := (s.getX g).toNat
    let rows := if geo / 2 ^ 32 % 256 = 0 ∨ 64 < geo / 2 ^ 32 % 256 then 64 else geo / 2 ^ 32 % 256
    let len := 32 * if geo / 2 ^ 40 % 256 = 0 ∨ 8 < geo / 2 ^ 40 % 256 then 8 else geo / 2 ^ 40 % 256
    let at_ := fun r : Nat => BitVec.ofNat 64 ((s.getX b).toNat + r * (geo % 2 ^ 32))
    let bytes := if t = 15 then len else min len (64 * tileWidth t.toNat / 8)
    let data := (List.range rows).map fun r => toBytes bytes
      (if t = 15 then tileElem 2048 (s.me.getM d) r 0 else drainRow f t.toNat (tileElem 2048 (s.me.getM d) r 0))
    let ok := (if t = 15 then accBad f else drainBad f t.toNat) = false
    let img : Dword := .ofNat 64 ((s.getX b).toNat / 128 * 128)
    let source := (List.range rows).map fun r => (at_ r, len)
    let target := (List.range rows).map fun r => (at_ r, bytes)
    let room := s.myCore.tq.length < 8
    let oldest := room ∧ ∀ t ∈ s.myCore.tq, t.ctx ≠ ctxInCore s.cur
    (s.me.tile = true → room → s.obtains s.cur 1 = true →
      (∀ e, s.mapRows s.cur .tileRead 2 source = .error e → exec (.tld d b g) s = s.stop e) ∧
      (∀ s1 l e, s.mapRows s.cur .tileRead 2 source = .ok (s1, l) → s1.readRows s.cur false l = .error e →
        exec (.tld d b g) s = s.stop e) ∧
      (∀ s1 l s2 v, s.mapRows s.cur .tileRead 2 source = .ok (s1, l) → s1.readRows s.cur false l = .ok (s2, v) →
        ∃ t' m, exec (.tld d b g) s = .next t' ∧ TileDone s2 t' (s2.me.setM d m) ∧
          ∀ r, r < 64 → tileElem 2048 m r 0 = v.getD r 0 % 2 ^ 2048)) ∧
    (s.me.tile = true → room →
      (ok → (∀ e, s.mapRows s.cur .tileWrite 0 target = .error e → exec (.tst d b g t) s = s.stop e) ∧
        ∀ s1 l, s.mapRows s.cur .tileWrite 0 target = .ok (s1, l) →
          (∀ e, s1.checkLines s.cur (wholeLines (rowStores l data)) = .error e → exec (.tst d b g t) s = s.stop e) ∧
          ∀ s2, s1.checkLines s.cur (wholeLines (rowStores l data)) = .ok s2 → let u := s2.retireLines s.cur (rowStores l data)
            ∃ t', exec (.tst d b g t) s = .next t' ∧ BundleDone u t' { u.me with xfer := .next }) ∧
      (ok → accBad f = false → (s.getX w).toNat % 4 ≠ 0 → exec (.tstAmax d b g t w scope) s = .next (s.trapC (exc 4 (s.getX w)))) ∧
      (ok → accBad f = false → (s.getX w).toNat % 4 = 0 →
        (∀ e, s.rowPages s.cur .tileWrite 0 0 target = .error e → exec (.tstAmax d b g t w scope) s = s.stop e) ∧
        (∀ s1 lp e, s.rowPages s.cur .tileWrite 0 0 target = .ok (s1, lp) →
          s1.translate { s1.who s.cur with tval2 := .ofNat 64 (2 ^ 62 + 6) } .tileBoth (s.getX w) (upFrom (s.getX w).toNat 4) = .error e →
          exec (.tstAmax d b g t w scope) s = s.stop e) ∧
        ∀ s1 lp s2 wp l p r s3, s.rowPages s.cur .tileWrite 0 0 target = .ok (s1, lp) →
          s1.translate { s1.who s.cur with tval2 := .ofNat 64 (2 ^ 62 + 6) } .tileBoth (s.getX w) (upFrom (s.getX w).toNat 4) =
            .ok (s2, wp) →
          s2.rowBytes s.cur lp = .ok l → s2.bytesOfPages ((s2.ctx s.cur).mode == 3) wp = .ok (p :: r) →
          s2.checkLines s.cur (wholeLines (rowStores l data)) = .ok s3 → (∀ c ∈ p :: r, c.isDev = false) →
          let counted := ((List.range rows).map fun r => (List.range (if t = 15 then bytes / 4 else bytes * 8 / tileWidth t.toNat)).filterMap
            fun j => if j < 64 then some (tileElem 32 (s.me.getM d) r j) else none).flatten
          let m : BitVec 32 := .ofNat 32 (largest f counted)
          (∀ e, s3.askWord s.cur (p :: r) = .error e → exec (.tstAmax d b g t w scope) s = s.stop e) ∧
          ∀ s4, s3.askWord s.cur (p :: r) = .ok s4 →
            let u := s4.retireLines s.cur (rowStores l data)
            (p.t ≠ .U → ∃ t', exec (.tstAmax d b g t w scope) s = .next t' ∧
              BundleDone u t' { u.me with xfer := .next, stores := u.me.stores ++ [.amax p.t p.loc m] }) ∧
            (p.t = .U →
              let v := ((u.drain s.cur).rmwAt (coreOf s.cur) .U p.loc 4 fun old => max old m.toNat).1
              ∃ t', exec (.tstAmax d b g t w scope) s = .next t' ∧ BundleDone v t' { v.me with xfer := .next }))) ∧
    (s.me.tile = true → s.me.mode ≠ 0 → oldest →
        (∀ e, s.mapRange (s.who s.cur) .store img 131136 = .error e → exec (.tsave b) s = s.stop e) ∧
        (∀ s1 l e, s.mapRange (s.who s.cur) .store img 131136 = .ok (s1, l) → s1.writeMemBytes s.cur false l s1.me.tileImage = .error e →
          exec (.tsave b) s = s.stop e) ∧
        ∀ s1 l s2, s.mapRange (s.who s.cur) .store img 131136 = .ok (s1, l) → s1.writeMemBytes s.cur false l s1.me.tileImage = .ok s2 →
          ∃ t', exec (.tsave b) s = .next t' ∧ BundleDone s2 t' { s2.me with xfer := .next }) ∧
    (∀ x : Ctx,
      let i := x.tileImage
      let at_ := fun off n : Nat => ofBytes ((i.drop off).take n)
      i.length = 131136 ∧ at_ 0 8 = 0x08010001 ∧ at_ 8 8 = x.fmt.toNat ∧ (∀ e ∈ (i.drop 24).take 40, e = 0) ∧
      ∀ m : BitVec 3, at_ (16 + m.toNat) 1 = (if x.getM m = 0 then 0 else 1) ∧
        ∀ r, r < 64 → at_ (64 + 16384 * m.toNat + 256 * r) 256 = tileElem 2048 (x.getM m) r 0) ∧
    (s.me.mode ≠ 0 → oldest → (∀ e, s.mapRange (s.who s.cur) .load img 131136 = .error e → exec (.trstr q b) s = s.stop e) ∧
      (∀ s1 l e, s.mapRange (s.who s.cur) .load img 131136 = .ok (s1, l) → s1.readMem s.cur (l.take 8) = .error e →
        exec (.trstr q b) s = s.stop e) ∧
      ∀ s1 l s2 h, s.mapRange (s.who s.cur) .load img 131136 = .ok (s1, l) → s1.readMem s.cur (l.take 8) = .ok (s2, h) →
      let quota := s2.tileRoom s.cur = true ∧ s2.enables (skeinOf s.cur) = true
      (ofBytes (h.take 8) ≠ 0x08010001 → exec (.trstr q b) s = .next (s.trapC (exc 1 s.me.instrWord))) ∧
      (ofBytes (h.take 8) = 0x08010001 → s2.me.tile = false → ¬quota →
        ∃ t', exec (.trstr q b) s = .next t' ∧ BundleDone s2 t' { s2.me.setP q false with xfer := .next }) ∧
      (ofBytes (h.take 8) = 0x08010001 → s2.me.tile = true ∨ quota →
        (∀ e, s2.readMem s.cur l = .error e → exec (.trstr q b) s = s.stop e) ∧
        ∀ s3 v, s2.readMem s.cur l = .ok (s3, v) → ∃ t', exec (.trstr q b) s = .next t' ∧
          TileDone s3 t' ({ s3.me with
            tile := true, fmt := .ofNat 16 (ofBytes ((v.drop 8).take 2))
            m := Vector.ofFn fun (i : Fin 8) => .ofNat 131072 (ofBytes ((v.drop (64 + 16384 * i.val)).take 16384)) }.setP q true)))

/-- R227 to R231, R222, R126, R128: a multiply with an accepted fmt, room and its slots stops as the probe of its A rows (operand 2), its B rows
(3), A's scales (4) or B's (5) stops, in that order, then as reaching them does, then at a poisoned line of A, B or the scales; otherwise it
writes each tile of its block: an integer element is the old
one plus the sum of the products of its rows modulo 2^32, a floating-point one TileDotFP's (tileDot), of operand rows from memory by their
geometry, zero beyond it, or from tile registers, with a scale of 0x7F beyond the rows. A TMMAP's B and its scales come into no L1 before
its pairing says into which (R268).
R126, R127: a row's elements in groups of 32; the exact products of a group, its sum with every product cut at 2^40 below the largest,
its NaN and infinities; the groups, each under its two scales, join the accumulator in order, rounded to FP32 to nearest even; a NaN
accumulator stays one. -/
def Obligations.TileMultiplies : Prop :=
  (∀ (s : State) (d c h : BitVec 3) (a ga b gb sa sb tg : Reg) (am bm mx : BitVec 1), s.me.tile = true → s.myCore.tq.length < 8 →
     multiplyBad s.me.fmt (mx == 1) = false →
     let f := s.me.fmt
     let k := 2048 / tileWidth (f.toNat % 16)
     let rowsOf := fun (g : Dword) (n : Nat) =>
       if g.toNat / 2 ^ 32 % 256 = 0 ∨ n < g.toNat / 2 ^ 32 % 256 then n else g.toNat / 2 ^ 32 % 256
     let lenOf := fun g : Dword => 32 * if g.toNat / 2 ^ 40 % 256 = 0 ∨ 8 < g.toNat / 2 ^ 40 % 256 then 8 else g.toNat / 2 ^ 40 % 256
     let operand := fun (base g : Reg) (n : Nat) => (List.range (rowsOf (s.getX g) n)).map fun r =>
       (BitVec.ofNat 64 ((s.getX base).toNat + r * ((s.getX g).toNat % 2 ^ 32)), lenOf (s.getX g))
     let scales := fun (base : Reg) (n : Nat) =>
       if mx = 1 then (List.range n).map fun r => (BitVec.ofNat 64 ((s.getX base).toNat + r * (k / 32)), k / 32) else []
     let multiplies (i : Instr) (d c tr tc : Nat) (ma mb peek : Bool) : Prop :=
       let ha := 64 * tr
       let hb := 64 * tc
       let probe := fun (u : State) (n : Nat) rows => u.rowPages s.cur .tileRead n 0 rows
       let rowsA := if ma then operand a ga ha else []
       let rowsB := if mb then operand b gb hb else []
       let rowsSa := scales sa (if ma then rowsOf (s.getX ga) ha else 64)
       let rowsSb := scales sb (if mb then rowsOf (s.getX gb) hb else 64)
       let stops := fun e : Stop => exec i s = s.stop e
       s.obtains s.cur (tr * tc) = true →
       (∀ e, probe s 2 rowsA = .error e → stops e) ∧ ∀ s1 pa, probe s 2 rowsA = .ok (s1, pa) →
       (∀ e, probe s1 3 rowsB = .error e → stops e) ∧ ∀ s2 pb, probe s1 3 rowsB = .ok (s2, pb) →
       (∀ e, probe s2 4 rowsSa = .error e → stops e) ∧ ∀ s3 psa, probe s2 4 rowsSa = .ok (s3, psa) →
       (∀ e, probe s3 5 rowsSb = .error e → stops e) ∧ ∀ s4 psb, probe s3 5 rowsSb = .ok (s4, psb) →
       (∀ e, s4.rowBytes s.cur pa = .error e → stops e) ∧ ∀ la, s4.rowBytes s.cur pa = .ok la →
       (∀ e, s4.rowBytes s.cur pb = .error e → stops e) ∧ ∀ lb, s4.rowBytes s.cur pb = .ok lb →
       (∀ e, s4.rowBytes s.cur psa = .error e → stops e) ∧ ∀ lsa, s4.rowBytes s.cur psa = .ok lsa →
       (∀ e, s4.rowBytes s.cur psb = .error e → stops e) ∧ ∀ lsb, s4.rowBytes s.cur psb = .ok lsb →
       (∀ e, s4.readRows s.cur false la = .error e → stops e) ∧ ∀ s5 va, s4.readRows s.cur false la = .ok (s5, va) →
       (∀ e, s5.readRows s.cur peek lb = .error e → stops e) ∧ ∀ s6 vb, s5.readRows s.cur peek lb = .ok (s6, vb) →
       (∀ e, s6.readRows s.cur false lsa = .error e → stops e) ∧ ∀ s7 vsa, s6.readRows s.cur false lsa = .ok (s7, vsa) →
       (∀ e, s7.readRows s.cur peek lsb = .error e → stops e) ∧ ∀ s8 vsb, s7.readRows s.cur peek lsb = .ok (s8, vsb) →
       let rowA := fun n : Nat => if ma then va.getD n 0 else tileElem 2048 (s8.me.getM (low3 a)) n 0
       let rowB := fun n : Nat => if mb then vb.getD n 0 else tileElem 2048 (s8.me.getM (low3 b)) n 0
       let scaleRow := fun (v : List Nat) (n : Nat) => (v.map (fields 8 (k / 32))).getD n (List.replicate (k / 32) 0x7F)
       ∃ (t : State) (ts : Nat → Tile), exec i s = .next t ∧
         TileDone s8 t ((List.range (tr * tc)).foldl (fun x n => x.setM (.ofNat 3 (d + n)) (ts n)) s8.me) ∧
         ∀ n r j, n < tr * tc → r < 64 → j < 64 →
           let old := tileElem 32 (s8.me.getM (.ofNat 3 (c + n))) r j
           let ra := rowA (64 * (n / tc) + r)
           let rb := rowB (64 * (n % tc) + j)
           tileElem 32 (ts n) r j =
             if f.toNat / 256 % 4 = 1 then
               (((old : Int) + ((List.range 256).map fun q =>
                 readInt 8 (f.toNat % 16 == 6) (ra / 256 ^ q) * readInt 8 (f.toNat / 16 % 16 == 6) (rb / 256 ^ q)).sum) % 2 ^ 32).toNat
             else tileDot old (rowGroups (f.toNat % 16) ra) (rowGroups (f.toNat / 16 % 16) rb)
               (if mx = 1 then some (scaleRow vsa (64 * (n / tc) + r), scaleRow vsb (64 * (n % tc) + j)) else none)
     multiplies (.tmma d c a ga b gb am bm mx sa sb) d.toNat c.toNat 1 1 (am == 1) (bm == 1) false ∧
     (let tr := if h = 0 ∨ h = 3 then 1 else if h = 4 ∨ h = 6 then 4 else 2
      let tc := if h = 1 ∨ h = 4 then 1 else if h = 0 ∨ h = 2 ∨ h = 6 then 2 else 4
      h ≠ 7 → multiplies (.tmmag d c h a ga b gb mx sa sb) d.toNat c.toNat tr tc true true false) ∧
     multiplies (.tmmap tg a ga b gb mx sa sb) 0 0 2 4 true true true) ∧
  (∀ (c : Nat) (a b : List (List Val)) (x y : List Nat) (ps : List Val),
     let dec := Fmt.fp32.decode
     let enc := fun v : Val => (Fmt.fp32.round v .rne false).1
     let val := fun v : Val => match v with | .fin s m e => (if s then -1 else 1) * (m : ℚ) * (2 : ℚ) ^ e | _ => 0
     let finite := fun v : Val => match v with | .fin _ _ _ => True | _ => False
     let join := fun acc s : Val => match acc, s with
       | .nan _, _ => Val.nan false
       | _, .nan _ => .nan false
       | .inf m, .inf n => if m = n then .inf m else .nan false
       | .inf m, _ => .inf m
       | _, .inf n => .inf n
       | u, v => dec (enc (fpAdd .rne u v).1)
     let group := fun ga gb : List Val => groupSum (List.zipWith (fun u v => (fpMul u v).1) ga gb)
     let scaled := fun (p q : Nat) (v : Val) => if p = 255 ∨ q = 255 then Val.nan false
       else match v with | .fin s m e => .fin s m (e + (p - 127) + (q - 127)) | v => v
     ((∃ p ∈ ps, p.isNan = true) ∨ (.inf false ∈ ps ∧ .inf true ∈ ps) → groupSum ps = .nan false) ∧
     (∀ n, (∀ p ∈ ps, p.isNan = false) → .inf n ∈ ps → .inf (!n) ∉ ps → groupSum ps = .inf n) ∧
     ((∀ p ∈ ps, finite p ∧ val p = 0) → groupSum ps = .fin false 0 0) ∧
     (∀ e : Int, (∀ p ∈ ps, finite p ∧ |val p| < (2 : ℚ) ^ (e + 1)) → (∃ p ∈ ps, (2 : ℚ) ^ e ≤ |val p|) →
       ∃ s m g, groupSum ps = .fin s m g ∧ (m = 0 → s = false) ∧ val (.fin s m g) =
         (ps.map fun p => (if val p < 0 then -1 else 1) * (⌊|val p| / (2 : ℚ) ^ (e - 40)⌋ : ℚ) * (2 : ℚ) ^ (e - 40)).sum) ∧
     (a.length = b.length →
       tileDot c a b none = enc ((List.zip a b).foldl (fun acc g => join acc (group g.1 g.2)) (dec c)) ∧
       (x.length = a.length → y.length = a.length → tileDot c a b (some (x, y)) = enc ((List.zip (List.zip a b) (List.zip x y)).foldl
         (fun acc g => join acc (scaled g.2.1 g.2.2 (group g.1.1 g.1.2))) (dec c)))) ∧
     (∀ sc, (dec c).isNan = true → tileDot c a b sc = 0x7FC00000) ∧
     ∀ code row : Nat, code ≤ 4 →
       let F := if code = 0 then Fmt.bf16 else if code = 1 then .fp16 else if code = 2 then .e4m3 else if code = 3 then .e5m2 else .e2m1
       rowGroups code row = (List.range (2048 / F.width / 32)).map fun g => (List.range 32).map fun i =>
         F.decode (row / 2 ^ (F.width * (32 * g + i)) % 2 ^ F.width))

/-! ## Contexts and issue -/

/-- R61, R298, R299, R29, R81, R65: of the pending and enabled interrupts that the mode lets through, the one with the lowest cause is taken
at a boundary, in a waiting step 1 or from a park; cw.cause, cw.tval and cw.epc say which, what and where, the pending bit stays; a WAIT
that it ends completes first; a multiply of the thread's that has begun goes ahead on its engines. A gang stop holds a user context's
interrupts unless its gang-stop interrupt is enabled. The timer bit reads 1 once package time has come to cw.timecmp. That the event moves
package time is the model's choice (log 17).
R197: 1 ms after its notice an unreported failure is due, that of the earliest notice first; the oldest store's is reported before the
next whole bundle, unless an enabled interrupt is pending there, with cause 0x0B, the store's address and its ticket, or, where the store
met a poisoned line, with data poison and the line's address (R187), and is then no longer kept. A FENCE that waits for undeliverable stores
raises cause 0x10 with the loss-log entry, which then counts as acknowledged. That the event moves package time is the model's choice (logs
17, 18); so is that a failure waits while slot A alone is to execute (log 70). -/
def Obligations.InterruptsAndFailureReports : Prop :=
  (∀ (s : State) (c : CtxId),
     let x := s.ctx c
     let may := x.mode = 0 ∨ (x.mode = 1 ∧ x.cw.status.getLsbD 2 = true)
     let pend := fun n : Nat => if n = 0 then x.cw.timecmp.toNat ≤ s.dev.time.toNat else x.cw.ipend.getLsbD n = true
     let lowest := fun n : Nat => n < 5 ∧ x.cw.ien.getLsbD n = true ∧ pend n ∧ ∀ m, m < n → ¬(x.cw.ien.getLsbD m = true ∧ pend m)
     let stands := (x.st = .running ∨ x.st = .parked) ∧ s.settling c = false ∧ s.power.drain = .none ∧
       (s.gangStops c = true → x.cw.ien.getLsbD 3 = true)
     let waits := x.st = .parked ∧ x.park = some .wait
     let info := fun n : Nat => if n = 1 then x.mbSrc else if n = 2 then x.icSrc
       else if n = 3 then .ofNat 64 (s.dev.gsctl.toNat / 2 ^ 8 % 2 ^ 8)
       else if n = 4 ∧ s.power.applied = true then .ofNat 64 (max s.power.pin.toNat (max s.power.inb.toNat s.power.i3c.toNat)) else 0
     let marker := match x.st, x.park with
       | .parked, some (.marker _ m u) => some (m, u, x.pc)
       | _, _ => none
     (s.now = some (.takeInterrupt c) → may → stands → ∀ n, lowest n →
       (waits → ∃ t, exec .takeInterrupt s = .next t ∧
         t = (s.setCtx c { x with st := .running, park := none, latch := false, phase := .second, xfer := .next }).yieldTurn) ∧
       (¬waits →
         let s1 := (s.modCore (coreOf c) fun k =>
           ({ k with tq := aheadFirst (ctxInCore c) k.tq } : CoreSt).squashReads (ctxInCore c)).setCtx c
             { x with st := .running, park := none, phase := .fetch, xfer := .next, spawnTo := none, asked := false }
         let e : Exc := { code := 0x20 + n, detail := 0, tval := info n, tval2 := 0, intr := true }
         let slot := x.slotA && x.phase == .fetch
         ∃ t u, exec .takeInterrupt s = .next t ∧ EntersSupervisor s1 u c e slot ∧
           t = (u.setCtx c { u.ctx c with mkRec := marker.or (u.ctx c).mkRec }).yieldTurn ∧ (t.ctx c).cw.ipend = x.cw.ipend)) ∧
     (s.now = some (.timecmpReached c) →
       let t := { s with dev := { s.dev with
         time := if s.dev.time.toNat < x.cw.timecmp.toNat then x.cw.timecmp else s.dev.time } }
       exec .timecmpReached s = .next t ∧ ((t.ctx c).pending t.dev.time).getLsbD 0 = true)) ∧
  (∀ (s : State) (c : CtxId),
     let x := s.ctx c
     (∀ f, s.now = some (.deferredFailDue c) → f ∈ x.fails → f.due = false →
       (∀ g ∈ x.fails, g.due = false → g = f ∨ f.at_.toNat < g.at_.toNat) →
       let at_ : Dword := f.at_ + 1000000
       exec .deferredFailDue s = .next (({ s with dev := { s.dev with
         time := if s.dev.time.toNat < at_.toNat then at_ else s.dev.time } } : State).setCtx c
           { x with fails := x.fails.map fun g => if g = f then { g with due := true } else g })) ∧
     (∀ l f r, s.now = some (.deferredRemoteStoreTrap c) → x.fails = l ++ f :: r →
       let comes := fun g : Fail => g.due = true ∨ (g.at_ + 1000000 : Dword).toNat ≤ s.dev.time.toNat
       (∀ g ∈ l, ¬comes g) → comes f →
       x.slotA = false → s.takeable c = none → (x.st = .running ∨ x.st = .parked) → s.settling c = false → s.power.drain = .none →
       s.gangStops c = false →
       let s1 := (s.modCore (coreOf c) fun k => k.squashReads (ctxInCore c)).setCtx c
         { x with st := .running, park := none, phase := .fetch, xfer := .next, spawnTo := none, asked := false, fails := l ++ r }
       let e : Exc := if f.poison then { code := 0x0C, detail := 0, tval := .ofNat 64 (f.addr.toNat / 128 * 128), tval2 := 0, intr := false }
         else { code := 0x0B, detail := 0, tval := f.addr, tval2 := ticketInfo f.ticket, intr := false }
       ∃ t, exec .deferredRemoteStoreTrap s = .next t ∧ (t.ctx c).fails = l ++ r ∧
         (¬GoesToFirmware x e → ∃ u, EntersSupervisor s1 u c e false ∧
           t = (u.setCtx c { u.ctx c with mkRec := x.markerOut.or (u.ctx c).mkRec }).yieldTurn) ∧
         (GoesToFirmware x e → ∃ u i, EntersFirmware s1 u c 1 (.ofNat 64 i) false ∧
           t = (u.setCtx c { u.ctx c with mkRec := x.markerOut.or (u.ctx c).mkRec }).yieldTurn)) ∧
     (∀ i r, s.now = some (.fenceDeliveryFailure c) → x.inFence = true → x.fails = [] → x.lost = i :: r →
       exec .fenceDeliveryFailure s = .next ((s.setCtx c { x with lost := r }).enterTrap c (exc 0x10 (.ofNat 64 i)) false).yieldTurn))

/-- R27, R28, R154: a parked thread whose wake condition holds, and that no gang stop or drain holds, runs again: WAIT and HALT complete,
any other waiting instruction executes anew. A WAITUNTIL wakes when package time has come to its target. That the event moves package time
is the model's choice (log 17).
R31, R32, R281, R282, R295, R34, R35, R133, R323: an arbiter chooses once in a cycle, two ready contexts, or as many as there are: an urgent one before any
other, a privileged one before a user one, and within a class the first in round robin after the one last chosen, one that has paused last;
those chosen run next, each with two bundles to rename, their wait counts return to zero, and those ready and not chosen count one more;
counter 4 counts the cycle when it is over, if one of these renamed no copy of a fused bundle in it. At 32 a context is urgent. A fused fetch, in its place in the fetch order, where another group is one requester, gives every member the one
bundle read, where the arbiter has chosen one of them, and each renames it and counts as chosen; a wrong path leaves nothing but A bits and what its walks cached (which they are is free, log
87). In each cycle that passes every core's arbiter chooses, and nothing
else of a context or a core changes. How a choice
stands in the list of turns, and when a cycle ends, is the model's (log 15), and so is the order in which members count (log 83). -/
def Obligations.WakingAndIssue : Prop :=
  (∀ (s : State) (c : CtxId),
     let x := s.ctx c
     let again := s.setCtx c { x with st := .running, park := none, phase := .first }
     x.st = .parked → s.gangStops c = false → s.drainStops c = false →
     (s.now = some (.parkedWake c) →
       (x.park = some .wait → (x.cw.ien &&& x.pending s.dev.time ≠ 0 ∨ x.latch = true) →
         exec .parkedWake s = .next
           (s.setCtx c { x with st := .running, park := none, latch := false, phase := .second, xfer := .next })) ∧
       (∀ u, x.park = some (.until u) → u.toNat ≤ s.dev.time.toNat → exec .parkedWake s = .next again) ∧
       (∀ k m u, x.park = some (.marker k m u) → u.toNat < (tableGet (s.skein k).markers m.toNat Marker.reset).p.toNat →
         exec .parkedWake s = .next again) ∧
       (∀ a, x.park = some (.tkwait a) → s.ticketReady c a = true → exec .parkedWake s = .next again) ∧
       (∀ n, x.park = some (.ticket n) → (∀ e ∈ (s.core (coreOf c)).tk, e.1 = n →
         e.2.state = .done ∨ (e.2.state = .noticeFail ∧ e.2.replaying = false)) → exec .parkedWake s = .next again) ∧
       (∀ va narrow kind y u l, x.park = some (.token va narrow kind y) → s.mapRange (s.who c) .load va 8 = .ok (u, l) →
         tokenHolds kind (u.tokenWord (coreOf c) narrow l) y = true → exec .parkedWake s = .next again) ∧
       (s.wakes c = false → exec .parkedWake s = .next s)) ∧
     ∀ u, s.now = some (.waituntilExpiry c) → x.park = some (.until u) →
       exec .waituntilExpiry s = .next (({ s with dev := { s.dev with
         time := if s.dev.time.toNat < u.toNat then u else s.dev.time } } : State).setCtx c
           { x with st := .running, park := none, phase := .first })) ∧
  ((∀ (s : State) (core : CoreId), s.now = some (.issueArbitrate core) →
     let k := s.core core
     let urgent := fun c => (s.ctx c).urgent = true
     let sup := fun c => ¬urgent c ∧ (s.ctx c).mode ≠ 0
     let user := fun c => ¬urgent c ∧ (s.ctx c).mode = 0
     let paused := fun c => s.cyc < (s.ctx c).pausedTill
     let turn := fun (last : Nat) c => (ctxInCore c - BitVec.ofNat 3 (last + 1)).toNat
     let before := fun (last : Nat) c d => (paused c → paused d) ∧ ((paused c ↔ paused d) → turn last c < turn last d)
     (s.cyc < k.nextChoice → exec .issueArbitrate s = .next s) ∧
     (k.nextChoice ≤ s.cyc → ∃ (t : State) (two : List CtxId), exec .issueArbitrate s = .next t ∧ MemorySame s t ∧
       two.length = min 2 ((ctxsOfCore core).filter s.isReady).length ∧ two.Nodup ∧
       (∀ c ∈ two, coreOf c = core ∧ s.isReady c = true) ∧
       (∀ c d, c ∈ two → d ∉ two → coreOf d = core → s.isReady d = true →
         (urgent d → urgent c ∧ turn k.rrUrgent c < turn k.rrUrgent d) ∧ (sup d → user c → False) ∧
         (sup d → sup c → before k.rrSup c d) ∧ (user d → user c → before k.rrUser c d)) ∧
       (∀ c, two.getLast? = some c → urgent c → (t.core core).rrUrgent = (ctxInCore c).toNat) ∧
       (∀ c, two.getLast? = some c → sup c → (t.core core).rrSup = (ctxInCore c).toNat) ∧
       (∀ c, two.getLast? = some c → user c → (t.core core).rrUser = (ctxInCore c).toNat) ∧
       (∀ c ∈ two, t.ctx c = { s.ctx c with waitCount := 0, urgent := false }) ∧
       (∀ c, c ∉ two → coreOf c = core →
         t.ctx c = { s.ctx c with waitCount := if s.isReady c then (s.ctx c).waitCount + 1 else 0 }) ∧
       (t.core core).slots = two.map (fun c => (ctxInCore c, 2)) ∧ (t.core core).nextChoice = s.cyc + 1 ∧
       (∀ c, coreOf c = core → (ctxInCore c ∈ (t.core core).unchosen ↔ s.isReady c = true ∧ c ∉ two)) ∧
       tableGet (t.core core).ctr 4 0 = tableGet k.ctr 4 0 + (if k.unchosen = [] then 0 else 1) ∧
       (∀ n, n ≠ 4 → n ≠ 6 → n ≠ 10 → tableGet (t.core core).ctr n 0 = tableGet k.ctr n 0) ∧
       (∀ c, coreOf c ≠ core → t.ctx c = s.ctx c) ∧ (∀ c, c ∈ t.turns ↔ c ∈ s.turns) ∧
       t.turns.take (two.filter s.turns.contains).length = two.filter s.turns.contains)) ∧
   (∀ (s : State) (c : CtxId), s.now = some (.urgentMark c) → 32 ≤ (s.ctx c).waitCount → (s.ctx c).urgent = false →
     ∃ t, exec .urgentMark s = .next t ∧ MemorySame s t ∧ t.ctx c = { s.ctx c with urgent := true } ∧
       ∀ d, d ≠ c → t.ctx d = s.ctx d) ∧
   (∀ (s : State) (core : CoreId) (g : BitVec 8) (a b : CtxId) (r : List CtxId) (u : State) (w : BitVec 64),
     s.now = some (.fusedFetch core g) → namedCtxs core g = a :: b :: r →
     (∀ c ∈ a :: b :: r, s.fetchesNext c = true ∧ (s.ctx c).cw.asn = (s.ctx a).cw.asn ∧ (s.ctx c).mode = (s.ctx a).mode ∧
       (s.ctx c).pc = (s.ctx a).pc) →
     (∀ l : List CtxId, l.Nodup → (∀ d ∈ l, coreOf d = core ∧ d ∉ a :: b :: r ∧ s.asksFetch core d = true ∧
       ∀ c ∈ a :: b :: r, s.lastServed core d < (s.ctx c).fetched) → l.length < 2) →
     (∃ c ∈ a :: b :: r, s.mayRename c = true) → s.fetch a = .ok (u, w) →
     ∃ t, exec .fusedFetch s = .next t ∧ MemorySame u t ∧
       (∀ c ∈ a :: b :: r, t.ctx c = { u.ctx c with bundle := w, phase := .first, fetched := (u.ctx a).fetched,
                                                    waitCount := 0, urgent := false,
                                                    trapTo := (u.core core).trapvec, fwTo := (u.core core).fwvec }) ∧
       ((t.core core).slots = (u.core core).slots.map fun e =>
         if g.getLsbD e.1.toNat = true then (e.1, e.2 - 1) else e) ∧
       (t.core core).unchosen = (u.core core).unchosen.filter (fun n => !g.getLsbD n.toNat) ∧
       (∀ c, c ∉ a :: b :: r → t.ctx c = u.ctx c) ∧ g ∈ (t.core core).fused) ∧
   (∀ (s : State) (n : Nat), let t := s.toCycle n
     MemorySame s t ∧ t.cyc = max s.cyc n ∧ t.agenda = s.agenda ∧
     (∀ c, t.ctx c = { s.ctx c with waitCount := (t.ctx c).waitCount, urgent := (t.ctx c).urgent }) ∧
     (∀ k, t.core k = { s.core k with rrUrgent := (t.core k).rrUrgent, rrSup := (t.core k).rrSup, rrUser := (t.core k).rrUser
                                      slots := (t.core k).slots, unchosen := (t.core k).unchosen
                                      nextChoice := (t.core k).nextChoice, ctr := (t.core k).ctr }) ∧
     ∀ k, k ∈ s.listedCores ∨ (∃ c ∈ s.listedCtxs, coreOf c = k) → s.cyc < n → (t.core k).nextChoice = n + 1 ∧
       (t.core k).slots.length ≤ 2 ∧ ∀ e ∈ (t.core k).slots, e.2 = 2) ∧
   ∀ (s : State) (c : CtxId), s.now = some (.mispredictSquash c) →
     let u := if s.diverges c then s.leaveFused c else s
     ∃ t, exec .mispredictSquash s = .next t ∧ (NoPins s → (∀ d, t.ctx d = u.ctx d) ∧
       t.core (coreOf c) = (let k := t.core (coreOf c); { u.core (coreOf c) with tlb := k.tlb, ast := k.ast, l1 := k.l1 }) ∧
       (∀ k, k ≠ coreOf c → t.core k = { s.core k with l1 := (t.core k).l1 }) ∧
       (∀ k, t.skein k = { s.skein k with sc := (t.skein k).sc }) ∧
       t = { s with cores := t.cores, skeins := t.skeins, mem := t.mem, msc := t.msc, away := t.away, free := t.free } ∧
       (Memory.wf s.mem = true → ∀ x, readCell t.mem x = readCell s.mem x ∨ readCell t.mem x = readCell s.mem x ||| 0x40)))

/-! ## Threads, launches, copies -/

/-- R20 to R23, R280, R314, R368, R389: the queue's head, the oldest of the highest priority, claims the lowest-numbered Idle context, unless a
gang stop or a drain holds it or the die is not ready; the thread starts in user mode with R21's values, and, its code fence and its
acquire made, runs. An entry that has waited 1,048,576 cycles at one priority rises by one, up to 3, and its next wait counts from then.
R24 to R26, R335, R360, R393: an Exiting context waits for its tile commands, then performs its stores; a failed posted store brings it back with cause 0x0B, or 0x0C for
a poisoned line, at its EXIT; posted stores not yet acknowledged, and a gang stop, hold it; then its tiles go, its token is incremented in the launch's
address space and its message posted or dropped, for which it waits, and it is Idle with nothing of the thread left. An increment that is not
made is recorded: reason 0 for a page not present or an address of no page (log 19), 1 for a permission or the mode rule, 2 for a D update that
dref refuses (A is set), 3 with the line for a poisoned one, 4 for an invalid space. What a failure found at EXIT does is the model's reading
(log 21). -/
def Obligations.ThreadsStartAndEnd : Prop :=
  ((∀ (s : State) (core : CoreId) (e : LqEntry) (c : CtxId), s.now = some (.launchClaim core) → s.gang = false →
     s.power.drain = .none → s.boot.ready.getLsbD (1 + core.toNat / 128) = true → e ∈ (s.core core).lq →
     (∀ f ∈ (s.core core).lq, f ≠ e → f.seq ≠ e.seq ∧
       (f.req.prio.toNat < e.req.prio.toNat ∨ (f.req.prio = e.req.prio ∧ e.seq < f.seq))) →
     coreOf c = core → (s.ctx c).st = .idle → (∀ d, coreOf d = core → d.toNat < c.toNat → (s.ctx d).st ≠ .idle) →
     ∃ t, exec .launchClaim s = .next t ∧ MemorySame s t ∧ (∀ d, d ≠ c → t.ctx d = s.ctx d) ∧
       (∀ k, k ≠ core → t.core k = s.core k) ∧
       t.core core = { s.core core with lq := (t.core core).lq } ∧
       (∀ f, f ≠ e → (f ∈ (t.core core).lq ↔ f ∈ (s.core core).lq)) ∧
       (t.core core).lq.length + 1 = (s.core core).lq.length ∧ c ∈ t.turns ∧
       let x := t.ctx c
       x.st = .starting ∧ x.start = some (e.req, e.origin) ∧ x.pc = e.req.pc ∧ x.slotA = false ∧ x.phase = .fetch ∧
       (∀ r, x.getX r = if r = 1 then e.req.arg0 else if r = 2 then e.req.arg1 else 0) ∧
       (∀ r, x.getP r = decide (r = 0)) ∧ (∀ r, x.getK r = if r = 0 then BitVec.allOnes 128 else 0) ∧ (∀ r, x.getV r = 0) ∧
       (∀ r, x.getB r = if r = 0 then { target := .ofNat 61 ((s.core core).exitpc.toNat / 8), valid := true }
         else { target := 0, valid := false }) ∧
       x.fmt = 0 ∧ x.tile = false ∧ x.cw = { Cw.reset with ltag := e.req.tag, asn := e.req.asn } ∧ x.mode = 0 ∧
       x.latch = false ∧ x.stores = [] ∧
       x.comp = if e.req.comp.getLsbD 0 ∨ e.req.comp.getLsbD 5
         then some { token := e.req.token, word := e.req.comp, asn := e.req.asn, ltag := e.req.tag } else none) ∧
   (∀ (s : State) (c : CtxId) (q : LaunchReq) (o : LaunchOrigin), s.now = some (.threadStart c) → (s.ctx c).st = .starting →
     (s.ctx c).start = some (q, o) →
     let scope : BitVec 4 := match o with | .mailbox _ => 5 | .spawn _ => 4 | .copy _ _ sc => sc
     ∃ t, exec .threadStart s = .next t ∧ t.ctx c = { s.ctx c with st := .running, start := none } ∧
       (∀ d, d ≠ c → t.ctx d = s.ctx d) ∧
       (∀ k, k ≠ coreOf c → t.core k = { s.core k with l1 := (t.core k).l1, cq := (t.core k).cq }) ∧
       (∀ e, e ∈ (t.core (coreOf c)).icache ↔ e ∈ (s.core (coreOf c)).icache ∧ ¬(q.fence = true ∧ e.asn = q.asn)) ∧
       (2 ≤ scope.toNat → ∀ l ∈ (t.core (coreOf c)).l1, l.s = false)) ∧
   ∀ (s : State) (core : CoreId) (n : BitVec 4) (e : LqEntry), s.now = some (.launchEntryAging core n) →
     (s.core core).lq[n.toNat]? = some e → (∀ (j : Nat) (f : LqEntry), (s.core core).lq[j]? = some f → f.seq = e.seq → j = n.toNat) →
     (e.req.prio ≠ 3 → e.since + 1048576 ≤ s.cyc → exec .launchEntryAging s = .next (s.setCore core { s.core core with
       lq := (s.core core).lq.set n.toNat { e with req := { e.req with prio := e.req.prio + 1 }, since := e.since + 1048576 } })) ∧
     (e.req.prio = 3 ∨ s.cyc < e.since + 1048576 → exec .launchEntryAging s = .next s)) ∧
  (∀ (s : State) (c : CtxId), s.now = some (.exitDrainComplete c) → (s.ctx c).st = .exiting →
     let x := s.ctx c
     let s1 := s.drain c
     (s.gang = true → exec .exitDrainComplete s = .next s.stall) ∧
     let busy := ∃ t ∈ (s.core (coreOf c)).tq, t.ctx = ctxInCore c
     (s.gang = false → busy → exec .exitDrainComplete s =
       .next (match (s.core (coreOf c)).tq.find? fun (t : TileCmd) => t.pair.isSome with
         | some t => s.post (.tmmapPairTimeout (coreOf c ++ t.ctx))
         | none => s).stall) ∧
     (s.gang = false → ¬busy →
       (∀ f r, x.fails = f :: r → exec .exitDrainComplete s = .next
         ((s1.setCtx c { s1.ctx c with st := .running, fails := r }).enterTrap c
           (if f.poison then { code := 0x0C, detail := 0, tval := .ofNat 64 (f.addr.toNat / 128 * 128), tval2 := 0, intr := false }
            else { code := 0x0B, detail := 0, tval := f.addr, tval2 := ticketInfo f.ticket, intr := false }) false)) ∧
       (x.fails = [] → s1.posted c ≠ [] → exec .exitDrainComplete s = .next s1.stall) ∧
       (x.fails = [] → s1.posted c = [] →
         let s2 := s1.setCtx c { s1.ctx c with tile := false, tslots := [], fmt := 0, m := Vector.replicate 8 0 }
         let ends := fun u : State =>
           ((∀ g ∈ u.dev.msgs, g.source ≠ c) → ∃ t, exec .exitDrainComplete s = .next t ∧ MemorySame u t ∧ t.ctx c = Ctx.reset ∧
             (∀ d, d ≠ c → t.ctx d = u.ctx d) ∧ (∀ k, t.core k = u.core k) ∧ c ∉ t.turns ∧ t.dev = u.dev ∧ t.ras = u.ras) ∧
           ((∃ g ∈ u.dev.msgs, g.source = c) → exec .exitDrainComplete s = .next (u.setCtx c { u.ctx c with comp := none }).stall)
         let who := fun a : Completion => { core := coreOf c, asn := a.asn, mode := 0, sum := false, tval2 := 0 : Who }
         let said := fun (a : Completion) (u : State) => if a.word.getLsbD 5 then
             u.sendMessage { mailbox := .ofNat 6 (a.word.toNat / 2 ^ 6), source := c
                             body := bytesOf 4 a.ltag ++ bytesOf 2 a.asn ++ toBytes 2 (coreOf c).toNat ++ List.replicate 48 0 }
           else u
         (x.comp = none → ends s2) ∧
         (∀ a, x.comp = some a → a.word.getLsbD 0 = false → ends (said a s2)) ∧
         ∀ a, x.comp = some a → a.word.getLsbD 0 = true →
           let s3 := s2.releaseS (coreOf c) (.ofNat 4 (a.word.toNat / 2))
           let add := fun old : Nat => (old + 1) % 2 ^ 64
           let recorded := fun (u : State) (line : Dword) (reason : Nat) =>
             ends (said a (u.record 4 11 (errPlace c) line a.token (.ofNat 64 a.asn.toNat) (.ofNat 64 reason) 0).1)
           (∀ s4 l s5 n, s3.mapRange (who a) .rmw a.token 8 = .ok (s4, l) → s4.rmw c l add = .ok (s5, n) → ends (said a s5)) ∧
           (∀ e as, s3.mapRange (who a) .rmw a.token 8 = .error (.trap e) → s3.spaceOf (who a) = .ok as →
             recorded s3 0 (if as = none then 4 else if e.code = 7 then e.detail else if e.detail = 3 then 1 else 0)) ∧
           (∀ e at_ p as, s3.mapRange (who a) .rmw a.token 8 = .error (.dirtyRefused e at_ p) →
             (s3.putPte at_ p).spaceOf (who a) = .ok as → recorded (s3.putPte at_ p) 0 (if as = none then 4 else 2)) ∧
           ∀ s4 b l e as, s3.mapRange (who a) .rmw a.token 8 = .ok (s4, b :: l) → s4.rmw c (b :: l) add = .error (.trap e) →
             s3.spaceOf (who a) = .ok (some as) → recorded s3 (s3.lineAddress b.loc) 3)))

/-- R331, R332, R334, R335, R336, R346, R378: a message that found no room in time is dropped and counted; a doorbell of an open mailbox
reads its ring and receives the entries up to it that bear the expected number, each acknowledged in its slot, and says where it ran too far
ahead; a poisoned entry is left unread, which is the model's (log 36, DEDUCED); a value that names only entries received already changes
nothing, which is the model's reading of "starts nothing new" (log 73, DEDUCED); a reset discards what is unconsumed, counts it and closes
the mailbox; closing drops the messages that wait; opening the first mailbox but 0 locks the server mask; a partner's versions are taken,
VMBX's only while every mailbox but 0 is closed.
R333, R332: the head entry of an open mailbox, unless it already waits, is checked for its version, then its zero fields, then what it
asks for (a type that is none of the three counts as a launch's, with reason 4); a refused entry is consumed with the reason of the first
check it fails; a launch goes to the router, a service entry raises the mailbox interrupt and waits for its number in MBSVC, a wake entry
sets the latch of a thread of the space named. Consuming the last entry writes its acknowledgment slot. -/
def Obligations.Mailboxes : Prop :=
  (∀ (s : State) (m : BitVec 6) (v : Dword),
     let b := s.h2d m
     let d := s.d2h m
     (∀ n g, s.now = some (.completionMessageTimeout n) → s.dev.msgs[n]? = some g →
       ∃ t, exec .completionMessageTimeout s = .next t ∧ MemorySame s t ∧ t.dev.msgs = s.dev.msgs.eraseIdx n ∧
         t.d2h g.mailbox = { s.d2h g.mailbox with lost := (s.d2h g.mailbox).lost + 1 } ∧
         ∀ j, j ≠ g.mailbox → t.d2h j = s.d2h j) ∧
     (s.now = some (.mailboxDoorbell m v) →
       let w := BitVec.ofNat 32 v.toNat
       let db := if 0 ≤ (w - b.next).toInt then w else b.db
       let rung := { b with db := db, stale := false, ovr := b.ovr || decide (256 < (db - b.consumed).toNat) }
       let at_ := b.base.toNat + 64 * (b.next.toNat % 256)
       let e := s.physRead at_ 64
       (b.cfg.getLsbD 0 = false → exec .mailboxDoorbell s = .next s) ∧
       (b.cfg.getLsbD 0 = true → ∃ t, exec .mailboxDoorbell s = .next t ∧ (t.h2d m).db = db ∧ (t.h2d m).ovr = rung.ovr ∧
         (t.h2d m).cfg = b.cfg ∧ (t.h2d m).consumed = b.consumed ∧
         (∃ l, (t.h2d m).entries = b.entries ++ l ∧ (t.h2d m).next = b.next + .ofNat 32 l.length ∧
           (∀ (j : Nat) (h : j < l.length), l[j].1 = b.next + .ofNat 32 j ∧ l[j].2.toNat % 2 ^ 32 = l[j].1.toNat) ∧
           (s.agreed 0 = 0 → l = []) ∧ (db = b.next → l = []) ∧ (s.physPoisoned at_ = true → l = []) ∧ (ofBytes (e.take 4) ≠ b.next.toNat → l = []) ∧
           (s.agreed 0 ≠ 0 → db ≠ b.next → (b.next - b.consumed).toNat < 256 → s.agentReaches true at_ = true →
             s.physPoisoned at_ = false → ofBytes (e.take 4) = b.next.toNat → l.head? = some (b.next, .ofNat 512 (ofBytes e)))) ∧
         (∀ k, k ≠ m → t.h2d k = s.h2d k) ∧ (∀ k, t.d2h k = s.d2h k) ∧ ∀ c, t.ctx c = s.ctx c) ∧
       (b.cfg.getLsbD 0 = true → s.agreed 0 ≠ 0 → db = b.next + 1 → (b.next - b.consumed).toNat < 256 → s.agentReaches true at_ = true →
         s.physPoisoned at_ = false → ofBytes (e.take 4) = b.next.toNat →
         let got := { rung with next := b.next + 1, entries := b.entries ++ [(b.next, .ofNat 512 (ofBytes e))] }
         exec .mailboxDoorbell s = .next (((((s.setH2d m rung).agentRead at_).setH2d m got).physWrite true (b.ack.toNat + 16 * (b.next.toNat % 256))
           (toBytes 4 b.next.toNat ++ [1, 0] ++ toBytes 2 got.free ++ toBytes 2 0 ++ List.replicate 6 0)).serveHead m))) ∧
     (s.now = some (.mailboxReset false m v) →
       (v ≠ 1 → exec .mailboxReset s = .next s) ∧
       (v = 1 → ∃ t, exec .mailboxReset s = .next t ∧ MemorySame s t ∧ (∀ c, t.ctx c = s.ctx c) ∧ (∀ k, t.core k = s.core k) ∧
         t.h2d m = { b with cfg := b.cfg &&& ~~~1, lost := b.lost + .ofNat 16 b.entries.length, entries := [], next := 0
                            consumed := 0, db := 0, waiting := false, stale := false, svc := false } ∧
         (∀ k, k ≠ m → t.h2d k = s.h2d k) ∧ (∀ w, w ∈ t.dev.router ↔ w ∈ s.dev.router ∧ w.origin ≠ .mailbox m))) ∧
     (s.now = some (.mailboxReset true m v) →
       (v ≠ 1 → exec .mailboxReset s = .next s) ∧
       (v = 1 → ∃ t, exec .mailboxReset s = .next t ∧ MemorySame s t ∧ (∀ c, t.ctx c = s.ctx c) ∧ (∀ k, t.core k = s.core k) ∧
         t.d2h m = { d with cfg := d.cfg &&& ~~~1, posted := 0, head := 0
                            lost := d.lost + .ofNat 16 (s.dev.msgs.filter fun g => g.mailbox == m).length } ∧
         (∀ k, k ≠ m → t.d2h k = s.d2h k) ∧ ∀ g, g ∈ t.dev.msgs ↔ g ∈ s.dev.msgs ∧ g.mailbox ≠ m)) ∧
     (∀ toHost, s.now = some (.mailboxOpen toHost m v) → ∃ t, exec .mailboxOpen s = .next t ∧ MemorySame s t ∧
       (∀ c, t.ctx c = s.ctx c) ∧ (∀ k, t.core k = s.core k) ∧
       (toHost = true → t.dev.h2d = s.dev.h2d ∧
         (v.getLsbD 0 = true → t.d2h m = { d with cfg := v &&& 3 } ∧ t.dev.msgs = s.dev.msgs) ∧
         (v.getLsbD 0 = false →
           t.d2h m = { d with cfg := v &&& 3, lost := d.lost + .ofNat 16 (s.dev.msgs.filter fun g => g.mailbox == m).length } ∧
           t.dev.msgs = s.dev.msgs.filter fun g => g.mailbox != m)) ∧
       (toHost = false → t.dev.d2h = s.dev.d2h ∧ t.h2d m = if v.getLsbD 0 ∧ b.cfg.getLsbD 0 = false
         then { b with cfg := v &&& 0x7FFF, db := b.next, stale := false } else { b with cfg := v &&& 0x7FFF }) ∧
       (v.getLsbD 0 = false ∨ m = 0 ∨ s.boot.srvlock = true → t.boot = s.boot) ∧
       (v.getLsbD 0 = true → m ≠ 0 → s.boot.srvlock = false → t.boot.srvlock = true ∧
         ∀ die, die < 8 → (t.boot.srvmask.toList.getD (2 * die) 0, t.boot.srvmask.toList.getD (2 * die + 1) 0) =
           let w := (s.boot.srvmask.toList.getD (2 * die) 0, s.boot.srvmask.toList.getD (2 * die + 1) 0)
           if w.1 = 0 ∧ w.2 = 0 then (1, 0) else w)) ∧
     ∀ n lo hi, s.now = some (.versionWrite n lo hi) →
       let otherOpen := (∃ e ∈ s.dev.h2d, e.1 ≠ 0 ∧ e.2.cfg.getLsbD 0 = true) ∨ ∃ e ∈ s.dev.d2h, e.1 ≠ 0 ∧ e.2.cfg.getLsbD 0 = true
       (n = 0 → otherOpen → exec .versionWrite s = .next s) ∧
       (n ≠ 0 ∨ ¬otherOpen → ∃ t, exec .versionWrite s = .next t ∧ MemorySame s t ∧ (∀ c, t.ctx c = s.ctx c) ∧
         t.dev = { s.dev with ver := tableSet s.dev.ver n.toNat (lo, hi) } ∧
         t.agreed n.toNat = if 1 < lo.toNat ∨ hi.toNat < 1 then 0 else 1)) ∧
  ((∀ (s : State) (m : BitVec 6) (n : BitVec 32) (e : BitVec 512) (r : List (BitVec 32 × BitVec 512)),
     let b := s.h2d m
     let at_ := fun off len : Nat => e.toNat / 2 ^ (8 * off) % 2 ^ (8 * len)
     b.cfg.getLsbD 0 = true → b.waiting = false → b.svc = false → b.entries = (n, e) :: r →
     let refused := fun (i : Instr) (reason : Nat) => exec i s = .next (s.consume m 3 reason 0)
     let common := fun (i : Instr) (type : Nat) => (at_ 5 1 ≠ s.agreed 0 → refused i 6) ∧
       (at_ 5 1 = s.agreed 0 → (at_ 4 1 ≠ type ∨ at_ 6 2 ≠ 0) → refused i 4)
     let passes := fun type : Nat => at_ 5 1 = s.agreed 0 ∧ at_ 4 1 = type ∧ at_ 6 2 = 0
     let dw := fun off => BitVec.ofNat 64 (at_ off 8)
     (s.now = some (.launchEntry m) → at_ 4 1 ≠ 2 → at_ 4 1 ≠ 3 → common .launchEntry 1 ∧ (passes 1 →
       let zeros := m = 0 ∨ at_ 32 8 / 2 ^ 14 % 4 ≠ 0 ∨ 2 ^ 12 ≤ at_ 48 8 ∨
         (at_ 32 8 / 2 ^ 10 % 2 = 1 ∧ 127 < at_ 32 8 % 2 ^ 10) ∨ at_ 56 8 ≠ 0
       (zeros → refused .launchEntry 4) ∧
       (¬zeros → exec .launchEntry s = .next ((s.setH2d m { b with waiting := true }).post (.launchRoute (.mailbox m)
         { target := .ofNat 11 (at_ 32 8), pc := dw 8, arg0 := dw 16, arg1 := dw 24, asn := .ofNat 16 (at_ 32 8 / 2 ^ 16)
           tag := .ofNat 32 (at_ 32 8 / 2 ^ 32), prio := .ofNat 2 (at_ 32 8 / 2 ^ 11), fence := (dw 32).getLsbD 13
           token := dw 40, comp := dw 48 }))))) ∧
     (s.now = some (.serviceEntry m) → at_ 4 1 = 2 → common .serviceEntry 2 ∧ (passes 2 → m ≠ 0 → ∃ t, exec .serviceEntry s = .next t ∧
       MemorySame s t ∧ (∀ k, t.core k = s.core k) ∧ t.h2d m = { b with svc := true } ∧ (∀ k, k ≠ m → t.h2d k = s.h2d k) ∧
       let target : CtxId := .ofNat 13 (b.cfg.toNat / 4 % 2 ^ 10 * 8 + b.cfg.toNat / 2 ^ 12 % 8)
       (∀ c, c ≠ target ∨ b.cfg.getLsbD 1 = false → t.ctx c = s.ctx c) ∧
       (b.cfg.getLsbD 1 = true → t.ctx target = { s.ctx target with
         mbSrc := .ofNat 64 m.toNat, cw := { (s.ctx target).cw with ipend := (s.ctx target).cw.ipend ||| 2 } }))) ∧
     (s.now = some (.wakeEntry m) → at_ 4 1 = 3 → common .wakeEntry 3 ∧ (passes 3 →
       let zeros := m = 0 ∨ 2 ^ 13 ≤ at_ 8 2 ∨ at_ 12 52 ≠ 0
       (zeros → refused .wakeEntry 4) ∧
       (¬zeros → ∀ u as, s.asLookup (.ofNat 16 (at_ 10 2)) = .ok (u, as) →
         let c : CtxId := .ofNat 13 (at_ 8 2)
         let allowed := (∃ a, as = some a ∧ a.lmask.getLsbD m.toNat = true) ∧ (s.ctx c).st ≠ .idle ∧
           (s.ctx c).cw.asn.toNat = at_ 10 2
         (¬allowed → exec .wakeEntry s = .next (u.consume m 3 3 0)) ∧
         (allowed → exec .wakeEntry s = .next ((u.setCtx c { u.ctx c with latch := true }).consume m 4 0 0)))))) ∧
   (∀ (s : State) (m : BitVec 6) (v : Dword), s.now = some (.mbsvc m v) →
     let b := s.h2d m
     (∀ n e r, b.entries = (n, e) :: r → b.cfg.getLsbD 0 = true → b.svc = true →
       (v.toNat = n.toNat → exec .mbsvc s = .next (s.consume m 4 0 0)) ∧ (v.toNat ≠ n.toNat → exec .mbsvc s = .next s)) ∧
     (b.cfg.getLsbD 0 = false ∨ b.svc = false → exec .mbsvc s = .next s)) ∧
   ∀ (s : State) (m : BitVec 6) (n : BitVec 32) (e : BitVec 512) (state reason core : Nat),
     let b := s.h2d m
     b.entries = [(n, e)] → b.next = b.db →
     let c := { b with entries := [], consumed := b.consumed + 1, waiting := false, svc := false }
     s.consume m state reason core = (s.setH2d m c).physWrite true (b.ack.toNat + 16 * (n.toNat % 256))
       (toBytes 4 n.toNat ++ [.ofNat 8 state, .ofNat 8 reason] ++ toBytes 2 c.free ++ toBytes 2 core ++ List.replicate 6 0))

/-! ## Tiles -/

/-- R231, R283 to R287, R299, R385: an idle engine takes the oldest eligible step, whose operands have been written, of the core whose turn
the weighted round robin makes it, and ahead of that, uncharged, one that an interrupt waits for, where the
Gauge's ceiling allows, and otherwise the grant is put off; the end of a step frees the engine and those that
waited for it, and a command retires from the queue when its steps and those of its thread's older ones are done. Two TMMAPs of a sibling pair with one tag and one address space run as a pair, whatever others wait, and fetch a B they agree on
once, by the even core's L1; one unpaired for 256 cycles runs alone. A
window's end moves the ceiling by at most 1/600 of capacity up and 1/300 down, never below 1/16, nor above the upper limit, which falls as
slowly; the windows that have passed have each moved it; the arbiters choose in each cycle that passes (R281). When a round begins, and how
the Gauge's two limits combine, is the model's reading (log 24); that a timeout and a window's end
move the cycle count is its choice (log 17). -/
def Obligations.TileArbiter : Prop :=
  ∀ (s : State) (k : SkeinId) (e : BitVec 2),
    let s0 := s.gaugeNow k
    let x := s0.skein k
    let g := tableGet x.eng e.toNat Engine.reset
    let coreAt := fun n : Nat => (BitVec.ofNat 10 (k.toNat * 8 + n % 8) : CoreId)
    let ready := fun st : TileStep => st.engine = e.toNat ∧ st.needs = []
    let offers := fun t : TileCmd => t.pair = none ∧ ∃ st ∈ t.waiting, ready st
    let off := fun n : Nat => ∃ t ∈ (s.core (coreAt n)).tq, offers t
    let hurries := fun t : TileCmd => offers t ∧ t.ahead = true
    let hurry := fun n : Nat => ∃ t ∈ (s.core (coreAt n)).tq, hurries t
    let weight := fun n : Nat => max 1 ((g.weights.getD x.sktw).toNat / 2 ^ (4 * (n % 8)) % 16)
    let stays := off g.core ∧ g.used < weight g.core
    let limit := x.gauge.ceiling
    let serves := fun (n : Nat) (first : TileCmd → Prop) (turn used : Nat) =>
      ∀ (l r : List TileCmd) (c : TileCmd) (sl sr : List TileStep) (st : TileStep),
        (s.core (coreAt n)).tq = l ++ c :: r → (∀ t ∈ l, ¬first t) → first c →
        c.waiting = sl ++ st :: sr → (∀ i ∈ sl, ¬ready i) → ready st →
        ∃ t, exec .tileGrant s = .next t ∧ MemorySame s t ∧ (∀ d, t.ctx d = s.ctx d) ∧
          (∀ d, d ≠ coreAt n → t.core d = s.core d) ∧ (∀ j, j ≠ k → t.skein j = s.skein j) ∧
          t.core (coreAt n) = { s.core (coreAt n) with tq := (t.core (coreAt n)).tq, ctr := (t.core (coreAt n)).ctr } ∧
          (limit ≤ x.gauge.debt → t.skein k = x ∧ (t.core (coreAt n)).tq = (s.core (coreAt n)).tq) ∧
          (x.gauge.debt < limit →
            (t.core (coreAt n)).tq = l ++ { c with waiting := sl ++ sr, running := c.running ++ [st], begun := true } :: r ∧
            ∃ w, t.skein k = { x with
              eng := tableSet x.eng e.toNat
                { run := some (.ofNat 3 n, st.id, c.fmt), last := some c.fmt, core := turn, used := used, weights := some w }
              gauge := { x.gauge with debt := x.gauge.debt + c.cycles * 75 / 8, busy := x.gauge.busy + c.cycles * 75 / 8 } })
    (s.now = some (.tileGrant k e) → g.run = none →
      ((∀ n, n < 8 → ¬off n) →
        exec .tileGrant s = .next (s0.setSkein k { x with eng := tableSet x.eng e.toNat { g with core := 0, used := 0, weights := none } })) ∧
      (∀ n, n < 8 → (∀ i, i < 8 → ¬hurry i) →
        ((stays ∧ n = g.core % 8) ∨ (¬stays ∧ off n ∧ ∃ j, 1 ≤ j ∧ j ≤ 8 ∧ (g.core + j) % 8 = n ∧
          ∀ i, 1 ≤ i → i < j → ¬off (g.core + i))) → serves n offers n (if stays then g.used + 1 else 1)) ∧
      ∀ n, n < 8 → hurry n → (∀ i, i < n → ¬hurry i) → serves n hurries g.core g.used) ∧
    (∀ (n : BitVec 3) (id : Nat) (f : BitVec 16), s.now = some (.tileStepComplete k e) → g.run = some (n, id, f) →
      let less := fun st : TileStep => { st with needs := st.needs.filter fun i => i != id }
      ∃ t, exec .tileStepComplete s = .next t ∧ MemorySame s t ∧ (∀ d, t.ctx d = s.ctx d) ∧
        t.skein k = { s.skein k with eng := tableSet x.eng e.toNat { g with run := none } } ∧
        (∀ d, d ≠ coreAt n.toNat → t.core d = s.core d) ∧
        let now := (s.core (coreAt n.toNat)).tq.map fun t =>
          { t with waiting := t.waiting.map less, running := (t.running.filter fun st => st.id != id).map less }
        (t.core (coreAt n.toNat)).tq = (List.range now.length).filterMap fun j => now[j]?.bind fun t =>
          if (now.take (j + 1)).any fun c => c.ctx == t.ctx && !(c.waiting.isEmpty && c.running.isEmpty) then some t else none) ∧
    (∀ (n : BitVec 2) (w w' : PairWait), s.now = some (.tmmapPair k n) →
      let a := coreAt (2 * n.toNat)
      let b := coreAt (2 * n.toNat + 1)
      let matches_ := fun (v : PairWait) (t : TileCmd) => ∃ u, t.pair = some u ∧ u.tag = v.tag ∧ u.asn = v.asn
      ∀ (l r l' r' : List TileCmd) (c c' : TileCmd), (s.core a).tq = l ++ c :: r → (s.core b).tq = l' ++ c' :: r' →
      (∀ t ∈ l, ∀ v, t.pair = some v → ∀ u ∈ (s.core b).tq, ¬matches_ v u) → c.pair = some w → c'.pair = some w' →
      w.tag = w'.tag → w.asn = w'.asn → (∀ t ∈ l', ¬matches_ w t) →
      let u := if w'.b = w.b then s.touchLines a w.lines else (s.touchLines a w.lines).touchLines b w'.lines
      ∃ t, exec .tmmapPair s = .next t ∧ MemorySame u t ∧ (∀ d, t.ctx d = s.ctx d) ∧
        t.core a = { u.core a with tq := l ++ { c with pair := none } :: r } ∧
        t.core b = { u.core b with tq := l' ++ { c' with pair := none } :: r' }) ∧
    (∀ (d : CtxId) (w : PairWait) (l r : List TileCmd) (c : TileCmd), s.now = some (.tmmapPairTimeout d) →
      (s.core (coreOf d)).tq = l ++ c :: r → (∀ t ∈ l, ¬(t.ctx = ctxInCore d ∧ t.pair.isSome = true)) → c.ctx = ctxInCore d →
      c.pair = some w → let u := (s.toCycle (w.since + 256)).touchLines (coreOf d) w.lines
      ∃ t, exec .tmmapPairTimeout s = .next t ∧ MemorySame u t ∧ t.cyc = max s.cyc (w.since + 256) ∧ (∀ c, t.ctx c = u.ctx c) ∧
        t.core (coreOf d) = { u.core (coreOf d) with tq := l ++ { c with pair := none } :: r } ∧
        ∀ j, j ≠ coreOf d → t.core j = u.core j) ∧
    (s.now = some (.gaugeWindow k) → ∃ t, exec .gaugeWindow s = .next t ∧ MemorySame s t ∧
      (∀ d, t.ctx d = { s.ctx d with waitCount := (t.ctx d).waitCount, urgent := (t.ctx d).urgent }) ∧
      (∀ d, t.core d = { s.core d with rrUrgent := (t.core d).rrUrgent, rrSup := (t.core d).rrSup, rrUser := (t.core d).rrUser
                                       slots := (t.core d).slots, unchosen := (t.core d).unchosen
                                       nextChoice := (t.core d).nextChoice, ctr := (t.core d).ctr }) ∧ (∀ j, j ≠ k → t.skein j = { s.skein j with gauge := (t.skein j).gauge }) ∧
      let n := (t.skein k).gauge
      t.skein k = { x with gauge := n } ∧ n.busy = 0 ∧ n.debt = x.gauge.debt - limit ∧ n.since = x.gauge.since + 64 ∧
      n.since ≤ t.cyc ∧ n.limit = max (s.power.gaugeLimit * 150) (x.gauge.limit - 8) ∧
      150 ≤ n.ceiling ∧ n.ceiling ≤ max 150 n.limit ∧ n.ceiling ≤ max 150 (limit + 4) ∧
      (limit ≤ 2400 → limit ≤ x.gauge.limit → limit ≤ n.ceiling + 8 ∧ n.ceiling ≤ 2400) ∧
      (limit ≤ x.gauge.busy → limit + 4 ≤ 2400 → limit + 4 ≤ n.limit → 146 ≤ limit → n.ceiling = limit + 4) ∧
      (x.gauge.busy + 8 ≤ limit → x.gauge.debt + 8 ≤ limit → 158 ≤ limit → limit ≤ x.gauge.limit → n.ceiling + 8 = limit)) ∧
    (let was := (s.skein k).gauge
     x = { s.skein k with gauge := x.gauge } ∧ (∀ j, j ≠ k → s0.skein j = s.skein j) ∧
     (s.cyc < was.since + 64 → x.gauge = was) ∧
     (was.since ≤ s.cyc → x.gauge.since ≤ s.cyc ∧ s.cyc < x.gauge.since + 64) ∧
     (was.since + 64 ≤ s.cyc → s.cyc < was.since + 64 * 400 →
       ((s.setSkein k { s.skein k with gauge := was.window (s.power.gaugeLimit * 150) }).gaugeNow k).skein k = x))

/-! ## Caches, fabric, package -/

/-- R207, R240, R241, R264, R272, R273, R276, R368: a fill brings a line of a CPFL into the skein cache or the memory-side cache, or passes it
over, or waits for its HBM to be ready, and changes no byte a program reads;
an S line's dirty bytes, and no others, are written back, when it leaves the L1 or before, and those of a whole-line write clear its
poison (R187); a modified line that leaves an L1 goes to the skein cache; a pinned line is never chosen, and a
coherence request for it waits once the cache holds permission, one of another package at whichever skein's cache it is; until then the
request is answered as though the way did not hold it: what the skein holds modified is written back, its L1 copies are given up or shared;
another package that asks is noted as a holder, which is the model's reading (log 53, DEDUCED). Where a pin holds the line, a write-back waits for its unit first. -/
def Obligations.CachesKeepValues : Prop :=
  (∀ (s : State) (k : SkeinId) (n : Nat) (c : CopyCmd) (rest : List CqEntry), s.now = some (.cpflFill k) →
    s.nextQueue k = some n → c.level ≠ none →
    let core := (queueAt k n).1
    let queue := fun t : State => (t.core core).cq.toList.getD (queueAt k n).2.toNat []
    queue s = .cmd c :: rest → c.row < c.rows → c.rowLen ≠ 0 → c.pin = none →
    let s0 := s.setSkein k { s.skein k with copyRr := n }
    let s1 := if c.started then s0 else s0.writeBackS core fun _ => true
    let len := min (c.rowLen - c.col) (128 - c.srcAt.toNat % 128)
    let d := { c with started := true, unit := none, buf := [], bufPoison := false, pin := none }
    let next := if c.rowLen ≤ c.col + len then { d with row := c.row + 1, col := 0 } else { d with col := c.col + len }
    (∀ e, s1.mapRange (c.who core) .load c.srcAt 1 = .error e → e ≠ .wait → (∀ d u a, e ≠ .machine d u a) →
      ∃ t, exec .cpflFill s = .next t ∧ MemorySame s1 t ∧ (∀ x, t.ctx x = s1.ctx x) ∧ queue t = .cmd next :: rest) ∧
    (s1.mapRange (c.who core) .load c.srcAt 1 = .error .wait → ∃ t, exec .cpflFill s = .next t ∧ MemorySame s1 t ∧
      (∀ x, t.ctx x = s1.ctx x) ∧ queue t = .cmd { c with started := true, wait := .other } :: rest) ∧
    ∀ s2 b r, s1.mapRange (c.who core) .load c.srcAt 1 = .ok (s2, b :: r) →
      ∃ t, exec .cpflFill s = .next t ∧ (MemorySame s2 t ∨ MemorySame (s2.settlePin (b.loc / 128)) t) ∧ (∀ x, t.ctx x = s2.ctx x) ∧
        queue t = .cmd next :: rest ∧ (s2.pinHeld (b.loc / 128) = false → MemorySame s2 t) ∧
        (b.isDev = false → b.t ≠ .U →
          (c.level = some 0 → ∃ l ∈ (t.skein k).sc, l.line = b.loc / 128) ∧
          (c.level ≠ some 0 → b.loc < 2 ^ 56 → ∃ l ∈ t.msc, l.line = b.loc / 128))) ∧
  (∀ (s : State) (core : CoreId) (l : LineNo) (n : Nat) (e : L1Line), Memory.wf s.mem = true → s.lineOf l = some n →
    e ∈ (s.core core).l1 → e.line = n → (∀ f ∈ (s.core core).l1, f.line = n → f = e) → NoPins s →
    let written := fun t : State =>
      (∀ i, i < 128 → readCell t.mem (n * 128 + i) = if e.s = true ∧ e.dirty.getLsbD i = true then elem 8 e.bytes i
        else readCell s.mem (n * 128 + i)) ∧
      (∀ a, a / 128 ≠ n → readCell t.mem a = readCell s.mem a) ∧
      (∀ m, m ∈ t.poison ↔ m ∈ s.poison ∧ ¬(m = n ∧ e.s = true ∧ e.dirty ≠ 0 ∧ e.whole = true)) ∧ (∀ c, t.ctx c = s.ctx c) ∧
      ∀ k, k ≠ core → t.core k = { s.core k with l1 := (t.core k).l1 } ∧
        (t.core k).l1.filter (·.s) = (s.core k).l1.filter (·.s) ∧
        (e.s = true → e.dirty ≠ 0 → ∀ f ∈ (t.core k).l1, f.line = n → f.s = true)
    (s.now = some (.sDirtyWriteback core l) → ∃ t, exec .sDirtyWriteback s = .next t ∧ written t ∧
      (t.core core).l1 = (s.core core).l1.map fun f =>
        if f.s = true ∧ f.line = n then { f with dirty := 0, whole := false } else f) ∧
    (s.now = some (.cacheEviction 0 core l) → ∃ t, exec .cacheEviction s = .next t ∧ written t ∧
      (∀ f, f ∈ (t.core core).l1 → f.line ≠ n) ∧ (∀ f, f ∈ (s.core core).l1 → f.line ≠ n → f ∈ (t.core core).l1) ∧
      (e.s = false → e.state = .modified → ∃ g ∈ (t.skein (skeinOfCore core)).sc, g.line = n ∧ g.state = .modified))) ∧
  ∀ (s : State) (k : SkeinId) (l : LineNo) (n : Nat), s.lineOf l = some n →
    (s.now = some (.cacheEviction 1 (k.setWidth 10) l) → ∃ t, exec .cacheEviction s = .next t ∧ MemorySame s t ∧
      (∀ c, t.ctx c = s.ctx c) ∧ (∀ c, t.core c = s.core c) ∧
      ∀ f, f ∈ (t.skein k).sc ↔ f ∈ (s.skein k).sc ∧ (f.line ≠ n ∨ f.pins ≠ 0)) ∧
    (s.now = some (.cacheEviction 2 0 l) → ∃ t, exec .cacheEviction s = .next t ∧ MemorySame s t ∧
      t = { s with msc := t.msc } ∧ ∀ f, f ∈ t.msc ↔ f ∈ s.msc ∧ (f.line ≠ n ∨ f.pins ≠ 0)) ∧
    ∀ excl outside, s.now = some (.coherenceRequest k l excl outside) →
      let held := fun j : SkeinId =>
        exec .coherenceRequest s = .next (s.setSkein j { s.skein j with held := (s.skein j).held ++ [(n, excl, outside)] })
      let own := ∃ f ∈ (s.skein k).sc, f.line = n ∧ f.pins ≠ 0 ∧ f.permission = true
      let mod := (∃ f ∈ (s.skein k).sc, f.line = n ∧ f.state = .modified) ∨
        ∃ c, skeinOfCore c = k ∧ ∃ f ∈ (s.core c).l1, f.line = n ∧ f.s = false ∧ f.state = .modified
      (own → held k) ∧ (¬own → outside = true → ∀ j, s.pinHolder n = some j → held j) ∧
      (¬own → (outside = true → s.pinHolder n = none) → ∃ t, exec .coherenceRequest s = .next t ∧ MemorySame s t ∧
        (outside = true → ∃ a ∈ t.away, a.line = n ∧ a.excl = excl) ∧
        (outside = true ∨ mod → n * 128 < 2 ^ 56 → ∃ m ∈ t.msc, m.line = n) ∧
        (excl = true → (∀ f ∈ (t.skein k).sc, f.line = n → f.pins ≠ 0 ∧ f.permission = false) ∧
          ∀ c, skeinOfCore c = k → ∀ f ∈ (t.core c).l1, f.s = true ∨ f.line ≠ n) ∧
        (excl = false → (∀ f ∈ (t.skein k).sc, f.line = n → f.state = .shared) ∧
          ∀ c, skeinOfCore c = k → ∀ f ∈ (t.core c).l1, f.line = n → f.s = true ∨ f.state = .shared))

/-- R187, R244, R261, R262, R276, R317, R318, R328, R329, R368: a host's write puts its bytes in HBM or in host memory and its read is
answered, on the link of the line, with those there and their poison, inside one line and where the host reaches, once a pinned unit of the
line is written; its atomic reads and writes in one step; a store-conditional of a hart writes while the reservation of its load-reserved stands, which any
write of the line ends; no core keeps a copy of what it wrote; bytes that another package's thread writes by local address are there at once
(R253); HBM over CXL.mem only once decoder 0 is
committed. From Safelight on it reads a device register, and zero above them. The decoder is committed while READY.done is 1 and the link
runs CXL, at a multiple of 1 GiB, and else answers with the commit-error indication. A link that trains or goes down changes nothing else.
That the decoder is committed once is the model's reading (log 34). -/
def Obligations.HostAccesses : Prop :=
  ∀ s : State,
    (∀ a w, s.now = some (.hostMemRequest a w) →
      let r := s.region a.toNat
      let n := a.toNat / 2 ^ 12 % 2
      let link : BitVec 1 := if s.dev.links.toList.getD n .down = .down then .ofNat 1 (1 - n) else .ofNat 1 n
      let reaches := match r with
        | .dev _ => False
        | .peer _ => False
        | .host _ => True
        | .hbm off => s.dev.committed = true ∧ s.cxlUp = true ∧ s.boot.ready.getLsbD (9 + homeDie off) = true
      let fits := fun n : Nat => a.toNat % 128 + n ≤ 128
      let s1 := s.settlePin (r.loc / 128)
      let said := fun (t : State) (n : Nat) => t.out = s.out ++
        [.hostRead link a ((List.range n).map fun i => readCell s1.mem (r.loc + i)) (s1.poisoned r.loc)]
      let puts := fun (t : State) (d : List Byte) => (∀ j (h : j < d.length), readCell t.mem (r.loc + j) = d[j]) ∧
        (NoPins s → t.poison = s.poison ∧ ∀ b, b < r.loc ∨ r.loc + d.length ≤ b → readCell t.mem b = readCell s.mem b) ∧
        (∀ c, t.ctx c = s.ctx c) ∧ t.dev = s.dev ∧ (∀ k, ∀ f ∈ (t.core k).l1, f.s = true ∨ f.line ≠ r.loc / 128) ∧
        t.reserved (r.loc / 128) = []
      let size := fun dw : Bool => if dw then 8 else 4
      ((∀ off, r ≠ .dev off) → (¬reaches ∨ ¬fits (accessSize w).1) → exec .hostMemRequest s = .next s) ∧
      (∀ n, w = .read n → reaches → fits n → ∃ t, exec .hostMemRequest s = .next t ∧ MemorySame s1 t ∧ said t n ∧
        (∀ c, t.ctx c = s.ctx c) ∧ t.dev = s.dev ∧
        ∀ k, ∀ f ∈ (t.core k).l1, f.line = r.loc / 128 → f.s = true ∨ f.state = .shared) ∧
      (∀ d, w = .write d → reaches → fits d.length → d ≠ [] →
        (s1.poisoned r.loc = false → Memory.wf s.mem = true →
          ∃ t, exec .hostMemRequest s = .next t ∧ puts t d ∧ t.out = s.out) ∧
        (s1.poisoned r.loc = true → ¬(r.loc % 128 = 0 ∧ d.length = 128) →
          ∃ t, exec .hostMemRequest s = .next t ∧ t = { s1 with away := t.away })) ∧
      (∀ f dw v, w = .amo f dw v → reaches → a.toNat % size dw = 0 →
        s1.poisoned r.loc = false → Memory.wf s.mem = true → ∃ t, exec .hostMemRequest s = .next t ∧ said t (size dw) ∧
          puts t (toBytes (size dw) (amoFn (8 * size dw) f.toNat
            (ofBytes ((List.range (size dw)).map fun i => readCell s1.mem (r.loc + i))) (v.toNat % 2 ^ (8 * size dw))))) ∧
      (∀ hart dw, w = .lr hart dw → reaches → a.toNat % size dw = 0 → ∃ t, exec .hostMemRequest s = .next t ∧ MemorySame s1 t ∧
        said t (size dw) ∧ (∀ c, t.ctx c = s.ctx c) ∧ (∃ e ∈ t.away, e.line = r.loc / 128 ∧ e.excl = true) ∧
        ∀ n, hart ∈ t.reserved n ↔ n = r.loc / 128) ∧
      (∀ hart dw v, w = .sc hart dw v → reaches → a.toNat % size dw = 0 →
        (hart ∉ s.reserved (r.loc / 128) → exec .hostMemRequest s = .next
          { s with away := s.away.map fun e => { e with reserved := e.reserved.filter fun h => h != hart } }) ∧
        (hart ∈ s.reserved (r.loc / 128) → s1.poisoned r.loc = false → Memory.wf s.mem = true →
          ∃ t, exec .hostMemRequest s = .next t ∧ puts t (toBytes (size dw) v.toNat) ∧ t.out = s.out)) ∧
      ∀ off, r = .dev off →
        let io : BitVec 1 := if s.dev.links[0] = .down then 1 else 0
        let open_ := s.boot.ready.getLsbD 0 = true
        (¬open_ → exec .hostMemRequest s = .next s) ∧
        (open_ → w = .read 8 → off % 8 = 0 → off < 0x1000000 → inFiles off = false → exec .hostMemRequest s = .next
          { s with out := s.out ++ [.hostRead io a (bytesOf 8 (s.devRead off)) false] }) ∧
        (∀ n, open_ → w = .read n → 0x1000000 ≤ off → exec .hostMemRequest s = .next
          { s with out := s.out ++ [.hostRead io a (List.replicate n 0) false] }) ∧
        (∀ d, open_ → w = .write d → d.length = 8 → off % 8 = 0 → inFiles off = false → exec .hostMemRequest s = .next
          (s.postFirst (.registerWrite .host (.ofNat 28 off) (.ofNat 64 (ofBytes d)))))) ∧
    (∀ (a : PAddr) (d : List Byte) (rest : List Input), s.agenda = .peerWrite a d :: rest →
      let s0 : State := { s with agenda := rest }
      let r := s.region a.toNat
      let reaches := s.peerReaches r = true ∧ s.power.drain ≠ .halted ∧ s.power.drain.writes = false
      let s1 := s0.settlePin (r.loc / 128)
      (¬(reaches ∧ d ≠ [] ∧ a.toNat % 128 + d.length ≤ 128) → step s = .next s0) ∧
      (reaches → d ≠ [] → a.toNat % 128 + d.length ≤ 128 → s1.poisoned r.loc = false → Memory.wf s.mem = true → ∃ t, step s = .next t ∧
        (∀ j (h : j < d.length), readCell t.mem (r.loc + j) = d[j]) ∧
        (NoPins s → ∀ b, b < r.loc ∨ r.loc + d.length ≤ b → readCell t.mem b = readCell s.mem b) ∧ (∀ c, t.ctx c = s.ctx c) ∧
        (∀ k, ∀ f ∈ (t.core k).l1, f.s = true ∨ f.line ≠ r.loc / 128) ∧ ∃ e ∈ t.away, e.line = r.loc / 128 ∧ e.excl = true)) ∧
    (∀ n mode, s.now = some (.hostLinkTrained n mode) →
      exec .hostLinkTrained s = .next { s with dev := { s.dev with links := s.dev.links.set n.toNat mode } }) ∧
    (∀ n, s.now = some (.hostLinkDown n) →
      exec .hostLinkDown s = .next { s with dev := { s.dev with links := s.dev.links.set n.toNat .down } }) ∧
    ∀ base, s.now = some (.hdmCommit base) →
      let may := s.boot.ready.getLsbD 63 = true ∧ s.cxlUp = true ∧ base.toNat % 2 ^ 30 = 0 ∧
        base.toNat + 768 * 2 ^ 30 ≤ 2 ^ 56
      (s.dev.committed = true → exec .hdmCommit s = .next s) ∧
      (s.dev.committed = false → may → exec .hdmCommit s =
        .next { s with dev := { s.dev with hbmBase := base.toNat, committed := true, hdmError := false } }) ∧
      (s.dev.committed = false → ¬may → exec .hdmCommit s = .next { s with dev := { s.dev with hdmError := true } })

/-- R61, R62, R308, R313 to R316, R299, R389: a send raises the inter-core interrupt of the context named, with the core of the written block
as its source, and is lost where no thread is held; a gang stop takes effect at its time: user bundles that wait are squashed, a user
thread's multiply that has begun goes ahead, and once those that are let finish have retired, every core keeps its snapshots and every thread has bit 3 pending; a release clears stopped and arm, and launches and copies go on. That the
stop moves package time to GSTIME where it is behind is the model's choice (log 17). -/
def Obligations.SendsAndGangStop : Prop :=
  (∀ (s : State) (core : CoreId) (v : Dword), s.now = some (.icsend core v) →
    ∃ t, exec .icsend s = .next t ∧ MemorySame s t ∧ (∀ c, t.ctx c = s.ctx c) ∧ (∀ k, k ≠ core → t.core k = s.core k) ∧
      t.core core = { s.core core with
        icq := (s.core core).icq ++ [.ofNat 13 (v.toNat % 2 ^ 10 * 8 + v.toNat / 2 ^ 10 % 8)] } ∧
      t.agenda = s.agenda ++ [.own (.icsendDeliver core)]) ∧
  (∀ (s : State) (core : CoreId) (c : CtxId) (r : List CtxId), s.now = some (.icsendDeliver core) → (s.core core).icq = c :: r →
    ∃ t, exec .icsendDeliver s = .next t ∧ MemorySame s t ∧ t.core core = { s.core core with icq := r } ∧
      (∀ k, k ≠ core → t.core k = s.core k) ∧ (∀ d, d ≠ c → t.ctx d = s.ctx d) ∧
      t.ctx c = if (s.ctx c).st = .idle then s.ctx c else { s.ctx c with
        icSrc := .ofNat 64 core.toNat, cw := { (s.ctx c).cw with ipend := (s.ctx c).cw.ipend ||| 4 } }) ∧
  (∀ s : State, s.now = some .gangStopTrigger →
    let due := s.dev.gsctl.getLsbD 0 = true ∧ s.dev.gsctl.getLsbD 1 = false
    let settles := ∃ c, (s.ctx c).mode = 0 ∧ s.settling c = true
    let kept := fun t : State => ∀ k, (t.core k).gsret = (s.core k).retired ∧ (t.core k).gssent = (s.core k).sent ∧
      (t.core k).gsrecv = (s.core k).recvd
    let told := fun x : Ctx => if x.st = .idle then x else { x with cw := { x.cw with ipend := x.cw.ipend ||| 8 } }
    let stopped := fun c => let x := s.ctx c
      if x.st = .running ∧ x.mode = 0 ∧ x.phase = .first ∧ s.settling c = false
      then { x with phase := .fetch, xfer := .next, park := none, spawnTo := none, asked := false } else x
    (due → ∃ t, exec .gangStopTrigger s = .next t ∧ MemorySame s t ∧
      t.dev = { s.dev with gsctl := s.dev.gsctl ||| 2, gsSnap := t.dev.gsSnap
                           time := if s.dev.time.toNat < s.dev.gstime.toNat then s.dev.gstime else s.dev.time } ∧
      (∀ k, (t.core k).retired = (s.core k).retired ∧ (t.core k).lq = (s.core k).lq ∧ (t.core k).cq = (s.core k).cq) ∧
      (∀ c l m r, (s.ctx c).mode = 0 → (s.ctx c).st = .running ∨ (s.ctx c).st = .parked → (s.core (coreOf c)).tq = l ++ m :: r →
        (∀ x ∈ l, x.ctx ≠ ctxInCore c) → m.ctx = ctxInCore c → (t.core (coreOf c)).tq[l.length]? = some { m with ahead := m.begun }) ∧
      (settles → t.dev.gsSnap = true ∧ (∀ k, (t.core k).gsret = (s.core k).gsret) ∧ ∀ c, t.ctx c = stopped c) ∧
      (¬settles → t.dev.gsSnap = false ∧ kept t ∧ ∀ c, t.ctx c = told (stopped c))) ∧
    (¬due → s.dev.gsSnap = true → ¬settles → ∃ t, exec .gangStopTrigger s = .next t ∧ MemorySame s t ∧
      t.dev = { s.dev with gsSnap := false } ∧ kept t ∧ ∀ c, t.ctx c = told (s.ctx c)) ∧
    (¬due → s.dev.gsSnap = false ∨ settles → exec .gangStopTrigger s = .next s)) ∧
  ∀ s : State, s.now = some .gangRelease →
    ∃ t, exec .gangRelease s = .next t ∧ MemorySame s t ∧ t.dev = { s.dev with gsctl := s.dev.gsctl &&& ~~~3, gsSnap := false } ∧
      (s.dev.gsSnap = false → ∀ c, t.ctx c = s.ctx c) ∧ (∀ k, (t.core k).lq = (s.core k).lq) ∧
      ∀ k ∈ s.listedCores, .own (.launchClaim k) ∈ t.agenda

/-- R189, R197, R255, R299, R305, R344, R345, R351, R357, R389: an answer ends the wait of its access, or leaves it to its ticket; one for an
access known to be lost, or abandoned in a drain, is nothing; data of a squashed load is discarded; a posted store is acknowledged, or its failure kept, in the order of the stores, for its report. A notice settles the
access that its ticket holds: a replay by a route newly chosen, REFUSED where there is none, or a skip with the failure, or a cancel. An
answer counts as received where its request went out. After BUSY no new request goes to that package until the held one is answered and
the wait that follows is over. When BUSY ends is the model's reading (log 28). -/
def Obligations.AnswersAndNotices : Prop :=
  (∀ (s : State) (core : CoreId) (n : BitVec 5) (e : TkEntry),
    (n.toNat, e) ∈ (s.core core).tk → (∀ f ∈ (s.core core).tk, f.1 % 32 = n.toNat → f = (n.toNat, e)) →
    let own := ctxOf core e.ctx
    let held := fun t : State => t.accessOf core (.entry n)
    let failed := fun (t : State) (tick : BitVec 16) (poison : Bool) => t.ctx own = { s.ctx own with
      fails := (s.ctx own).fails.filter (fun g => decide (g.seq ≤ e.seq)) ++
        { addr := e.addr, ticket := tick, poison := poison, seq := e.seq, at_ := s.dev.time, due := false } ::
        (s.ctx own).fails.filter fun g => decide (e.seq < g.seq) }
    let late := (∃ g ∈ (s.flowOr core e.packet.dest).lost, g.owner = .entry n ∧ g.seq = e.seq) ∨
      (e.kind = .read ∧ own ∈ s.power.abandoned)
    (∀ a, s.now = some (.fabricResponse core (.entry n) a) → e.outstanding = false ∨ late → exec .fabricResponse s = .next s) ∧
    (∀ a, s.now = some (.fabricResponse core (.entry n) a) → e.outstanding = true → ¬late → (s.flowOr core e.packet.dest).notes = [] →
      ∃ t, exec .fabricResponse s = .next t ∧
        (t.core core).recvd = (s.core core).recvd + (if e.packet.dest = s.niu.pkgNum ∨ e.packet.route ≠ [] then 1 else 0) ∧
        (e.kind ≠ .detached → MemorySame s t) ∧ (∀ c, c ≠ own → e.kind ≠ .detached → t.ctx c = s.ctx c) ∧
        (∀ k st, ((a = .ticket k ∧ st = TkState.ticket) ∨ (a = .blocked k ∧ st = TkState.blocked)) → t.ctx own = s.ctx own ∧
          held t = some { e with
            state := st, ticket := k, replaying := false, told := e.told || e.squashed, squashed := false }) ∧
        ((∃ d, a = .ok d) ∨ a = .poison ∨ a = .refused →
          (e.kind = .read → t.ctx own = s.ctx own ∧
            held t = if e.squashed then none else some { e with state := .done, answer := some a, replaying := false }) ∧
          (e.kind ≠ .read → held t = none) ∧
          (e.kind = .posted → ((∃ d, a = .ok d) → t.ctx own = s.ctx own) ∧ ((∀ d, a ≠ .ok d) → failed t 0xFFFF (a == .poison))))) ∧
    (∀ ok, s.now = some (.ticketNotice core e.packet.dest e.ticket ok) → (e.state = .ticket ∨ e.state = .blocked) →
      (∀ a ∈ (s.core core).accesses, a.2.packet.dest = e.packet.dest → a = (.entry n, e)) → e.replaying = false →
      e.packet.srcCore = core → (s.flowOr core e.packet.dest).lost = [] →
      let home := e.packet.dest
      let settled := fun (t : State) (own : Event) (far : Output) => (t.core core).sent = (s.core core).sent + 1 ∧
        if home = s.niu.pkgNum then .own own ∈ t.agenda ∧ t.out = s.out else t.out = s.out ++ [far]
      let replayed := { e with state := if ok then .noticeOk else .noticeFail, replaying := true, noted := some ok }
      ∃ t, exec .ticketNotice s = .next t ∧ (t.core core).recvd = (s.core core).recvd + 1 ∧
        (e.kind = .read → t.ctx own = s.ctx own) ∧
        (e.kind ≠ .cancel → ok = true ∨ e.state = .blocked → t.ctx own = s.ctx own ∧
          (home = s.niu.pkgNum → settled t (.fabricReplay e.packet) (.replay e.packet) ∧ held t = some replayed) ∧
          (home ≠ s.niu.pkgNum →
            (∀ r, s.chooseRoute home e.packet.tt = some r →
              settled t (.fabricReplay e.packet) (.replay { e.packet with route := r }) ∧
              held t = some { replayed with packet := { e.packet with route := r } }) ∧
            (s.chooseRoute home e.packet.tt = none → .own (.fabricResponse core e.packet.owner .refused) ∈ t.agenda ∧
              t.out = s.out ∧ held t = some { replayed with packet := { e.packet with route := [] } }))) ∧
        (e.kind ≠ .cancel → ok = false → e.state = .ticket →
          settled t (.fabricSkip s.niu.pkgNum core) (.skip home core) ∧
          (e.kind = .read → held t = some { e with state := .noticeFail, noted := some ok }) ∧
          (e.kind = .posted → held t = none ∧ failed t e.ticket false)) ∧
        (e.kind = .cancel → e.fwd = none → settled t (.fabricCancel s.niu.pkgNum core) (.cancel home core) ∧ held t = none))) ∧
  ∀ (s : State) (core : CoreId) (dest : PkgId),
    let at_ := fun b : Busy => b.core = core ∧ b.dest = dest
    let count := match s.niu.busy.find? fun b => b.core == core && b.dest == dest with | some b => b.count | none => 0
    (s.now = some (.busyReceive core dest) → ∃ t, exec .busyReceive s = .next t ∧ MemorySame s t ∧ (∀ c, t.ctx c = s.ctx c) ∧
      (∀ tt, t.maySend core dest tt = false) ∧ (t.core core).recvd = (s.core core).recvd + 1 ∧
      ∀ b, b ∈ t.niu.busy ↔ b = { core := core, dest := dest, count := count + 1, held := true, backoff := false } ∨
        (b ∈ s.niu.busy ∧ ¬at_ b)) ∧
    (s.now = some (.busyBackoffExpiry core dest) → ∃ t, exec .busyBackoffExpiry s = .next t ∧ MemorySame s t ∧
      (∀ c, t.ctx c = s.ctx c) ∧ t.niu.busy = s.niu.busy.map fun b => if at_ b then { b with backoff := false } else b)

/-- R187, R188, R254, R255, R274, R275, R339, R341 to R343, R345, R350: at its home a request of a source that an entry names is BLOCKED;
any other is admitted: REFUSED outside every
valid window, where the window does not let it in, and where the walk, as user mode, finds a page that does not permit it; performed
where it finds one that does; answered TICKET where the page is absent: the live ticket of that page, or a new one, with a service record,
SVTAIL and SVTGT's interrupt; held where none can be had. An answer takes the request's route backwards. A poisoned line answers poison unless it
is written whole. The model's reading: a record holds the access's whole virtual address (log 32); a unit that pins the line writes it
before the access, and the line of a write is pinned and the write made in one step (log 53).
R305, R341 to R345: a replay counts as settled and, its ticket served, is admitted, else BLOCKED again; a skip or a cancel only counts;
an entry whose ticket is served and whose answers are all settled goes. TKDONE serves a live, unserved ticket once and tells every source
that names it. What must wait for a resource is held, with everything behind it, and tried again when one frees; after 16 µs its source is
told BUSY. -/
def Obligations.HomeServesTheFabric : Prop :=
  ((∀ (s : State) (q : Packet), s.now = some (.fabricRequest q) → s.niu.held = [] →
     let answered := fun (u : State) (a : FabAnswer) =>
       if q.srcPkg = u.niu.pkgNum then u.post (.fabricResponse q.srcCore q.owner a)
       else u.emit (.answer q.srcPkg q.srcCore q.owner a (u.niu.reverse q.route))
     let waits := exec .fabricRequest s = .next { s with niu := { s.niu with held := [{ msg := .request q, busySent := false }] } }
     let k : Kind := match q.kind with | .load => .load | .store => .store | _ => .rmw
     (∀ e, s.source q.srcPkg q.srcCore = some e →
       exec .fabricRequest s = .next (answered (s.setSource { e with c := e.c + 1 }) (.blocked e.t))) ∧
     (s.source q.srcPkg q.srcCore = none →
       (∀ s1, s.findWindow q.off.toNat 0 s.dev.winCnt = .ok (s1, none) → exec .fabricRequest s = .next (answered s1 .refused)) ∧
       ∀ s1 w, s.findWindow q.off.toNat 0 s.dev.winCnt = .ok (s1, some w) →
         let allows := (w.any = true ∨ (s1.dev.partId ≠ 0 ∧ q.partId = s1.dev.partId)) ∧ (q.kind ≠ .store → w.rd = true) ∧
           (q.kind ≠ .load → w.wr = true)
         let va := w.va + (q.off.toNat - w.base)
         (¬allows → exec .fabricRequest s = .next (answered s1 .refused)) ∧
         (allows → ∀ s2 r, s1.homeWalk w k va = .ok (s2, r) →
           (r = .refused → exec .fabricRequest s = .next (answered s2 .refused)) ∧
           (∀ pa t, r = .go pa t → s2.reach false (s2.region pa) = .ok () →
             (∀ s3 a, s2.performHome q (s2.region pa) t = .ok (s3, a) → exec .fabricRequest s = .next (answered s3 a)) ∧
             (s2.performHome q (s2.region pa) t = .error .wait → waits)) ∧
           ∀ dref, r = .absent dref →
             let live := s2.niu.tickets.find? fun k => !k.served && k.asn == w.asn && k.page == va / 4096
             let room := s2.niu.tickets.length < 4096 ∧ (s2.dev.svTail - s2.dev.svHead).toNat < 256
             (2048 ≤ s2.niu.sources.length ∨ (live = none ∧ ¬room) → waits) ∧
             (∀ k, live = some k → s2.niu.sources.length < 2048 → exec .fabricRequest s = .next
               (answered (s2.setSource { pkg := q.srcPkg, core := q.srcCore, t := k.num, c := 1, s := 0 }) (.ticket k.num))) ∧
             (live = none → room → s2.niu.sources.length < 2048 → ∃ (tick : BitVec 16) (i : Nat),
               tick.toNat = (s2.niu.lastTicket.toNat + i) % 0xFFFF ∧ 1 ≤ i ∧ (∀ k ∈ s2.niu.tickets, k.num ≠ tick) ∧
               (∀ j, 1 ≤ j → j < i → ∃ k ∈ s2.niu.tickets, k.num.toNat = (s2.niu.lastTicket.toNat + j) % 0xFFFF) ∧
               let code := if dref then 3 else match q.kind with | .load => 0 | .store => 1 | _ => 2
               let u0 := { s2 with niu := { s2.niu with
                 tickets := { num := tick, asn := w.asn, page := va / 4096, served := false } :: s2.niu.tickets, lastTicket := tick } }
               let u1 := u0.physWrite false (s2.dev.svBase.toNat / 2 ^ 13 % 2 ^ 43 * 2 ^ 13 + 32 * (s2.dev.svTail.toNat % 256))
                 (toBytes 2 tick.toNat ++ toBytes 1 code ++ toBytes 1 w.index ++ toBytes 2 w.asn.toNat ++ [0, 0] ++ toBytes 8 va ++
                   toBytes 2 q.srcPkg.toNat ++ toBytes 2 q.srcCore.toNat ++ List.replicate 12 0)
               let u2 := { u1 with dev := { u1.dev with svTail := s2.dev.svTail + 1 } }
               let at_ : CtxId := .ofNat 13 (s2.dev.svTgt.toNat % 2 ^ 10 * 8 + s2.dev.svTgt.toNat / 2 ^ 10 % 8)
               let u3 := if s2.dev.svTgt.getLsbD 13 then u2.setCtx at_ { u2.ctx at_ with
                 mbSrc := 64, cw := { (u2.ctx at_).cw with ipend := (u2.ctx at_).cw.ipend ||| 2 } } else u2
               exec .fabricRequest s = .next
                 (answered (u3.setSource { pkg := q.srcPkg, core := q.srcCore, t := tick, c := 1, s := 0 }) (.ticket tick)))))) ∧
   (∀ (s : State) (q : Packet) (off : Nat) (t : Treat), let r := Region.hbm off
     let n := q.len.toNat
     let whole := q.kind = .store ∧ q.len = 128 ∧ q.mask = BitVec.allOnes 128
     let s1 := s.settlePin (off / 128)
     let old := ofBytes (readCells s1.mem off n)
     let put := fun a : Nat => if off ≤ a ∧ a < off + n ∧ q.mask.getLsbD (a - off) = true then
       BitVec.ofNat 8 (q.data.toNat / 256 ^ (a - off)) else readCell s1.mem a
     let free := q.kind = .load ∨ t = .U ∨ s1.mscPinned (off / 128) < 2
     (q.poison = true → free → ∃ u, s.performHome q r t = .ok (u, .ok 0) ∧ u.poisoned off = true ∧
       (q.kind ≠ .load → t ≠ .U → off < 2 ^ 56 → ∃ e ∈ u.msc, e.line = off / 128) ∧ (∀ m ∈ u.poison, m ∈ s1.poison ∨ m = off / 128) ∧ (∀ a, readCell u.mem a = readCell s1.mem a) ∧ ∀ c, u.ctx c = s.ctx c) ∧
     (q.poison = false → s1.poisoned off = true → ¬whole → s.performHome q r t = .ok (s1, .poison)) ∧
     (q.poison = true ∨ s1.poisoned off = false ∨ whole → ¬free → s.performHome q r t = .error .wait) ∧
     (q.poison = false → s1.poisoned off = true → whole → free → Memory.wf s1.mem = true →
       ∃ u, s.performHome q r t = .ok (u, .ok 0) ∧ u.poisoned off = false ∧ ∀ a, readCell u.mem a = put a) ∧
     (q.poison = false → s1.poisoned off = false → free →
       (q.kind = .load → ∃ u, s.performHome q r t = .ok (u, .ok (.ofNat 1024 old)) ∧ MemorySame s1 u ∧ ∀ c, u.ctx c = s.ctx c) ∧
       (Memory.wf s1.mem = true → n ≤ 128 → q.kind = .store → ∃ u, s.performHome q r t = .ok (u, .ok 0) ∧
         (∀ c, u.ctx c = s.ctx c) ∧ (∀ a, readCell u.mem a = put a) ∧
         ∀ k, ∀ f ∈ (u.core k).l1, f.s = true ∨ f.line ≠ off / 128) ∧
       (Memory.wf s1.mem = true → n = 4 ∨ n = 8 → q.kind = .amo ∨ q.kind = .cas →
         let y := q.data.toNat % 2 ^ (8 * n)
         ∃ u, s.performHome q r t = .ok (u, .ok (.ofNat 1024 old)) ∧ (∀ c, u.ctx c = s.ctx c) ∧
         (∀ a, a < off ∨ off + n ≤ a → readCell u.mem a = readCell s1.mem a) ∧
         ofBytes (readCells u.mem off n) = if q.kind = .amo then amoFn (8 * n) q.op.toNat old y % 2 ^ (8 * n)
           else if old = y then q.data.toNat / 2 ^ 64 % 2 ^ (8 * n) else old))) ∧
   ∀ (s u : State) (w : Window) (k : Kind) (va : Nat),
     (s.asLookup w.asn = .ok (u, none) → s.homeWalk w k va = .ok (u, .absent false)) ∧
     ∀ as, s.asLookup w.asn = .ok (u, some as) →
       let u1 := u.walkLines va 4 as.root
       (∀ e, u.walkFrom va 4 as.root = .error e → s.homeWalk w k va = .error e) ∧
       (u.walkFrom va 4 as.root = .ok .absent → s.homeWalk w k va = .ok (u1, .absent false)) ∧
       (u.walkFrom va 4 as.root = .ok .malformed → s.homeWalk w k va = .ok (u1, .refused)) ∧
       ∀ level p at_, u.walkFrom va 4 as.root = .ok (.leaf level p at_) →
         let needsD := k.writes = true ∧ pteD p = false
         let p1 := p ||| 0x40 ||| (if k.writes then 0x80 else 0)
         (pteU p = false ∨ permits k p = false → s.homeWalk w k va = .ok (u1, .refused)) ∧
         (pteU p = true → permits k p = true → needsD → as.dref = true → s.homeWalk w k va =
           .ok (if p.getLsbD 6 then u1 else u1.homeWrite (u1.region at_).loc (toBytes 8 (p ||| 0x40).toNat), .absent true)) ∧
         (pteU p = true → permits k p = true → ¬(needsD ∧ as.dref = true) → ∃ t, s.homeWalk w k va =
           .ok (t, .go (leafAddr (leafShift level p) p va) (pteTreat p)) ∧ t.dev = u.dev ∧ t.niu = u.niu ∧
           (∀ c, t.ctx c = u.ctx c) ∧ t = if p1 = p then u1 else u1.homeWrite (u1.region at_).loc (toBytes 8 p1.toNat))) ∧
  ((∀ (s : State) (q : Packet), s.now = some (.fabricReplay q) → s.niu.held = [] →
     let answered := fun (u : State) (a : FabAnswer) =>
       if q.srcPkg = u.niu.pkgNum then u.post (.fabricResponse q.srcCore q.owner a)
       else u.emit (.answer q.srcPkg q.srcCore q.owner a (u.niu.reverse q.route))
     (s.source q.srcPkg q.srcCore = none → exec .fabricReplay s = .next (answered s .refused)) ∧
     ∀ e, s.source q.srcPkg q.srcCore = some e →
       let e1 := { e with s := e.s + 1 }
       (s.served e.t = false → ∃ t, exec .fabricReplay s = .next t ∧ MemorySame s t ∧
         t.source q.srcPkg q.srcCore = some { e1 with c := e.c + 1 } ∧ t.niu.tickets = s.niu.tickets ∧
         (q.srcPkg ≠ s.niu.pkgNum → t.out = s.out ++ [.answer q.srcPkg q.srcCore q.owner (.blocked e.t) (s.niu.reverse q.route)]) ∧
         (q.srcPkg = s.niu.pkgNum → .own (.fabricResponse q.srcCore q.owner (.blocked e.t)) ∈ t.agenda)) ∧
       (s.served e.t = true → ∀ u, (s.setSource e1).admitOr q (some e1) = .ok (some u) → u.niu.held = [] →
         exec .fabricReplay s = .next (u.endSettle q.srcPkg q.srcCore))) ∧
   (∀ (s : State) (p : PkgId) (c : CoreId) (i : Instr), s.niu.held = [] →
     (s.now = some (.fabricSkip p c) ∧ i = .fabricSkip ∨ s.now = some (.fabricCancel p c) ∧ i = .fabricCancel) →
     (s.source p c = none → exec i s = .next s) ∧
     ∀ e, s.source p c = some e → ∃ t, exec i s = .next t ∧ MemorySame s t ∧ (∀ d, t.ctx d = s.ctx d) ∧ (∀ d, t.core d = s.core d) ∧
       (¬(s.served e.t = true ∧ e.s + 1 = e.c) → t.source p c = some { e with s := e.s + 1 } ∧ t.niu.tickets = s.niu.tickets) ∧
       (s.served e.t = true → e.s + 1 = e.c → t.source p c = none ∧
         ∀ k, k ∈ t.niu.tickets ↔ k ∈ s.niu.tickets ∧
           (k.served = false ∨ ∃ f ∈ s.niu.sources, ¬(f.pkg = p ∧ f.core = c) ∧ f.t = k.num))) ∧
   (∀ (s : State) (v : Dword), s.now = some (.tkdone v) →
     let tick : BitVec 16 := .ofNat 16 v.toNat
     let ok := !v.getLsbD 16
     ((∀ k ∈ s.niu.tickets, k.num = tick → k.served = true) → exec .tkdone s = .next s) ∧
     ((∃ k ∈ s.niu.tickets, k.num = tick ∧ k.served = false) → ∃ t, exec .tkdone s = .next t ∧ MemorySame s t ∧
       (∀ c, t.ctx c = s.ctx c) ∧ t.niu.sources = s.niu.sources ∧
       (∀ k ∈ t.niu.tickets, k.num = tick → k.served = true) ∧
       (∀ k, k.num ≠ tick → k.served = false → (k ∈ t.niu.tickets ↔ k ∈ s.niu.tickets)) ∧
       (∀ e ∈ s.niu.sources, e.t = tick →
         if e.pkg = s.niu.pkgNum then .own (.ticketNotice e.core s.niu.pkgNum tick ok) ∈ t.agenda
         else .notice e.pkg e.core tick ok ∈ t.out) ∧
       ∀ o ∈ t.out, o ∈ s.out ∨ ∃ e ∈ s.niu.sources, e.t = tick ∧ o = .notice e.pkg e.core tick ok)) ∧
   (∀ (s : State) (q : Packet) (b : Bool), s.now = some .niuHeldAdmit → s.niu.held = [{ msg := .request q, busySent := b }] →
     (s.arrive q = .ok none → exec .niuHeldAdmit s = .next s) ∧
     ∀ t, s.arrive q = .ok (some t) → exec .niuHeldAdmit s = .next { t with niu := { t.niu with held := [] } }) ∧
   (∀ (s : State) (q : Packet), s.now = some (.fabricRequest q) → (∀ h ∈ s.niu.held, ∀ p, h.msg ≠ .request p) →
     (s.arrive q = .ok none → exec .fabricRequest s =
       .next { s with niu := { s.niu with held := s.niu.held ++ [{ msg := .request q, busySent := false }] } }) ∧
     ∀ t, s.arrive q = .ok (some t) → exec .fabricRequest s = .next t) ∧
   (∀ (s : State) (q p : Packet), s.now = some (.fabricRequest p) → (∃ h ∈ s.niu.held, h.msg = .request q) →
     exec .fabricRequest s = .next { s with niu := { s.niu with held := s.niu.held ++ [{ msg := .request p, busySent := false }] } }) ∧
   ∀ (s : State) (q : Packet) (r : List Held), s.now = some .niuBusy → s.niu.held = { msg := .request q, busySent := false } :: r →
     (∀ h ∈ r, h.msg ≠ .request q) →
     let u := { s with niu := { s.niu with held := { msg := .request q, busySent := true } :: r } }
     exec .niuBusy s = .next (if q.srcPkg = s.niu.pkgNum then u.post (.busyReceive q.srcCore s.niu.pkgNum)
       else u.emit (.busy q.srcPkg q.srcCore)))

/-- R346, R349, R356 to R358, R14: a port trains, comes up where the two ends agree on a version, retrains after sixteen CRC failures within
1 ms, and fails; a failure is told on the other Up ports with its time, and every unanswered request, of every flow and kind, whose route
crosses the port, at either end of a link, is written to the loss log, with the time of the failure, and
completed: a read refused, a posted store left to its thread's next FENCE, a cancel ended; its flow is released. What the package knows of
failed ports, and which record the log keeps where, is the model's reading (logs 40, 41). -/
def Obligations.PortsAndLostRequests : Prop :=
  (∀ (s : State) (p : BitVec 3),
    let x := tableGet s.niu.ports p.toNat Port.reset
    let port := fun t : State => tableGet t.niu.ports p.toNat Port.reset
    let same := fun t : State => MemorySame s t ∧ (∀ c, t.ctx c = s.ctx c) ∧ (∀ k, t.core k = s.core k) ∧ t.dev = s.dev ∧
      t.niu.flows = s.niu.flows
    (s.now = some (.portRetrainEnter p) →
      (x.state = .up → ∃ t, exec .portRetrainEnter s = .next t ∧ same t ∧ port t = { x with state := .retraining, fails := [] }) ∧
      (x.state ≠ .up → exec .portRetrainEnter s = .next s)) ∧
    (s.now = some (.portRetrain p) →
      (x.state = .failed → ∃ t, exec .portRetrain s = .next t ∧ same t ∧ port t = { x with state := .training }) ∧
      (x.state ≠ .failed → exec .portRetrain s = .next s)) ∧
    (∀ peer, s.now = some (.portUp p peer) →
      let opens := (x.state = .training ∨ x.state = .retraining) ∧ s.agreed (2 + p.toNat) ≠ 0 ∧
        s.boot.ready.getLsbD 0 = true ∧ (s.boot.stage = 1 ∨ s.boot.stage = 3)
      (opens → ∃ t, exec .portUp s = .next t ∧ same t ∧ port t = { x with state := .up, peer := peer, fails := [] } ∧
        t.boot.ready.getLsbD (17 + p.toNat) = true ∧
        (∀ e ∈ t.niu.failedPorts, (e.1, e.2.1) ≠ (t.niu.pkgNum, p) ∧ (e.1, e.2.1) ≠ t.niu.farEnd (t.niu.pkgNum, p)) ∧
        (s.boot.ready.toNat / 2 ^ 17 % 2 ^ 8 ≠ 0 → t.niu.pkgNum = s.niu.pkgNum)) ∧
      (¬opens → exec .portUp s = .next s)) ∧
    (s.now = some (.flitCrcFailure p) → x.state = .up ∨ x.state = .retraining →
      let recent := (s.dev.time :: x.fails.filter fun f => decide ((s.dev.time - f).toNat ≤ 1000000)).take 16
      ∃ t, exec .flitCrcFailure s = .next t ∧ same t ∧ port t = { x with crc := x.crc + 1, fails := recent } ∧
        t.agenda = s.agenda ++ (if x.state = .up ∧ recent.length = 16 then [.own (.portRetrainEnter p)] else [])) ∧
    (s.now = some (.portFailed p) →
      (x.state = .training ∨ x.state = .retraining → ∃ t, exec .portFailed s = .next t ∧ port t = { x with state := .failed } ∧
        (s.niu.pkgNum, p, s.dev.time) ∈ t.niu.failedPorts ∧
        ((∃ q, q ≠ p ∧ (tableGet s.niu.ports q.toNat Port.reset).state = .up) → .portFailure s.niu.pkgNum p s.dev.time ∈ t.out)) ∧
      (x.state ≠ .training → x.state ≠ .retraining → exec .portFailed s = .next s))) ∧
  ∀ (s : State) (n : PkgId) (p : BitVec 3) (at_ : Dword), s.now = some (.portFailureNotice n p at_) →
    let lost := fun (f : Flow) => (s.core f.core).accesses.filter fun a =>
      a.2.outstanding && a.2.packet.dest == f.dest && s.niu.crosses a.2.packet.route n p
    let known := ∃ e ∈ s.niu.failedPorts, e.1 = n ∧ e.2.1 = p ∧ at_.toNat ≤ e.2.2.toNat
    (known → exec .portFailureNotice s = .next s) ∧
    (¬known → (∀ f ∈ s.niu.flows, f.lost = [] ∧ lost f = []) →
      ∃ t, exec .portFailureNotice s = .next t ∧ MemorySame s t ∧ (∀ c, t.ctx c = s.ctx c) ∧ (∀ k, t.core k = s.core k) ∧
        (n, p, at_) ∈ t.niu.failedPorts ∧ t.niu.flows = s.niu.flows ∧
        ((∃ q : BitVec 3, (tableGet s.niu.ports q.toNat Port.reset).state = .up) → t.out = s.out ++ [.portFailure n p at_])) ∧
    (¬known → (∀ f ∈ s.niu.flows, f.lost = []) →
      (s.niu.flows.map fun f => (lost f).length).sum + (s.niu.llTail - s.niu.llHead).toNat ≤ 1024 →
      (∀ f ∈ s.niu.flows, ∀ a ∈ (s.core f.core).tk, a.1 < 32) →
      ∃ t, exec .portFailureNotice s = .next t ∧ (∀ f ∈ t.niu.flows, f.lost = []) ∧
        ∀ (f : Flow) (o : FabOwner) (e : TkEntry), f ∈ s.niu.flows → (o, e) ∈ lost f →
          (∀ a ∈ (s.core f.core).accesses, a.1 = o → a = (o, e)) →
          let own := ctxOf f.core e.ctx
          let refused := { e with state := .done, answer := some .refused, replaying := false }
          (e.kind = .cancel → (∀ q c, o = .queue q → s.headCmd f.core q = some c → c.unit = none) → t.accessOf f.core o = none) ∧
          (e.kind ≠ .cancel → (∃ q, o = .queue q) → t.accessOf f.core o = some refused) ∧
          (e.kind = .read → (∃ k, o = .entry k) → t.accessOf f.core o = if e.squashed then none else some refused) ∧
          (e.kind = .posted → (∃ k, o = .entry k) → t.accessOf f.core o = none ∧ (t.ctx own).lost ≠ []) ∧
          (e.kind = .detached → (∃ k, o = .entry k) → t.accessOf f.core o = none)) ∧
    ∀ (f : Flow) (k : BitVec 5) (e : TkEntry) (off : Nat), ¬known → s.niu.flows = [f] →
      s.niu.crosses e.packet.route n p = true →
      f.lost = [] → (s.core f.core).tk = [(k.toNat, e)] → (s.core f.core).accesses = [(.entry k, e)] → e.kind = .posted →
      e.packet.kind = .store → e.packet.dest = f.dest → e.outstanding = true → (s.niu.llTail - s.niu.llHead).toNat < 1024 →
      s.region (s.niu.llBase.toNat / 2 ^ 18 % 2 ^ 38 * 2 ^ 18 + 256 * (s.niu.llTail.toNat % 1024)) = .hbm off →
      s.dev.committed = true → Memory.wf s.mem = true →
      let own := ctxOf f.core e.ctx
      ∃ t, exec .portFailureNotice s = .next t ∧ t.niu.llTail = s.niu.llTail + 1 ∧ (t.core f.core).tk = [] ∧
        t.niu.flows = [{ f with route := [], lost := [], notes := [], served := [] }] ∧ s.niu.llTail.toNat % 1024 ∈ (t.ctx own).lost ∧
        (t.ctx own).fails = (s.ctx own).fails ∧
        ofBytes (readCells t.mem (off + 4) 2) = f.core.toNat ∧ ofBytes (readCells t.mem (off + 6) 2) = f.dest.toNat ∧
        ofBytes (readCells t.mem (off + 8) 2) = n.toNat ∧ ofBytes (readCells t.mem (off + 10) 1) = p.toNat ∧
        ofBytes (readCells t.mem (off + 12) 2) = 1 ∧ ofBytes (readCells t.mem (off + 16) 8) = at_.toNat ∧
        ofBytes (readCells t.mem (off + 32) 8) =
          e.packet.off.toNat + (e.packet.len.toNat - 1) % 128 * 2 ^ 50 + e.ctx.toNat * 2 ^ 60

/-- R153, R154, R354, R355: the grandmaster sends its time; a follower takes the message's time with its link's delay, slews while locked, and
else steps forward or holds its count, never back; the corrected message goes on. It locks once the offset has stayed within 10 ns for 1 s;
lock is lost by 1 s of silence or an offset beyond 1 us. PTSET moves the grandmaster's time forward only. That the grandmaster itself
locks at once is the model's reading (log 59). -/
def Obligations.PackageTimeFollows : Prop :=
  ∀ s : State,
    let upPorts := ((List.range 8).map fun n => BitVec.ofNat 3 n).filter fun p =>
      (tableGet s.niu.ports p.toNat Port.reset).state == .up
    let still := fun t : State => MemorySame s t ∧ (∀ c, t.ctx c = s.ctx c) ∧ ∀ k, t.core k = s.core k
    (s.now = some .syncSend →
      (s.niu.timectl.getLsbD 0 = true → exec .syncSend s = .next { s with out := s.out ++ upPorts.map fun p => .sync p s.dev.time }) ∧
      (s.niu.timectl.getLsbD 0 = false → exec .syncSend s = .next s)) ∧
    (∀ p v, s.now = some (.syncMessage p v) →
      let t0 : Dword := .ofNat 64 (v.toNat + (tableGet s.niu.ports p.toNat Port.reset).delay.toNat)
      let off := (t0 - s.dev.time).toInt
      (s.niu.timectl.getLsbD 0 = true → exec .syncMessage s = .next s) ∧
      (s.niu.timectl.getLsbD 0 = false → ∃ t, exec .syncMessage s = .next t ∧ still t ∧ t.niu.offset = off ∧
        t.niu.lastSync = s.dev.time ∧ t.niu.locked = s.niu.locked ∧
        t.out = s.out ++ (upPorts.filter fun q => q != p).map (fun q => .sync q t0) ∧
        (s.niu.locked = true → t.dev.time = s.dev.time ∧ t.niu.slew = off ∧
          (off < -1000 ∨ 1000 < off → .own .timeLockLoss ∈ t.agenda)) ∧
        (s.niu.locked = false → 0 ≤ off → t.dev.time = t0 ∧ t.niu.hold = 0) ∧
        (s.niu.locked = false → off < 0 → t.dev.time = s.dev.time ∧ (t.niu.hold : Int) = -off))) ∧
    (∀ p d, s.now = some (.pdelayMeasure p d) → ∃ t, exec .pdelayMeasure s = .next t ∧ still t ∧ t.dev = s.dev ∧
      tableGet t.niu.ports p.toNat Port.reset = { tableGet s.niu.ports p.toNat Port.reset with delay := d }) ∧
    (s.now = some .timeLock →
      let good := s.niu.timectl.getLsbD 0 = true ∨ ∃ g, s.niu.good = some g ∧ 1000000000 ≤ (s.dev.time - g).toNat
      (good → exec .timeLock s = .next { s with niu := { s.niu with locked := true } }) ∧ (¬good → exec .timeLock s = .next s)) ∧
    (s.now = some .timeLockLoss →
      let gone := 1000000000 ≤ (s.dev.time - s.niu.lastSync).toNat ∨ s.niu.offset < -1000 ∨ 1000 < s.niu.offset
      let loses := s.niu.locked = true ∧ s.niu.timectl.getLsbD 0 = false ∧ gone
      (loses → exec .timeLockLoss s = .next { s with
        niu := { s.niu with locked := false, timeLost := true, good := none, slew := 0 } }) ∧
      (¬loses → exec .timeLockLoss s = .next s)) ∧
    (∀ v, s.now = some (.ptset v) →
      (s.niu.timectl.getLsbD 0 = true → s.dev.time.toNat < v.toNat → ∃ t, exec .ptset s = .next t ∧ still t ∧
        t.dev = { s.dev with time := v }) ∧
      (s.niu.timectl.getLsbD 0 = false ∨ v.toNat ≤ s.dev.time.toNat → exec .ptset s = .next s)) ∧
    ∀ ns, s.niu.locked = true → s.niu.hold = 0 →
      let g := (s.niu.gain ns).1
      ns ≤ g + ns / 2000 ∧ g ≤ ns + ns / 2000

/-- R359 to R361, R365: a corrected error changes no value and is recorded with its unit, place and time; an uncorrectable one in HBM or in
a modified line, or a dead agent's, poisons the line; in a clean line, an instruction's included, it counts as corrected and the copy goes,
to be refetched; in a context's own store it is a machine check there, its record's index in cw.tval. A scrub changes nothing that can be
read. Which unit a dead agent is recorded under is the model's reading (log 43); that a Starting, Parked or Exiting thread takes the check
once it runs is its choice (log 86).
R363, R364: termination of tenants makes every context of their skeins Idle, empties their queues, tables and caches, and drops their
completion messages; a copy unit that
is sent and unanswered leaves a cancel owed; no context of another skein changes, nor its cores, but for lines that the write-back of S
bytes takes from their caches, and where a request that a pin held is answered (R276). Poison stays but where a whole-line write of a
terminated core goes home (R187). -/
def Obligations.ErrorsAndTermination : Prop :=
  (∀ (s : State) (u : BitVec 4) (loc : Dword) (a : PAddr) (m : Bool), (s.ras.tail - s.ras.head).toNat < 256 →
     let line := a.toNat / 128 * 128
     let recorded := fun (t : State) (kind unit : Nat) (addr : Nat) =>
       t.ras.tail = s.ras.tail + 1 ∧ (s.ras.tail.toNat % 256, (#v[.ofNat 64 (kind + unit * 8 + 2 ^ 16), loc, .ofNat 64 addr, s.dev.time,
         0, 0, 0, 0] : Vector Dword 8)) ∈ t.ras.ring
     let told := fun t : State => ∀ c, t.ctx c = if s.ras.tgt.getLsbD 13 = true ∧ targetCtx s.ras.tgt = c then { s.ctx c with
       mbSrc := 65, cw := { (s.ctx c).cw with ipend := (s.ctx c).cw.ipend ||| 2 } } else s.ctx c
     let corrected := fun i : Instr => ∃ t, exec i s = .next t ∧ MemorySame s t ∧ recorded t 0 u.toNat line ∧ told t ∧
       (∀ k, t.core k = s.core k) ∧ ∀ k, t.skein k = s.skein k
     let poisons := fun (i : Instr) (unit : Nat) (l : Nat) => ∀ off, s.region l = .hbm off → s.ras.inDk l = false →
       loc.getLsbD 14 = false ∨ i = .agentDied → ∃ t, exec i s = .next t ∧
         t.ras.tail = s.ras.tail + 1 ∧ (s.ras.tail.toNat % 256, (#v[.ofNat 64 (1 + unit * 8 + 2 ^ 16), if i = .agentDied then 0 else loc,
           .ofNat 64 l, s.dev.time, 0, 0, 0, 0] : Vector Dword 8)) ∈ t.ras.ring ∧
         t.poisoned off = true ∧ (∀ b, b / 128 ≠ off / 128 → t.poisoned b = s.poisoned b) ∧ told t
     let core : CoreId := .ofNat 10 (loc.toNat / 2 ^ 15 % 2 ^ 7 * 8 + loc.toNat / 8 % 8)
     let refetched := fun t : State => MemorySame s t ∧ recorded t 0 u.toNat line ∧ told t ∧ ∀ off, s.region line = .hbm off →
       (u = 1 → ∀ f ∈ t.msc, f.line = off / 128 → f.modified = true ∨ f.pins ≠ 0) ∧
       (u = 2 → ∀ f ∈ (t.skein (skeinOfCore core)).sc, f.line = off / 128 → f.state = .modified ∨ f.pins ≠ 0) ∧
       (u = 3 → ∀ f ∈ (t.core core).l1, f.line = off / 128 → if f.s then f.dirty ≠ 0 else f.state = .modified) ∧
       (u = 4 → ∀ f ∈ (t.core core).icache, f.line ≠ off / 128)
     (s.now = some (.correctedError u loc a) → corrected .correctedError) ∧
     (s.now = some (.uncorrectableError u loc a m) →
       (u = 0 ∨ (u.toNat ≤ 3 ∧ m = true) → poisons .uncorrectableError u.toNat line) ∧
       ((1 ≤ u.toNat ∧ u.toNat ≤ 3 ∧ m = false) ∨ u = 4 → ∃ t, exec .uncorrectableError s = .next t ∧ refetched t) ∧
       (u = 5 ∨ u = 6 ∨ u = 10 →
         let c : CtxId := .ofNat 13 (loc.toNat / 2 ^ 15 % 2 ^ 7 * 64 + loc.toNat / 8 % 8 * 8 + loc.toNat % 8)
         let detail := if u = 10 then 3 else 2
         let index := s.ras.tail.toNat % 256
         s.isServer (coreOf c) = false → s.ras.tenantOf (skeinOf c) = none →
         ∃ t, exec .uncorrectableError s = .next t ∧ MemorySame s t ∧ t.ras.tail = s.ras.tail + 1 ∧
           ((s.ctx c).st = .running → (t.ctx c).mode = 3 ∧ (t.ctx c).cw.fwcause = .ofNat 64 (0x30 + detail * 2 ^ 8) ∧
             (t.ctx c).cw.tval = .ofNat 64 index ∧ (t.ctx c).cw.estat = (s.ctx c).cw.status ∧
             (t.ctx c).pc = .ofNat 64 ((s.core (coreOf c)).fwvec.toNat / 8 * 8) ∧ (t.ctx c).x = (s.ctx c).x) ∧
           ((s.ctx c).st = .starting ∨ (s.ctx c).st = .parked ∨ (s.ctx c).st = .exiting → (t.ctx c).st = (s.ctx c).st ∧
             (t.ctx c).checks = (s.ctx c).checks ++ [(detail, index)] ∧ (t.ctx c).pc = (s.ctx c).pc ∧ (t.ctx c).x = (s.ctx c).x) ∧
           ((s.ctx c).st = .idle → told t))) ∧
     (∀ l, s.now = some (.patrolScrub l) → exec .patrolScrub s = .next s) ∧
     ∀ l : LineNo, s.now = some (.agentDied l) → poisons .agentDied 8 (l.toNat * 128 % 2 ^ 56)) ∧
  (∀ (s : State) (v : Dword), s.now = some (.tnkill v) →
     let tenant := fun (k : SkeinId) (t : Nat) => t < 16 ∧
       (s.ras.tnskein.toList.getD (2 * t + k.toNat / 64) 0).getLsbD (k.toNat % 64) = true
     let ends := fun k : SkeinId => ∃ t, tenant k t ∧ (∀ r, r < t → ¬tenant k r) ∧ v.getLsbD t = true
     ∃ t, exec .tnkill s = .next t ∧ t.ras = s.ras ∧
       (∀ c, ends (skeinOf c) → t.ctx c = Ctx.reset ∧ c ∉ t.turns) ∧
       (∀ c, ¬ends (skeinOf c) → t.ctx c = s.ctx c) ∧
       (∀ g, g ∈ t.dev.msgs ↔ g ∈ s.dev.msgs ∧ ¬ends (skeinOf g.source)) ∧
       (∀ k, ends (skeinOfCore k) → (t.core k).lq = [] ∧ (t.core k).cq = Vector.replicate 4 [] ∧ (t.core k).tq = [] ∧
         (t.core k).fwd = [] ∧ (t.core k).l1 = [] ∧ (t.core k).icache = [] ∧ ∀ e ∈ (t.core k).tk, e.2.kind = .cancel) ∧
       (NoPins s → (∀ m ∈ t.poison, m ∈ s.poison) ∧
         (∀ m ∈ s.poison, m ∈ t.poison ∨ ∃ k, ends (skeinOfCore k) ∧ ∃ e ∈ (s.core k).l1, e.s = true ∧ e.line = m ∧ e.whole = true) ∧
         (∀ k, ends (skeinOfCore k) → ∀ e ∈ (s.core k).l1, e.s = true → e.whole = true → e.dirty ≠ 0 → e.line ∉ t.poison) ∧
         (∀ k, ends k → (t.skein k).held = []) ∧
         (∀ k, ends (skeinOfCore k) →
           ∀ q c r e, (s.core k).queue q = .cmd c :: r → c.unit = some e → e.state = .sent → (s.core k).ghosts = [] →
             (q, { e with kind := .cancel, fwd := none }) ∈ (t.core k).ghosts) ∧
         ((∀ k, ends k → (s.skein k).held = []) →
         (∀ k, ¬ends (skeinOfCore k) → t.core k = { s.core k with l1 := (t.core k).l1 } ∧
           (∀ e ∈ (t.core k).l1, e ∈ (s.core k).l1) ∧ (t.core k).l1.filter (·.s) = (s.core k).l1.filter (·.s)) ∧
         (∀ k, ends k → (t.skein k).sc = [] ∧ (t.skein k).eng = []) ∧
         ∀ k, ¬ends k → t.skein k = { s.skein k with sc := (t.skein k).sc } ∧ ∀ e ∈ (t.skein k).sc, e ∈ (s.skein k).sc)))

/-! ## Start, power, registers -/

/-- R10, R41, R366 to R371, R376, R391, R392: a reset release wipes everything but fuses, flash and what lies outside the part, and an image
is verified: slot A, else slot B, else recovery is waited for. Safelight gives BAR0 its base, opens mailbox 0 and applies the Shutter levels
received so far; then dies and HBM pairs become ready or fail, each once: a die's cores take the entry of the payload's copy, and its server
cores start the firmware. The model's choices: BAR0's base comes with Safelight (log 6), PFSTAT bit 0 is set at the release (log 47), inputs
to come, outputs and host memory are kept (log 45), mailbox 0's rings stand above the HBM (log 89), and how a key and a signature are
written (log 9). -/
def Obligations.TheReleaseFromReset : Prop :=
  ∀ s : State,
    let f := s.boot.fuses
    let bytes := fun (d : List Byte) (off n : Nat) => (List.range n).map fun i => d.getD (off + i) 0
    let num := fun (d : List Byte) (off n : Nat) => ofBytes (bytes d off n)
    let brings := s.boot.ready.getLsbD 0 = true ∧ (s.boot.stage = 1 ∨ s.boot.stage = 3)
    let passes := fun d : List Byte => num d 0 4 = 0x3834534B ∧ num d 4 2 = 1 ∧ (∀ b ∈ bytes d 161 7 ++ bytes d 264 248, b = 0) ∧
      num d 6 1 < 4 ∧ f.revoked.getLsbD (num d 6 1) = false ∧ (f.lcstate = 0 → num d 6 1 = 0) ∧
      sha384 (bytes d 64 97) = bytesOf 48 (f.keyHash.toList.getD (num d 6 1) 0) ∧ f.rollback ≤ num d 7 1 ∧
      1 ≤ num d 8 8 ∧ num d 8 8 ≤ 8388096 ∧ sha384 (bytes d 512 (num d 8 8)) = bytes d 16 48 ∧
      ecdsaVerifies (bytes d 64 97) (sha384 (bytes d 0 168)) (bytes d 168 96) = true
    let runs := fun (t : State) (src : BitVec 2) (d : List Byte) => t.boot.src = src ∧
      t.boot.stage = (if f.lcstate = 3 then 3 else 1) ∧ t.boot.svn = .ofNat 8 (num d 7 1) ∧
      t.boot.image = bytes d 0 (512 + num d 8 8) ∧ t.boot.fuses = f ∧ t.boot.flash = s.boot.flash
    (s.now = some .resetRelease → Memory.wf s.mem = true → ∃ t, exec .resetRelease s = .next t ∧
      t = { State.reset with agenda := .own .imageVerify :: s.agenda.filter Input.fromOutside, out := s.out, free := s.free, mem := t.mem
                             poison := t.poison, boot := { Boot.reset with fuses := f, flash := s.boot.flash }
                             power := { Power.reset with pfstat := t.power.pfstat } } ∧
      (∀ a, readCell t.mem a = if a < 2 ^ 56 then 0 else readCell s.mem a) ∧
      (∀ a, t.poisoned a = if a < 2 ^ 56 then false else s.poisoned a) ∧
      t.power.pfstat.getLsbD 0 = recordVerifies s.boot.flash.drain ∧ t.power.pfstat.getLsbD 1 = false) ∧
    (s.now = some .imageVerify →
      (s.boot.stage ≠ 0 → exec .imageVerify s = .next s) ∧
      (s.boot.stage = 0 → ∃ t, exec .imageVerify s = .next t ∧ t = { s with boot := t.boot } ∧
        (∀ d, s.boot.flash.slotA = some d → passes d → runs t 0 d) ∧
        ((∀ d, s.boot.flash.slotA = some d → ¬passes d) →
          (∀ d, s.boot.flash.slotB = some d → passes d → runs t 1 d) ∧
          ((∀ d, s.boot.flash.slotB = some d → ¬passes d) → t.boot.stage = 2 ∧ t.boot.err ≠ 0 ∧
            (s.boot.flash.slotB = none → t.boot.err = 8))))) ∧
    (∀ bar, s.now = some (.safelight bar) →
      (s.boot.stage = 0 ∨ s.boot.ready.getLsbD 0 = true → exec .safelight s = .next s) ∧
      (s.boot.stage ≠ 0 → s.boot.ready.getLsbD 0 = false → ∃ t, exec .safelight s = .next t ∧ MemorySame s t ∧
        t.boot.ready.getLsbD 0 = true ∧ t.dev.bar0 = bar.toNat ∧ (t.h2d 0).cfg = (s.h2d 0).cfg ||| 1 ∧
        2 ^ 40 ≤ (t.h2d 0).base.toNat ∧ (t.h2d 0).base.toNat % 2 ^ 14 = 0 ∧ 2 ^ 40 ≤ (t.d2h 0).base.toNat ∧
        (t.d2h 0).cfg = (s.d2h 0).cfg ||| 1 ∧ (∀ m, m ≠ 0 → t.h2d m = s.h2d m ∧ t.d2h m = s.d2h m) ∧ (∀ k, t.core k = s.core k) ∧
        (s.power.drain = .none → s.power.applied = false →
          let top := max s.power.pin.toNat (max s.power.inb.toNat s.power.i3c.toNat)
          t.power = { s.power with applied := true, chg := if top = 0 then s.power.chg else s.power.chg + 1 } ∧
          ∀ c, t.ctx c = if top = 0 ∨ (s.ctx c).st = .idle then s.ctx c else { s.ctx c with
            cw := { (s.ctx c).cw with ipend := (s.ctx c).cw.ipend ||| 16 } }))) ∧
    (∀ n ok, s.now = some (.dieReady n ok) →
      let done := s.boot.ready.getLsbD (1 + n.toNat) = true ∨ s.boot.ready.getLsbD (25 + n.toNat) = true
      (¬brings ∨ done → exec .dieReady s = .next s) ∧
      (brings → ¬done → ok = false → ∃ t, exec .dieReady s = .next t ∧ t = { s with boot := t.boot } ∧
        t.boot.ready.getLsbD (25 + n.toNat) = true ∧ t.boot.ready.getLsbD (1 + n.toNat) = false) ∧
      (brings → ¬done → ok = true → s.boot.payloadAt = none → (∀ e, e < 8 → s.boot.ready.getLsbD (9 + e) = false) →
        exec .dieReady s = .next s) ∧
      (brings → ¬done → ok = true → ∀ off,
        (s.boot.payloadAt = some off ∨ (s.boot.payloadAt = none ∧ ∃ e, e < 8 ∧ s.boot.ready.getLsbD (9 + e) = true ∧
          (∀ i, i < e → s.boot.ready.getLsbD (9 + i) = false) ∧ off = e * 0x1800000000 + 0x1780000000)) →
        ∃ t, exec .dieReady s = .next t ∧ t.boot.ready.getLsbD (1 + n.toNat) = true ∧ t.boot.payloadAt = some off ∧
          (s.boot.payloadAt = none → Memory.wf s.mem = true → ∀ j (h : j < (s.boot.image.drop 512).length),
            readCell t.mem (off + j) = (s.boot.image.drop 512)[j]) ∧
          (s.boot.payloadAt = some off → MemorySame s t) ∧
          ∀ core : CoreId, if core.toNat / 128 = n.toNat then
              t.core core = { s.core core with fwvec := .ofNat 64 (s.dev.hbmBase + off) } ∧
              (∀ i : BitVec 3, i ≠ 0 ∨ s.isServer core = false → t.ctx (core ++ i) = s.ctx (core ++ i)) ∧
              (s.isServer core = true → let x := t.ctx (core ++ (0 : BitVec 3))
                x.st = .starting ∧ x.pc = .ofNat 64 (s.dev.hbmBase + off) ∧ x.mode = 3 ∧ (∀ r, x.getX r = 0) ∧
                x.getB 0 = { target := .ofNat 61 ((s.core core).exitpc.toNat / 8), valid := true } ∧
                core ++ (0 : BitVec 3) ∈ t.turns)
            else t.core core = s.core core ∧ ∀ i : BitVec 3, t.ctx (core ++ i) = s.ctx (core ++ i))) ∧
    ∀ n ok, s.now = some (.hbmPairReady n ok) →
      let done := s.boot.ready.getLsbD (9 + n.toNat) = true ∨ s.boot.ready.getLsbD (33 + n.toNat) = true
      (¬brings ∨ done → exec .hbmPairReady s = .next s) ∧
      (brings → ¬done → ∃ t, exec .hbmPairReady s = .next t ∧ (∀ c, t.ctx c = s.ctx c) ∧
        t.boot.ready.getLsbD ((if ok then 9 else 33) + n.toNat) = true ∧
        (ok = false ∨ n ≠ 0 ∨ recordVerifies s.boot.flash.drain = false → MemorySame s t ∧ t.power = s.power) ∧
        (ok = true → n = 0 → recordVerifies s.boot.flash.drain = true → t.power.pfstat = s.power.pfstat ||| 2 ∧
          (Memory.wf s.mem = true → ∀ j, j < num s.boot.flash.drain 48 8 →
            readCell t.mem (0x17E0000000 + j) = s.boot.flash.drain.getD j 0)))

/-- R370 to R375, R378: each Darkroom command is refused, done, or fails its verification, and is answered in mailbox 0: RECOVER runs the
staged image that verifies, COMMIT raises the fused minimum to the running image's version and never lowers it, ATTEST writes the report,
LCADV wipes the part, advances the life cycle by one state and resets, REVOKE revokes a slot other than the running image's. SRVLOCK locks
the server mask. That LCADV sends no reply is the model's reading (log 44). -/
def Obligations.DarkroomCommands : Prop :=
  ∀ s : State,
    let b := s.boot
    let running := b.stage = 1 ∨ b.stage = 3
    let fused := fun g : Fuses => { s with boot := { b with fuses := g } }
    (∀ len, s.now = some (.recover len) →
      let d := readCells b.staging 0 len.toNat
      (b.stage ≠ 2 ∨ 2 ^ 23 < len.toNat → exec .recover s = .next (s.reply 0x101 1)) ∧
      (b.stage = 2 → len.toNat ≤ 2 ^ 23 →
        (imageError b.fuses d = 0 → exec .recover s = .next ({ s with boot := { b with
          src := 2, stage := if b.fuses.lcstate = 3 then 3 else 1, svn := .ofNat 8 (field d 7 1)
          image := part d 0 (512 + field d 8 8) } }.reply 0x101 0)) ∧
        (imageError b.fuses d ≠ 0 → exec .recover s = .next ({ s with boot := { b with
          err := .ofNat 8 (imageError b.fuses d) } }.reply 0x101 2)))) ∧
    (∀ v, s.now = some (.commit v) →
      (¬running ∨ v ≠ b.svn → exec .commit s = .next (s.reply 0x102 1)) ∧
      (running → v = b.svn → exec .commit s = .next ((fused { b.fuses with
        rollback := max b.fuses.rollback (min v.toNat 63) }).reply 0x102 0))) ∧
    (∀ nonce, s.now = some (.attest nonce) →
      (¬running → exec .attest s = .next (s.reply 0x103 1)) ∧
      (running → ∃ r : List Byte, exec .attest s = .next ({ s with free := s.free + 1, boot := { b with attrep := r } }.reply 0x103 0) ∧
        r.length = 512 ∧ field r 0 4 = 1 ∧ field r 4 1 = b.fuses.lcstate.toNat ∧ field r 6 1 = b.svn.toNat ∧
        field r 8 2 = s.niu.pkgNum.toNat ∧ field r 16 32 = nonce.toNat ∧ part r 48 48 = sha384 b.image ∧
        (b.srvlock = false → ∀ x ∈ part r 96 48, x = 0) ∧ (b.srvlock = true → part r 96 48 =
          sha384 (bytesOf 8 b.fuses.harv ++ b.srvmask.toList.flatMap (bytesOf 8) ++ toBytes 8 b.fuses.lcstate.toNat)) ∧
        (b.fuses.lcstate = 0 ∨ b.fuses.lcstate = 3 → ∀ x ∈ part r 144 97 ++ part r 248 96, x = 0) ∧
        (b.fuses.lcstate = 1 ∨ b.fuses.lcstate = 2 → part r 144 97 = publicKey (curveSecret (Config.identitySecret ())) ∧
          part r 248 96 = ecdsaSign (curveSecret (Config.identitySecret ())) (curveSecret (Config.signatureNonce s.free))
            (sha384 (part r 0 248))) ∧
        ∀ x ∈ part r 10 6 ++ part r 241 7 ++ part r 344 168, x = 0)) ∧
    (∀ target, s.now = some (.lcadv target) →
      let steps := target.toNat = b.fuses.lcstate.toNat + 1 ∧ target.toNat ≤ 3
      (¬steps → exec .lcadv s = .next (s.reply 0x104 1)) ∧
      (steps → ∃ t, exec .lcadv s = .next t ∧ t.agenda = .own .resetRelease :: s.agenda.filter Input.fromOutside ∧
        t.boot = { Boot.reset with fuses := { b.fuses with lcstate := .ofNat 2 target.toNat }, flash := b.flash } ∧
        (Memory.wf s.mem = true → ∀ a, readCell t.mem a = if a < 2 ^ 56 then 0 else readCell s.mem a) ∧
        t.ctxs = [] ∧ t.cores = [] ∧ t.skeins = [] ∧ t.dev = State.reset.dev ∧
        t.niu = State.reset.niu ∧ t.ras = State.reset.ras)) ∧
    (∀ k, s.now = some (.revoke k) →
      let no := 3 < k.toNat ∨ (running ∧ k.toNat = field b.image 6 1)
      (no → exec .revoke s = .next (s.reply 0x105 1)) ∧
      (¬no → ∃ g : Fuses, exec .revoke s = .next ((fused g).reply 0x105 0) ∧ g = { b.fuses with revoked := g.revoked } ∧
        ∀ j, j < 4 → g.revoked.getLsbD j = (b.fuses.revoked.getLsbD j || decide (j = k.toNat)))) ∧
    (∀ code, s.now = some (.darkroomUnknownCommand code) → exec .darkroomUnknownCommand s = .next (s.reply code 1)) ∧
    (∀ v, s.now = some (.srvlock v) →
      (v.getLsbD 0 = false ∨ b.srvlock = true → exec .srvlock s = .next s) ∧
      (v.getLsbD 0 = true → b.srvlock = false → ∃ m, exec .srvlock s = .next { s with boot := { b with srvlock := true, srvmask := m } } ∧
        ∀ die, die < 8 → (m.toList.getD (2 * die) 0, m.toList.getD (2 * die + 1) 0) =
          let w := (b.srvmask.toList.getD (2 * die) 0, b.srvmask.toList.getD (2 * die + 1) 0)
          if w.1 = 0 ∧ w.2 = 0 then (1, 0) else w)) ∧
    ∀ code st, s.reply code st = ((if (s.d2h 0).cfg.getLsbD 0 = false then s
        else if (s.d2h 0).free = 0 then s.setD2h 0 { s.d2h 0 with lost := (s.d2h 0).lost + 1 }
        else s.postEntry 0 1 0xFFFF (toBytes 2 code.toNat ++ toBytes 1 st ++ List.replicate 53 0)).emit
      (.darkroom code (.ofNat 8 st))).consume 0 4 0 0

/-- R379: at effective level n, the highest of the three sources' once they are applied (R366), the limit is (16 - n) / 16 of 4,500 W for n
up to 12, levels 13 to 15 acting as 12; here in quarters of a watt.
R379 to R387: a valid pin frame that repeats the level of the one before it, SHTIN and the I3C write each deliver their source's level,
the last two while VSHT has a version; from Safelight on the highest governs, and each change of it is counted and gives every thread the
Shutter notice. The manager measures each microsecond, above the limit takes the next shedding step, which no step leaves before it is at
its deepest; it moves no Gauge but for windows that have passed, whose ceilings follow a new limit from then on. One step a microsecond, and the averages of a short run, are the model's choice
(logs 49, 50).
R388 to R392: a power failure stops every context and squashes what waits. An atomic, or the replay of one, that has no answer after 20
us is abandoned and its context marked; the record waits for a bundle that has completed, or whose atomic's answer has come. Once nothing is left to settle HBM is lost and the
record goes to flash, its header last, so that a drain cut short leaves no record that verifies; then the part halts. While it writes it
answers nothing but that, and once halted nothing but a reset. Clearing PFSTAT erases the record. What the record holds of a thread is log
46, what a part that writes ignores is log 60. -/
def Obligations.ShutterAndPowerFail : Prop :=
  (∀ p : Power, p.applied = true →
     let n := max p.pin.toNat (max p.inb.toNat p.i3c.toNat)
     let quarters := powerLimit p.level
     (n ≤ 12 → 16 * quarters = (16 - n) * 4500 * 4) ∧ (12 < n → 16 * quarters = (16 - 12) * 4500 * 4) ∧
     (n = 0 → quarters = 4500 * 4) ∧ (n = 4 → quarters = 3375 * 4) ∧ (n = 6 → quarters * 2 = 5625 * 4) ∧
     (n = 8 → quarters = 2250 * 4) ∧ (n = 10 → quarters * 2 = 3375 * 4) ∧ (n = 12 → quarters = 1125 * 4)) ∧
  ((∀ n : BitVec 4, 4 * (powerLimit n * 4) = (16 - min n.toNat 12) * 18000) ∧
   ∀ s : State, s.power.drain = .none →
     let top := fun p : Power => if p.applied then max p.pin.toNat (max p.inb.toNat p.i3c.toNat) else 0
     let delivers := fun (i : Instr) (p : Power) => ∃ t, exec i s = .next t ∧ MemorySame s t ∧ (∀ k, t.core k = s.core k) ∧
       t.power = { p with chg := if top p = top s.power then s.power.chg else s.power.chg + 1 } ∧
       ∀ c, t.ctx c = if top p = top s.power ∨ (s.ctx c).st = .idle then s.ctx c else { s.ctx c with
         cw := { (s.ctx c).cw with ipend := (s.ctx c).cw.ipend ||| 16 } }
     (∀ f, s.now = some (.shutterFrame f) →
       let n := f.toNat / 2 ^ 8 % 2 ^ 4
       let valid := f.toNat / 2 ^ 12 = 0b1101 ∧ f.toNat / 2 ^ 4 % 2 ^ 4 = 15 - n ∧ f.toNat % 2 ^ 4 = 0
       (¬valid → exec .shutterFrame s = .next { s with power := { s.power with frame := none } }) ∧
       (valid → s.power.frame ≠ some (.ofNat 4 n) →
         exec .shutterFrame s = .next { s with power := { s.power with frame := some (.ofNat 4 n) } }) ∧
       (valid → s.power.frame = some (.ofNat 4 n) → delivers .shutterFrame { s.power with pin := .ofNat 4 n })) ∧
     (s.now = some .shutterPinFault →
       exec .shutterPinFault s = .next { s with power := { s.power with pinfault := true, frame := none } }) ∧
     (∀ v, s.now = some (.shtin v) → (s.agreed 1 = 0 → exec .shtin s = .next s) ∧
       (s.agreed 1 ≠ 0 → delivers .shtin { s.power with inb := .ofNat 4 v.toNat })) ∧
     (∀ v, s.now = some (.shutterI3cWrite v) → (s.agreed 1 = 0 → exec .shutterI3cWrite s = .next s) ∧
       (s.agreed 1 ≠ 0 → delivers .shutterI3cWrite { s.power with i3c := .ofNat 4 v.toNat })) ∧
     (s.now = some .voltageSettled → exec .voltageSettled s = .next { s with power := { s.power with settled := true } }) ∧
     ∀ w, s.now = some (.powerManagerTick w) → ∃ t, exec .powerManagerTick s = .next t ∧ MemorySame s t ∧ (∀ c, t.ctx c = s.ctx c) ∧
       t.free = s.free + 1 ∧ t.power.energy = s.power.energy + w.toNat ∧
       t.power.samples = (w.toNat :: s.power.samples).take 1000 ∧ top t.power = top s.power ∧
       (∀ k, (∃ e ∈ s.skeins, e.1 = k.toNat) → t.skein k = (s.gaugeNow k).skein k) ∧
       (t.power.met = true ↔ ((w.toNat :: s.power.samples).take 100).sum * 4 ≤ powerLimit s.power.level * 100) ∧
       let p := s.power
       let setting := fun q : Power => (q.cpflPaused, q.gaugeLimit, q.twoPipes, q.clock, q.hbmCap)
       powerLimit p.level < w.toNat * 4 → setting t.power =
         if p.cpflPaused = false then (true, p.gaugeLimit, p.twoPipes, p.clock, p.hbmCap)
         else if 1 < p.gaugeLimit then (true, max 1 (p.gaugeLimit - 2), p.twoPipes, p.clock, p.hbmCap)
         else if p.twoPipes = false then (true, p.gaugeLimit, true, p.clock, p.hbmCap)
         else if 600 < p.clock then (true, p.gaugeLimit, true, p.clock - 100, p.hbmCap)
         else if p.hbmCap < 2 then (true, p.gaugeLimit, true, p.clock, p.hbmCap + 1) else setting p) ∧
  (∀ s : State,
     (s.now = some .pfail →
       (s.power.drain ≠ .none → exec .pfail s = .next s) ∧
       (s.power.drain = .none → ∃ t, exec .pfail s = .next t ∧ MemorySame s t ∧
         t.power = { s.power with drain := .stopping, pfailTime := s.dev.time } ∧ t.dev = s.dev ∧
         ∀ c, let x := s.ctx c
           t.ctx c = if x.st = .running ∧ x.phase = .first ∧ s.finishing c = false then
             { x with park := none, phase := .fetch, spawnTo := none, asked := false, xfer := .next } else x)) ∧
     (s.now = some .pfailStopTimeout →
       let threads := s.listedCtxs.filter fun c => (s.ctx c).st != .idle
       let left := fun c => (s.ctx c).asked = true ∨ (s.atomicAnswered c = true ∧ s.finishing c = false) ∨ ∃ e ∈ (s.core (coreOf c)).tk, e.2.kind = .read ∧ e.2.squashed = false ∧ e.2.ctx = ctxInCore c ∧
         (e.2.state = .sent ∨ e.2.replaying = true) ∧ (e.2.packet.kind = .amo ∨ e.2.packet.kind = .cas)
       let gives := fun c => left c ∧ (s.ctx c).st = .running ∧ (s.ctx c).phase = .first
       let stays := ∃ c ∈ s.listedCtxs, ((s.ctx c).st = .running ∧ (s.ctx c).phase = .second) ∨ (s.finishing c = true ∧ ¬left c)
       let marked := fun t : State => (∀ c, c ∈ t.power.abandoned ↔ c ∈ s.power.abandoned ∨ (c ∈ s.listedCtxs ∧ left c)) ∧
         ∀ c, c ∈ s.listedCtxs → t.ctx c = if gives c then
           { s.ctx c with park := none, phase := .fetch, spawnTo := none, asked := false, xfer := .next } else s.ctx c
       (s.power.drain = .none ∨ s.power.drain = .halted → exec .pfailStopTimeout s = .next s) ∧
       (s.power.drain = .stopping ∨ s.power.drain = .timedOut →
         (stays → ∃ t, exec .pfailStopTimeout s = .next t ∧ MemorySame s t ∧ marked t ∧
           t.power = { s.power with drain := .timedOut, abandoned := t.power.abandoned } ∧ t.boot = s.boot) ∧
         (¬stays → ∃ t seq, exec .pfailStopTimeout s = .next t ∧ marked t ∧
           t = { s with mem := t.mem, ctxs := t.ctxs, cores := t.cores
                        boot := { s.boot with flash := { s.boot.flash with drain := t.boot.flash.drain } }
                        power := { s.power with drain := .writing seq, abandoned := t.power.abandoned } } ∧
           (Memory.wf s.mem = true → ∀ a, readCell t.mem a = if a < 2 ^ 56 then 0 else readCell s.mem a) ∧
           recordVerifies t.boot.flash.drain = false ∧
           seq = if recordVerifies s.boot.flash.drain then (field s.boot.flash.drain 8 8 + 1) % 2 ^ 64 else 1)) ∧
       ∀ seq, s.power.drain = .writing seq → seq < 2 ^ 64 →
         ∃ t, exec .pfailStopTimeout s = .next t ∧
           t = { s with boot := { s.boot with flash := { s.boot.flash with drain := t.boot.flash.drain } }
                        power := { s.power with drain := .halted } } ∧
           let d := t.boot.flash.drain
           (threads.length ≤ 8192 → recordVerifies d = true ∧ field d 32 4 = threads.length ∧
             part d 64 48 = sha384 (part d 0 64 ++ part d 4096 (field d 48 8 - 4096)) ∧
             field d 24 8 = s.power.pfailTime.toNat ∧ field d 16 2 = s.niu.pkgNum.toNat ∧ field d 8 8 = seq ∧
             ∀ (i : Nat) (h : i < threads.length), field d (4096 + 16 * i) 2 = threads[i].toNat)) ∧
     (∀ e r, s.agenda = .event e :: r ∨ s.agenda = .own e :: r → e ≠ .resetRelease →
       s.power.drain = .halted ∨ (e ≠ .pfailStopTimeout ∧ ∃ seq, s.power.drain = .writing seq) →
       step s = .next { s with agenda := r }) ∧
     (s.now = some .pfstatClear → exec .pfstatClear s = .next { s with
       boot := { s.boot with flash := { s.boot.flash with drain := [] } } }))

/-- R318, R319 and the rules it names: a write of an aligned doubleword of device register space leaves the register's writable bits as
written and its other bits zero, and changes no thread, no other register of the space and no byte of memory; a register with a row of its
own is written by that row, which comes next; read-only and unnamed offsets ignore writes; a host reaches nothing from 0x100_0000 on, nor
anything before Safelight (R366). Who may write which register is in part the model's reading (logs 37, 38). -/
def Obligations.RegisterWrites : Prop :=
  ∀ (s : State) (by_ : Accessor) (o : BitVec 28) (v : Dword), s.now = some (.registerWrite by_ o v) →
    let off := o.toNat
    let part_ := by_ ≠ .host
    let among := fun a b : Nat => a ≤ off ∧ off < b ∧ off % 8 = 0
    let leaves := fun t : State => exec .registerWrite s = .next t ∧ MemorySame s t ∧ (∀ c, t.ctx c = s.ctx c) ∧
      ∀ j, j % 8 = 0 → j ≠ off → t.devRead j = s.devRead j
    let keeps := fun mask : Dword => ∃ t, leaves t ∧ t.devRead off = v &&& mask
    let first := fun e : Event => exec .registerWrite s = .next { s with agenda := .own e :: s.agenda }
    let ignored := exec .registerWrite s = .next s
    (by_ = .host → 0x1000000 ≤ off ∨ s.boot.ready.getLsbD 0 = false → ignored) ∧
    (part_ ∨ s.boot.ready.getLsbD 0 = true →
    (off = 0 → first (.versionWrite 0 (slice 16 8 v) (slice 24 8 v))) ∧ (off = 8 → first (.versionWrite 1 (slice 16 8 v) (slice 24 8 v))) ∧
    (off = 0x100 → keeps 0xFFFF) ∧ (off = 0x200 → keeps 0xFFFFFFFFE1FFFF) ∧
    (off = 0x300 → ∃ t, leaves t ∧ t.devRead 0x300 = (s.devRead 0x300 &&& 2) ||| (v &&& 0xFF01) ∧
      (v.getLsbD 2 = true → t.agenda.head? = some (.own .gangRelease))) ∧
    (off = 0x308 → keeps (BitVec.allOnes 64)) ∧ (among 0x400 0x480 → keeps (if off % 16 = 0 then 0x3FFFFFFFFF001 else BitVec.allOnes 64)) ∧
    (off = 0x500 → keeps 0xFFFFFFFFFFFFE0) ∧ (off = 0x508 → keeps 0x1FF) ∧ (off = 0x600 → keeps 0xFFFFFFFFFFE000) ∧
    (off = 0x608 → keeps 0xFFFFFFFF) ∧ (off = 0x618 ∨ off = 0xE18 ∨ off = 0xF10 → keeps 0x3FFF) ∧ (off = 0x700 → keeps 1) ∧
    (off = 0x708 → if v.getLsbD 1 then exec .registerWrite s = .next { s with niu := { s.niu with timeLost := false } } else ignored) ∧
    (among 0x800 0xA20 → ∃ t, leaves t ∧ t.devRead off = v ∧
      t.agenda = if off = 0xA00 then .own (.shootdownRequest 16) :: s.agenda else s.agenda) ∧
    (off = 0xE00 → keeps 0xFFFFFFFFFC0000) ∧ (off = 0xE08 → (∀ f ∈ s.niu.flows, f.lost = []) → keeps 0xFFFFFFFF) ∧
    (off = 0xF00 → keeps (BitVec.allOnes 64)) ∧ (among 0x1000 0x1100 ∨ among 0x1200 0x1280 → keeps (BitVec.allOnes 64)) ∧
    (off = 0x1100 → first (.tnkill v)) ∧ (off = 0x1800 → first (.shtin v)) ∧ (off = 0x620 → first (.tkdone v)) ∧
    (off = 0x710 → first (.ptset v)) ∧ (off = 0x1478 → if by_ = .firmware then first (.srvlock v) else ignored) ∧
    (among 0x1480 0x1500 → if by_ = .firmware ∧ s.boot.srvlock = false then keeps (BitVec.allOnes 64) else ignored) ∧
    (off = 0x1808 → if part_ ∧ v.getLsbD 20 then exec .registerWrite s = .next { s with power := { s.power with pinfault := false } } else ignored) ∧
    (off = 0x1820 → if part_ ∧ v.getLsbD 4 then first .pfstatClear else ignored) ∧
    (∀ p : BitVec 3, off = 0xC00 + 8 * p.toNat → if v.getLsbD 3 then first (.portRetrain p) else ignored) ∧
    (∀ m : BitVec 6, let h := 0x10000 + 64 * m.toNat
      let d := 0x11000 + 64 * m.toNat
      (off = h + 24 → first (.mailboxDoorbell m v)) ∧
      (part_ ∨ m ≠ 0 → (off = h ∨ off = d → keeps 0xFFFFFFFFFFC000) ∧ (off = h + 8 → keeps 0xFFFFFFFFFFF000) ∧
        (off = h + 16 → first (.mailboxOpen false m v)) ∧ (off = h + 40 → first (.mailboxReset false m v)) ∧
        (off = h + 32 → if v.getLsbD 41 then exec .registerWrite s = .next (s.setH2d m { s.h2d m with ovr := false }) else ignored) ∧
        (off = h + 48 → first (.mbsvc m v)) ∧ (off = d + 16 → first (.mailboxOpen true m v)) ∧
        (off = d + 40 → first (.mailboxReset true m v))) ∧
      (off = d + 24 → exec .registerWrite s = .next ((s.setD2h m { s.d2h m with head := v &&& 0xFFFFFFFF }).flushMessages m s.dev.msgs)) ∧
      (by_ = .host → m = 0 → h ≤ off ∧ off < h + 64 ∨ d ≤ off ∧ off < d + 64 → off ≠ h + 24 → off ≠ d + 24 → ignored) ∧
      (h ≤ off → off < h + 64 → off - h ∉ [0, 8, 16, 24, 32, 40, 48] → ignored) ∧
      (d ≤ off → off < d + 64 → off - d ∉ [0, 16, 24, 40] → ignored)) ∧
    (0x20000 ≤ off → off < 0x30000 → let one : Bool := off % 4096 = 0 ∧ v.toNat % 2 ^ 32 = 1 ∨ off % 4096 = 4 ∧ v.toNat % 2 ^ 32 = 0x1000000
      if one then first (.shootdownRequest (.ofNat 5 ((off - 0x20000) / 4096))) else ignored) ∧
    (among 0x800000 0x1000000 → if s.boot.stage = 2 then Memory.wf s.boot.staging = true → keeps (BitVec.allOnes 64) else ignored) ∧
    (part_ → among 0x1000000 0x1800000 →
      let i := off % 0x10000
      let core := coreInSkein (.ofNat 7 ((off - 0x1000000) / 0x10000)) (.ofNat 3 ((i - 0x2000) / 0x1000))
      if i = 0 then ∃ t, leaves t ∧ ∀ c, c < 8 → (t.devRead off).toNat / 2 ^ (4 * c) % 16 = max 1 (v.toNat / 2 ^ (4 * c) % 16)
      else if i = 0x200 then keeps (BitVec.allOnes 64)
      else if 0x100 ≤ i ∧ i < 0x200 then
        (if v.getLsbD 5 then exec .registerWrite s = .next (s.modSkein (.ofNat 7 ((off - 0x1000000) / 0x10000)) fun x =>
          { x with cqfail := x.cqfail &&& ~~~(.ofNat 32 (2 ^ ((i - 0x100) / 8))) }) else ignored)
      else if 0x2000 ≤ i ∧ i < 0xA000 ∧ i % 0x1000 = 0x100 then keeps 0x3FFF
      else if 0x2000 ≤ i ∧ i < 0xA000 ∧ i % 0x1000 = 0x108 then first (.icsend core v)
      else ignored) ∧
    (off % 8 ≠ 0 → ¬(0x20000 ≤ off ∧ off < 0x30000) → ignored) ∧
    (off < 0x10000 → off ∉ [0, 8, 0x100, 0x200, 0x300, 0x308, 0x500, 0x508, 0x600, 0x608, 0x618, 0x620, 0x700, 0x708, 0x710, 0xE00, 0xE08,
        0xE18, 0xF00, 0xF10, 0x1100, 0x1478, 0x1800, 0x1808, 0x1820] →
      ¬(among 0x400 0x480 ∨ among 0x800 0xA20 ∨ among 0xC00 0xC40 ∨ among 0x1000 0x1100 ∨ among 0x1200 0x1280 ∨ among 0x1480 0x1500) →
      ignored) ∧
    (0x12000 ≤ off → off < 0x20000 ∨ 0x30000 ≤ off → off < 0x800000 ∨ 0x1800000 ≤ off → ignored))
end

