-- ==== Sys2Proof/Laws/State.lean ====
section
/-! SUPPORT. Reading a field of the state, or of a context, after an update of it: one lemma per field per update. -/

namespace Sys2Proof.Laws

open Sys2Proof.Machine

/-! ### setCtx -/

@[simp] theorem setCtx_agenda (s : State) (c : CtxId) (x : Ctx) : (s.setCtx c x).agenda = s.agenda := rfl
@[simp] theorem setCtx_now (s : State) (c : CtxId) (x : Ctx) : (s.setCtx c x).now = s.now := rfl
@[simp] theorem setCtx_turns (s : State) (c : CtxId) (x : Ctx) : (s.setCtx c x).turns = s.turns := rfl
@[simp] theorem setCtx_free (s : State) (c : CtxId) (x : Ctx) : (s.setCtx c x).free = s.free := rfl
@[simp] theorem setCtx_cyc (s : State) (c : CtxId) (x : Ctx) : (s.setCtx c x).cyc = s.cyc := rfl
@[simp] theorem setCtx_out (s : State) (c : CtxId) (x : Ctx) : (s.setCtx c x).out = s.out := rfl
@[simp] theorem setCtx_cores (s : State) (c : CtxId) (x : Ctx) : (s.setCtx c x).cores = s.cores := rfl
@[simp] theorem setCtx_skeins (s : State) (c : CtxId) (x : Ctx) : (s.setCtx c x).skeins = s.skeins := rfl
@[simp] theorem setCtx_mem (s : State) (c : CtxId) (x : Ctx) : (s.setCtx c x).mem = s.mem := rfl
@[simp] theorem setCtx_poison (s : State) (c : CtxId) (x : Ctx) : (s.setCtx c x).poison = s.poison := rfl
@[simp] theorem setCtx_msc (s : State) (c : CtxId) (x : Ctx) : (s.setCtx c x).msc = s.msc := rfl
@[simp] theorem setCtx_away (s : State) (c : CtxId) (x : Ctx) : (s.setCtx c x).away = s.away := rfl
@[simp] theorem setCtx_dev (s : State) (c : CtxId) (x : Ctx) : (s.setCtx c x).dev = s.dev := rfl
@[simp] theorem setCtx_niu (s : State) (c : CtxId) (x : Ctx) : (s.setCtx c x).niu = s.niu := rfl
@[simp] theorem setCtx_ras (s : State) (c : CtxId) (x : Ctx) : (s.setCtx c x).ras = s.ras := rfl
@[simp] theorem setCtx_boot (s : State) (c : CtxId) (x : Ctx) : (s.setCtx c x).boot = s.boot := rfl
@[simp] theorem setCtx_power (s : State) (c : CtxId) (x : Ctx) : (s.setCtx c x).power = s.power := rfl

/-! ### modCtx -/

@[simp] theorem modCtx_agenda (s : State) (c : CtxId) (f : Ctx → Ctx) : (s.modCtx c f).agenda = s.agenda := rfl
@[simp] theorem modCtx_now (s : State) (c : CtxId) (f : Ctx → Ctx) : (s.modCtx c f).now = s.now := rfl
@[simp] theorem modCtx_turns (s : State) (c : CtxId) (f : Ctx → Ctx) : (s.modCtx c f).turns = s.turns := rfl
@[simp] theorem modCtx_free (s : State) (c : CtxId) (f : Ctx → Ctx) : (s.modCtx c f).free = s.free := rfl
@[simp] theorem modCtx_cyc (s : State) (c : CtxId) (f : Ctx → Ctx) : (s.modCtx c f).cyc = s.cyc := rfl
@[simp] theorem modCtx_out (s : State) (c : CtxId) (f : Ctx → Ctx) : (s.modCtx c f).out = s.out := rfl
@[simp] theorem modCtx_cores (s : State) (c : CtxId) (f : Ctx → Ctx) : (s.modCtx c f).cores = s.cores := rfl
@[simp] theorem modCtx_skeins (s : State) (c : CtxId) (f : Ctx → Ctx) : (s.modCtx c f).skeins = s.skeins := rfl
@[simp] theorem modCtx_mem (s : State) (c : CtxId) (f : Ctx → Ctx) : (s.modCtx c f).mem = s.mem := rfl
@[simp] theorem modCtx_poison (s : State) (c : CtxId) (f : Ctx → Ctx) : (s.modCtx c f).poison = s.poison := rfl
@[simp] theorem modCtx_msc (s : State) (c : CtxId) (f : Ctx → Ctx) : (s.modCtx c f).msc = s.msc := rfl
@[simp] theorem modCtx_away (s : State) (c : CtxId) (f : Ctx → Ctx) : (s.modCtx c f).away = s.away := rfl
@[simp] theorem modCtx_dev (s : State) (c : CtxId) (f : Ctx → Ctx) : (s.modCtx c f).dev = s.dev := rfl
@[simp] theorem modCtx_niu (s : State) (c : CtxId) (f : Ctx → Ctx) : (s.modCtx c f).niu = s.niu := rfl
@[simp] theorem modCtx_ras (s : State) (c : CtxId) (f : Ctx → Ctx) : (s.modCtx c f).ras = s.ras := rfl
@[simp] theorem modCtx_boot (s : State) (c : CtxId) (f : Ctx → Ctx) : (s.modCtx c f).boot = s.boot := rfl
@[simp] theorem modCtx_power (s : State) (c : CtxId) (f : Ctx → Ctx) : (s.modCtx c f).power = s.power := rfl

/-! ### modMe -/

@[simp] theorem modMe_agenda (s : State) (f : Ctx → Ctx) : (s.modMe f).agenda = s.agenda := rfl
@[simp] theorem modMe_now (s : State) (f : Ctx → Ctx) : (s.modMe f).now = s.now := rfl
@[simp] theorem modMe_turns (s : State) (f : Ctx → Ctx) : (s.modMe f).turns = s.turns := rfl
@[simp] theorem modMe_free (s : State) (f : Ctx → Ctx) : (s.modMe f).free = s.free := rfl
@[simp] theorem modMe_cyc (s : State) (f : Ctx → Ctx) : (s.modMe f).cyc = s.cyc := rfl
@[simp] theorem modMe_out (s : State) (f : Ctx → Ctx) : (s.modMe f).out = s.out := rfl
@[simp] theorem modMe_cores (s : State) (f : Ctx → Ctx) : (s.modMe f).cores = s.cores := rfl
@[simp] theorem modMe_skeins (s : State) (f : Ctx → Ctx) : (s.modMe f).skeins = s.skeins := rfl
@[simp] theorem modMe_mem (s : State) (f : Ctx → Ctx) : (s.modMe f).mem = s.mem := rfl
@[simp] theorem modMe_poison (s : State) (f : Ctx → Ctx) : (s.modMe f).poison = s.poison := rfl
@[simp] theorem modMe_msc (s : State) (f : Ctx → Ctx) : (s.modMe f).msc = s.msc := rfl
@[simp] theorem modMe_away (s : State) (f : Ctx → Ctx) : (s.modMe f).away = s.away := rfl
@[simp] theorem modMe_dev (s : State) (f : Ctx → Ctx) : (s.modMe f).dev = s.dev := rfl
@[simp] theorem modMe_niu (s : State) (f : Ctx → Ctx) : (s.modMe f).niu = s.niu := rfl
@[simp] theorem modMe_ras (s : State) (f : Ctx → Ctx) : (s.modMe f).ras = s.ras := rfl
@[simp] theorem modMe_boot (s : State) (f : Ctx → Ctx) : (s.modMe f).boot = s.boot := rfl
@[simp] theorem modMe_power (s : State) (f : Ctx → Ctx) : (s.modMe f).power = s.power := rfl

/-! ### setX -/

@[simp] theorem setX_agenda (s : State) (r : Reg) (v : Dword) : (s.setX r v).agenda = s.agenda := rfl
@[simp] theorem setX_now (s : State) (r : Reg) (v : Dword) : (s.setX r v).now = s.now := rfl
@[simp] theorem setX_turns (s : State) (r : Reg) (v : Dword) : (s.setX r v).turns = s.turns := rfl
@[simp] theorem setX_free (s : State) (r : Reg) (v : Dword) : (s.setX r v).free = s.free := rfl
@[simp] theorem setX_cyc (s : State) (r : Reg) (v : Dword) : (s.setX r v).cyc = s.cyc := rfl
@[simp] theorem setX_out (s : State) (r : Reg) (v : Dword) : (s.setX r v).out = s.out := rfl
@[simp] theorem setX_cores (s : State) (r : Reg) (v : Dword) : (s.setX r v).cores = s.cores := rfl
@[simp] theorem setX_skeins (s : State) (r : Reg) (v : Dword) : (s.setX r v).skeins = s.skeins := rfl
@[simp] theorem setX_mem (s : State) (r : Reg) (v : Dword) : (s.setX r v).mem = s.mem := rfl
@[simp] theorem setX_poison (s : State) (r : Reg) (v : Dword) : (s.setX r v).poison = s.poison := rfl
@[simp] theorem setX_msc (s : State) (r : Reg) (v : Dword) : (s.setX r v).msc = s.msc := rfl
@[simp] theorem setX_away (s : State) (r : Reg) (v : Dword) : (s.setX r v).away = s.away := rfl
@[simp] theorem setX_dev (s : State) (r : Reg) (v : Dword) : (s.setX r v).dev = s.dev := rfl
@[simp] theorem setX_niu (s : State) (r : Reg) (v : Dword) : (s.setX r v).niu = s.niu := rfl
@[simp] theorem setX_ras (s : State) (r : Reg) (v : Dword) : (s.setX r v).ras = s.ras := rfl
@[simp] theorem setX_boot (s : State) (r : Reg) (v : Dword) : (s.setX r v).boot = s.boot := rfl
@[simp] theorem setX_power (s : State) (r : Reg) (v : Dword) : (s.setX r v).power = s.power := rfl

/-! ### setP -/

@[simp] theorem setP_agenda (s : State) (r : Reg3) (v : Bool) : (s.setP r v).agenda = s.agenda := rfl
@[simp] theorem setP_now (s : State) (r : Reg3) (v : Bool) : (s.setP r v).now = s.now := rfl
@[simp] theorem setP_turns (s : State) (r : Reg3) (v : Bool) : (s.setP r v).turns = s.turns := rfl
@[simp] theorem setP_free (s : State) (r : Reg3) (v : Bool) : (s.setP r v).free = s.free := rfl
@[simp] theorem setP_cyc (s : State) (r : Reg3) (v : Bool) : (s.setP r v).cyc = s.cyc := rfl
@[simp] theorem setP_out (s : State) (r : Reg3) (v : Bool) : (s.setP r v).out = s.out := rfl
@[simp] theorem setP_cores (s : State) (r : Reg3) (v : Bool) : (s.setP r v).cores = s.cores := rfl
@[simp] theorem setP_skeins (s : State) (r : Reg3) (v : Bool) : (s.setP r v).skeins = s.skeins := rfl
@[simp] theorem setP_mem (s : State) (r : Reg3) (v : Bool) : (s.setP r v).mem = s.mem := rfl
@[simp] theorem setP_poison (s : State) (r : Reg3) (v : Bool) : (s.setP r v).poison = s.poison := rfl
@[simp] theorem setP_msc (s : State) (r : Reg3) (v : Bool) : (s.setP r v).msc = s.msc := rfl
@[simp] theorem setP_away (s : State) (r : Reg3) (v : Bool) : (s.setP r v).away = s.away := rfl
@[simp] theorem setP_dev (s : State) (r : Reg3) (v : Bool) : (s.setP r v).dev = s.dev := rfl
@[simp] theorem setP_niu (s : State) (r : Reg3) (v : Bool) : (s.setP r v).niu = s.niu := rfl
@[simp] theorem setP_ras (s : State) (r : Reg3) (v : Bool) : (s.setP r v).ras = s.ras := rfl
@[simp] theorem setP_boot (s : State) (r : Reg3) (v : Bool) : (s.setP r v).boot = s.boot := rfl
@[simp] theorem setP_power (s : State) (r : Reg3) (v : Bool) : (s.setP r v).power = s.power := rfl

/-! ### endC -/

@[simp] theorem endC_agenda (s : State) (x : Xfer) : (s.endC x).agenda = s.agenda := rfl
@[simp] theorem endC_now (s : State) (x : Xfer) : (s.endC x).now = s.now := rfl
@[simp] theorem endC_turns (s : State) (x : Xfer) : (s.endC x).turns = s.turns := rfl
@[simp] theorem endC_free (s : State) (x : Xfer) : (s.endC x).free = s.free := rfl
@[simp] theorem endC_cyc (s : State) (x : Xfer) : (s.endC x).cyc = s.cyc := rfl
@[simp] theorem endC_out (s : State) (x : Xfer) : (s.endC x).out = s.out := rfl
@[simp] theorem endC_cores (s : State) (x : Xfer) : (s.endC x).cores = s.cores := rfl
@[simp] theorem endC_skeins (s : State) (x : Xfer) : (s.endC x).skeins = s.skeins := rfl
@[simp] theorem endC_mem (s : State) (x : Xfer) : (s.endC x).mem = s.mem := rfl
@[simp] theorem endC_poison (s : State) (x : Xfer) : (s.endC x).poison = s.poison := rfl
@[simp] theorem endC_msc (s : State) (x : Xfer) : (s.endC x).msc = s.msc := rfl
@[simp] theorem endC_away (s : State) (x : Xfer) : (s.endC x).away = s.away := rfl
@[simp] theorem endC_dev (s : State) (x : Xfer) : (s.endC x).dev = s.dev := rfl
@[simp] theorem endC_niu (s : State) (x : Xfer) : (s.endC x).niu = s.niu := rfl
@[simp] theorem endC_ras (s : State) (x : Xfer) : (s.endC x).ras = s.ras := rfl
@[simp] theorem endC_boot (s : State) (x : Xfer) : (s.endC x).boot = s.boot := rfl
@[simp] theorem endC_power (s : State) (x : Xfer) : (s.endC x).power = s.power := rfl

/-! ### raise -/

@[simp] theorem raise_agenda (s : State) (c : CtxId) (n : Nat) (v : Dword) : (s.raise c n v).agenda = s.agenda := rfl
@[simp] theorem raise_now (s : State) (c : CtxId) (n : Nat) (v : Dword) : (s.raise c n v).now = s.now := rfl
@[simp] theorem raise_turns (s : State) (c : CtxId) (n : Nat) (v : Dword) : (s.raise c n v).turns = s.turns := rfl
@[simp] theorem raise_free (s : State) (c : CtxId) (n : Nat) (v : Dword) : (s.raise c n v).free = s.free := rfl
@[simp] theorem raise_cyc (s : State) (c : CtxId) (n : Nat) (v : Dword) : (s.raise c n v).cyc = s.cyc := rfl
@[simp] theorem raise_out (s : State) (c : CtxId) (n : Nat) (v : Dword) : (s.raise c n v).out = s.out := rfl
@[simp] theorem raise_cores (s : State) (c : CtxId) (n : Nat) (v : Dword) : (s.raise c n v).cores = s.cores := rfl
@[simp] theorem raise_skeins (s : State) (c : CtxId) (n : Nat) (v : Dword) : (s.raise c n v).skeins = s.skeins := rfl
@[simp] theorem raise_mem (s : State) (c : CtxId) (n : Nat) (v : Dword) : (s.raise c n v).mem = s.mem := rfl
@[simp] theorem raise_poison (s : State) (c : CtxId) (n : Nat) (v : Dword) : (s.raise c n v).poison = s.poison := rfl
@[simp] theorem raise_msc (s : State) (c : CtxId) (n : Nat) (v : Dword) : (s.raise c n v).msc = s.msc := rfl
@[simp] theorem raise_away (s : State) (c : CtxId) (n : Nat) (v : Dword) : (s.raise c n v).away = s.away := rfl
@[simp] theorem raise_dev (s : State) (c : CtxId) (n : Nat) (v : Dword) : (s.raise c n v).dev = s.dev := rfl
@[simp] theorem raise_niu (s : State) (c : CtxId) (n : Nat) (v : Dword) : (s.raise c n v).niu = s.niu := rfl
@[simp] theorem raise_ras (s : State) (c : CtxId) (n : Nat) (v : Dword) : (s.raise c n v).ras = s.ras := rfl
@[simp] theorem raise_boot (s : State) (c : CtxId) (n : Nat) (v : Dword) : (s.raise c n v).boot = s.boot := rfl
@[simp] theorem raise_power (s : State) (c : CtxId) (n : Nat) (v : Dword) : (s.raise c n v).power = s.power := rfl

/-! ### setCore -/

@[simp] theorem setCore_agenda (s : State) (k : CoreId) (x : CoreSt) : (s.setCore k x).agenda = s.agenda := rfl
@[simp] theorem setCore_now (s : State) (k : CoreId) (x : CoreSt) : (s.setCore k x).now = s.now := rfl
@[simp] theorem setCore_turns (s : State) (k : CoreId) (x : CoreSt) : (s.setCore k x).turns = s.turns := rfl
@[simp] theorem setCore_free (s : State) (k : CoreId) (x : CoreSt) : (s.setCore k x).free = s.free := rfl
@[simp] theorem setCore_cyc (s : State) (k : CoreId) (x : CoreSt) : (s.setCore k x).cyc = s.cyc := rfl
@[simp] theorem setCore_out (s : State) (k : CoreId) (x : CoreSt) : (s.setCore k x).out = s.out := rfl
@[simp] theorem setCore_ctxs (s : State) (k : CoreId) (x : CoreSt) : (s.setCore k x).ctxs = s.ctxs := rfl
@[simp] theorem setCore_skeins (s : State) (k : CoreId) (x : CoreSt) : (s.setCore k x).skeins = s.skeins := rfl
@[simp] theorem setCore_mem (s : State) (k : CoreId) (x : CoreSt) : (s.setCore k x).mem = s.mem := rfl
@[simp] theorem setCore_poison (s : State) (k : CoreId) (x : CoreSt) : (s.setCore k x).poison = s.poison := rfl
@[simp] theorem setCore_msc (s : State) (k : CoreId) (x : CoreSt) : (s.setCore k x).msc = s.msc := rfl
@[simp] theorem setCore_away (s : State) (k : CoreId) (x : CoreSt) : (s.setCore k x).away = s.away := rfl
@[simp] theorem setCore_dev (s : State) (k : CoreId) (x : CoreSt) : (s.setCore k x).dev = s.dev := rfl
@[simp] theorem setCore_niu (s : State) (k : CoreId) (x : CoreSt) : (s.setCore k x).niu = s.niu := rfl
@[simp] theorem setCore_ras (s : State) (k : CoreId) (x : CoreSt) : (s.setCore k x).ras = s.ras := rfl
@[simp] theorem setCore_boot (s : State) (k : CoreId) (x : CoreSt) : (s.setCore k x).boot = s.boot := rfl
@[simp] theorem setCore_power (s : State) (k : CoreId) (x : CoreSt) : (s.setCore k x).power = s.power := rfl

/-! ### modCore -/

@[simp] theorem modCore_agenda (s : State) (k : CoreId) (f : CoreSt → CoreSt) : (s.modCore k f).agenda = s.agenda := rfl
@[simp] theorem modCore_now (s : State) (k : CoreId) (f : CoreSt → CoreSt) : (s.modCore k f).now = s.now := rfl
@[simp] theorem modCore_turns (s : State) (k : CoreId) (f : CoreSt → CoreSt) : (s.modCore k f).turns = s.turns := rfl
@[simp] theorem modCore_free (s : State) (k : CoreId) (f : CoreSt → CoreSt) : (s.modCore k f).free = s.free := rfl
@[simp] theorem modCore_cyc (s : State) (k : CoreId) (f : CoreSt → CoreSt) : (s.modCore k f).cyc = s.cyc := rfl
@[simp] theorem modCore_out (s : State) (k : CoreId) (f : CoreSt → CoreSt) : (s.modCore k f).out = s.out := rfl
@[simp] theorem modCore_ctxs (s : State) (k : CoreId) (f : CoreSt → CoreSt) : (s.modCore k f).ctxs = s.ctxs := rfl
@[simp] theorem modCore_skeins (s : State) (k : CoreId) (f : CoreSt → CoreSt) : (s.modCore k f).skeins = s.skeins := rfl
@[simp] theorem modCore_mem (s : State) (k : CoreId) (f : CoreSt → CoreSt) : (s.modCore k f).mem = s.mem := rfl
@[simp] theorem modCore_poison (s : State) (k : CoreId) (f : CoreSt → CoreSt) : (s.modCore k f).poison = s.poison := rfl
@[simp] theorem modCore_msc (s : State) (k : CoreId) (f : CoreSt → CoreSt) : (s.modCore k f).msc = s.msc := rfl
@[simp] theorem modCore_away (s : State) (k : CoreId) (f : CoreSt → CoreSt) : (s.modCore k f).away = s.away := rfl
@[simp] theorem modCore_dev (s : State) (k : CoreId) (f : CoreSt → CoreSt) : (s.modCore k f).dev = s.dev := rfl
@[simp] theorem modCore_niu (s : State) (k : CoreId) (f : CoreSt → CoreSt) : (s.modCore k f).niu = s.niu := rfl
@[simp] theorem modCore_ras (s : State) (k : CoreId) (f : CoreSt → CoreSt) : (s.modCore k f).ras = s.ras := rfl
@[simp] theorem modCore_boot (s : State) (k : CoreId) (f : CoreSt → CoreSt) : (s.modCore k f).boot = s.boot := rfl
@[simp] theorem modCore_power (s : State) (k : CoreId) (f : CoreSt → CoreSt) : (s.modCore k f).power = s.power := rfl

/-! ### leaveFused -/

@[simp] theorem leaveFused_agenda (s : State) (c : CtxId) : (s.leaveFused c).agenda = s.agenda := rfl
@[simp] theorem leaveFused_now (s : State) (c : CtxId) : (s.leaveFused c).now = s.now := rfl
@[simp] theorem leaveFused_turns (s : State) (c : CtxId) : (s.leaveFused c).turns = s.turns := rfl
@[simp] theorem leaveFused_free (s : State) (c : CtxId) : (s.leaveFused c).free = s.free := rfl
@[simp] theorem leaveFused_cyc (s : State) (c : CtxId) : (s.leaveFused c).cyc = s.cyc := rfl
@[simp] theorem leaveFused_out (s : State) (c : CtxId) : (s.leaveFused c).out = s.out := rfl
@[simp] theorem leaveFused_ctxs (s : State) (c : CtxId) : (s.leaveFused c).ctxs = s.ctxs := rfl
@[simp] theorem leaveFused_skeins (s : State) (c : CtxId) : (s.leaveFused c).skeins = s.skeins := rfl
@[simp] theorem leaveFused_mem (s : State) (c : CtxId) : (s.leaveFused c).mem = s.mem := rfl
@[simp] theorem leaveFused_poison (s : State) (c : CtxId) : (s.leaveFused c).poison = s.poison := rfl
@[simp] theorem leaveFused_msc (s : State) (c : CtxId) : (s.leaveFused c).msc = s.msc := rfl
@[simp] theorem leaveFused_away (s : State) (c : CtxId) : (s.leaveFused c).away = s.away := rfl
@[simp] theorem leaveFused_dev (s : State) (c : CtxId) : (s.leaveFused c).dev = s.dev := rfl
@[simp] theorem leaveFused_niu (s : State) (c : CtxId) : (s.leaveFused c).niu = s.niu := rfl
@[simp] theorem leaveFused_ras (s : State) (c : CtxId) : (s.leaveFused c).ras = s.ras := rfl
@[simp] theorem leaveFused_boot (s : State) (c : CtxId) : (s.leaveFused c).boot = s.boot := rfl
@[simp] theorem leaveFused_power (s : State) (c : CtxId) : (s.leaveFused c).power = s.power := rfl

/-! ### setSkein -/

@[simp] theorem setSkein_agenda (s : State) (k : SkeinId) (x : SkeinSt) : (s.setSkein k x).agenda = s.agenda := rfl
@[simp] theorem setSkein_now (s : State) (k : SkeinId) (x : SkeinSt) : (s.setSkein k x).now = s.now := rfl
@[simp] theorem setSkein_turns (s : State) (k : SkeinId) (x : SkeinSt) : (s.setSkein k x).turns = s.turns := rfl
@[simp] theorem setSkein_free (s : State) (k : SkeinId) (x : SkeinSt) : (s.setSkein k x).free = s.free := rfl
@[simp] theorem setSkein_cyc (s : State) (k : SkeinId) (x : SkeinSt) : (s.setSkein k x).cyc = s.cyc := rfl
@[simp] theorem setSkein_out (s : State) (k : SkeinId) (x : SkeinSt) : (s.setSkein k x).out = s.out := rfl
@[simp] theorem setSkein_ctxs (s : State) (k : SkeinId) (x : SkeinSt) : (s.setSkein k x).ctxs = s.ctxs := rfl
@[simp] theorem setSkein_cores (s : State) (k : SkeinId) (x : SkeinSt) : (s.setSkein k x).cores = s.cores := rfl
@[simp] theorem setSkein_mem (s : State) (k : SkeinId) (x : SkeinSt) : (s.setSkein k x).mem = s.mem := rfl
@[simp] theorem setSkein_poison (s : State) (k : SkeinId) (x : SkeinSt) : (s.setSkein k x).poison = s.poison := rfl
@[simp] theorem setSkein_msc (s : State) (k : SkeinId) (x : SkeinSt) : (s.setSkein k x).msc = s.msc := rfl
@[simp] theorem setSkein_away (s : State) (k : SkeinId) (x : SkeinSt) : (s.setSkein k x).away = s.away := rfl
@[simp] theorem setSkein_dev (s : State) (k : SkeinId) (x : SkeinSt) : (s.setSkein k x).dev = s.dev := rfl
@[simp] theorem setSkein_niu (s : State) (k : SkeinId) (x : SkeinSt) : (s.setSkein k x).niu = s.niu := rfl
@[simp] theorem setSkein_ras (s : State) (k : SkeinId) (x : SkeinSt) : (s.setSkein k x).ras = s.ras := rfl
@[simp] theorem setSkein_boot (s : State) (k : SkeinId) (x : SkeinSt) : (s.setSkein k x).boot = s.boot := rfl
@[simp] theorem setSkein_power (s : State) (k : SkeinId) (x : SkeinSt) : (s.setSkein k x).power = s.power := rfl

/-! ### modSkein -/

@[simp] theorem modSkein_agenda (s : State) (k : SkeinId) (f : SkeinSt → SkeinSt) : (s.modSkein k f).agenda = s.agenda := rfl
@[simp] theorem modSkein_now (s : State) (k : SkeinId) (f : SkeinSt → SkeinSt) : (s.modSkein k f).now = s.now := rfl
@[simp] theorem modSkein_turns (s : State) (k : SkeinId) (f : SkeinSt → SkeinSt) : (s.modSkein k f).turns = s.turns := rfl
@[simp] theorem modSkein_free (s : State) (k : SkeinId) (f : SkeinSt → SkeinSt) : (s.modSkein k f).free = s.free := rfl
@[simp] theorem modSkein_cyc (s : State) (k : SkeinId) (f : SkeinSt → SkeinSt) : (s.modSkein k f).cyc = s.cyc := rfl
@[simp] theorem modSkein_out (s : State) (k : SkeinId) (f : SkeinSt → SkeinSt) : (s.modSkein k f).out = s.out := rfl
@[simp] theorem modSkein_ctxs (s : State) (k : SkeinId) (f : SkeinSt → SkeinSt) : (s.modSkein k f).ctxs = s.ctxs := rfl
@[simp] theorem modSkein_cores (s : State) (k : SkeinId) (f : SkeinSt → SkeinSt) : (s.modSkein k f).cores = s.cores := rfl
@[simp] theorem modSkein_mem (s : State) (k : SkeinId) (f : SkeinSt → SkeinSt) : (s.modSkein k f).mem = s.mem := rfl
@[simp] theorem modSkein_poison (s : State) (k : SkeinId) (f : SkeinSt → SkeinSt) : (s.modSkein k f).poison = s.poison := rfl
@[simp] theorem modSkein_msc (s : State) (k : SkeinId) (f : SkeinSt → SkeinSt) : (s.modSkein k f).msc = s.msc := rfl
@[simp] theorem modSkein_away (s : State) (k : SkeinId) (f : SkeinSt → SkeinSt) : (s.modSkein k f).away = s.away := rfl
@[simp] theorem modSkein_dev (s : State) (k : SkeinId) (f : SkeinSt → SkeinSt) : (s.modSkein k f).dev = s.dev := rfl
@[simp] theorem modSkein_niu (s : State) (k : SkeinId) (f : SkeinSt → SkeinSt) : (s.modSkein k f).niu = s.niu := rfl
@[simp] theorem modSkein_ras (s : State) (k : SkeinId) (f : SkeinSt → SkeinSt) : (s.modSkein k f).ras = s.ras := rfl
@[simp] theorem modSkein_boot (s : State) (k : SkeinId) (f : SkeinSt → SkeinSt) : (s.modSkein k f).boot = s.boot := rfl
@[simp] theorem modSkein_power (s : State) (k : SkeinId) (f : SkeinSt → SkeinSt) : (s.modSkein k f).power = s.power := rfl

/-! ### modDev -/

@[simp] theorem modDev_agenda (s : State) (f : Dev → Dev) : (s.modDev f).agenda = s.agenda := rfl
@[simp] theorem modDev_now (s : State) (f : Dev → Dev) : (s.modDev f).now = s.now := rfl
@[simp] theorem modDev_turns (s : State) (f : Dev → Dev) : (s.modDev f).turns = s.turns := rfl
@[simp] theorem modDev_free (s : State) (f : Dev → Dev) : (s.modDev f).free = s.free := rfl
@[simp] theorem modDev_cyc (s : State) (f : Dev → Dev) : (s.modDev f).cyc = s.cyc := rfl
@[simp] theorem modDev_out (s : State) (f : Dev → Dev) : (s.modDev f).out = s.out := rfl
@[simp] theorem modDev_ctxs (s : State) (f : Dev → Dev) : (s.modDev f).ctxs = s.ctxs := rfl
@[simp] theorem modDev_cores (s : State) (f : Dev → Dev) : (s.modDev f).cores = s.cores := rfl
@[simp] theorem modDev_skeins (s : State) (f : Dev → Dev) : (s.modDev f).skeins = s.skeins := rfl
@[simp] theorem modDev_mem (s : State) (f : Dev → Dev) : (s.modDev f).mem = s.mem := rfl
@[simp] theorem modDev_poison (s : State) (f : Dev → Dev) : (s.modDev f).poison = s.poison := rfl
@[simp] theorem modDev_msc (s : State) (f : Dev → Dev) : (s.modDev f).msc = s.msc := rfl
@[simp] theorem modDev_away (s : State) (f : Dev → Dev) : (s.modDev f).away = s.away := rfl
@[simp] theorem modDev_niu (s : State) (f : Dev → Dev) : (s.modDev f).niu = s.niu := rfl
@[simp] theorem modDev_ras (s : State) (f : Dev → Dev) : (s.modDev f).ras = s.ras := rfl
@[simp] theorem modDev_boot (s : State) (f : Dev → Dev) : (s.modDev f).boot = s.boot := rfl
@[simp] theorem modDev_power (s : State) (f : Dev → Dev) : (s.modDev f).power = s.power := rfl

/-! ### modNiu -/

@[simp] theorem modNiu_agenda (s : State) (f : Niu → Niu) : (s.modNiu f).agenda = s.agenda := rfl
@[simp] theorem modNiu_now (s : State) (f : Niu → Niu) : (s.modNiu f).now = s.now := rfl
@[simp] theorem modNiu_turns (s : State) (f : Niu → Niu) : (s.modNiu f).turns = s.turns := rfl
@[simp] theorem modNiu_free (s : State) (f : Niu → Niu) : (s.modNiu f).free = s.free := rfl
@[simp] theorem modNiu_cyc (s : State) (f : Niu → Niu) : (s.modNiu f).cyc = s.cyc := rfl
@[simp] theorem modNiu_out (s : State) (f : Niu → Niu) : (s.modNiu f).out = s.out := rfl
@[simp] theorem modNiu_ctxs (s : State) (f : Niu → Niu) : (s.modNiu f).ctxs = s.ctxs := rfl
@[simp] theorem modNiu_cores (s : State) (f : Niu → Niu) : (s.modNiu f).cores = s.cores := rfl
@[simp] theorem modNiu_skeins (s : State) (f : Niu → Niu) : (s.modNiu f).skeins = s.skeins := rfl
@[simp] theorem modNiu_mem (s : State) (f : Niu → Niu) : (s.modNiu f).mem = s.mem := rfl
@[simp] theorem modNiu_poison (s : State) (f : Niu → Niu) : (s.modNiu f).poison = s.poison := rfl
@[simp] theorem modNiu_msc (s : State) (f : Niu → Niu) : (s.modNiu f).msc = s.msc := rfl
@[simp] theorem modNiu_away (s : State) (f : Niu → Niu) : (s.modNiu f).away = s.away := rfl
@[simp] theorem modNiu_dev (s : State) (f : Niu → Niu) : (s.modNiu f).dev = s.dev := rfl
@[simp] theorem modNiu_ras (s : State) (f : Niu → Niu) : (s.modNiu f).ras = s.ras := rfl
@[simp] theorem modNiu_boot (s : State) (f : Niu → Niu) : (s.modNiu f).boot = s.boot := rfl
@[simp] theorem modNiu_power (s : State) (f : Niu → Niu) : (s.modNiu f).power = s.power := rfl

/-! ### modRas -/

@[simp] theorem modRas_agenda (s : State) (f : Ras → Ras) : (s.modRas f).agenda = s.agenda := rfl
@[simp] theorem modRas_now (s : State) (f : Ras → Ras) : (s.modRas f).now = s.now := rfl
@[simp] theorem modRas_turns (s : State) (f : Ras → Ras) : (s.modRas f).turns = s.turns := rfl
@[simp] theorem modRas_free (s : State) (f : Ras → Ras) : (s.modRas f).free = s.free := rfl
@[simp] theorem modRas_cyc (s : State) (f : Ras → Ras) : (s.modRas f).cyc = s.cyc := rfl
@[simp] theorem modRas_out (s : State) (f : Ras → Ras) : (s.modRas f).out = s.out := rfl
@[simp] theorem modRas_ctxs (s : State) (f : Ras → Ras) : (s.modRas f).ctxs = s.ctxs := rfl
@[simp] theorem modRas_cores (s : State) (f : Ras → Ras) : (s.modRas f).cores = s.cores := rfl
@[simp] theorem modRas_skeins (s : State) (f : Ras → Ras) : (s.modRas f).skeins = s.skeins := rfl
@[simp] theorem modRas_mem (s : State) (f : Ras → Ras) : (s.modRas f).mem = s.mem := rfl
@[simp] theorem modRas_poison (s : State) (f : Ras → Ras) : (s.modRas f).poison = s.poison := rfl
@[simp] theorem modRas_msc (s : State) (f : Ras → Ras) : (s.modRas f).msc = s.msc := rfl
@[simp] theorem modRas_away (s : State) (f : Ras → Ras) : (s.modRas f).away = s.away := rfl
@[simp] theorem modRas_dev (s : State) (f : Ras → Ras) : (s.modRas f).dev = s.dev := rfl
@[simp] theorem modRas_niu (s : State) (f : Ras → Ras) : (s.modRas f).niu = s.niu := rfl
@[simp] theorem modRas_boot (s : State) (f : Ras → Ras) : (s.modRas f).boot = s.boot := rfl
@[simp] theorem modRas_power (s : State) (f : Ras → Ras) : (s.modRas f).power = s.power := rfl

/-! ### emit -/

@[simp] theorem emit_agenda (s : State) (o : Output) : (s.emit o).agenda = s.agenda := rfl
@[simp] theorem emit_now (s : State) (o : Output) : (s.emit o).now = s.now := rfl
@[simp] theorem emit_turns (s : State) (o : Output) : (s.emit o).turns = s.turns := rfl
@[simp] theorem emit_free (s : State) (o : Output) : (s.emit o).free = s.free := rfl
@[simp] theorem emit_cyc (s : State) (o : Output) : (s.emit o).cyc = s.cyc := rfl
@[simp] theorem emit_ctxs (s : State) (o : Output) : (s.emit o).ctxs = s.ctxs := rfl
@[simp] theorem emit_cores (s : State) (o : Output) : (s.emit o).cores = s.cores := rfl
@[simp] theorem emit_skeins (s : State) (o : Output) : (s.emit o).skeins = s.skeins := rfl
@[simp] theorem emit_mem (s : State) (o : Output) : (s.emit o).mem = s.mem := rfl
@[simp] theorem emit_poison (s : State) (o : Output) : (s.emit o).poison = s.poison := rfl
@[simp] theorem emit_msc (s : State) (o : Output) : (s.emit o).msc = s.msc := rfl
@[simp] theorem emit_away (s : State) (o : Output) : (s.emit o).away = s.away := rfl
@[simp] theorem emit_dev (s : State) (o : Output) : (s.emit o).dev = s.dev := rfl
@[simp] theorem emit_niu (s : State) (o : Output) : (s.emit o).niu = s.niu := rfl
@[simp] theorem emit_ras (s : State) (o : Output) : (s.emit o).ras = s.ras := rfl
@[simp] theorem emit_boot (s : State) (o : Output) : (s.emit o).boot = s.boot := rfl
@[simp] theorem emit_power (s : State) (o : Output) : (s.emit o).power = s.power := rfl

/-! ### post -/

@[simp] theorem post_now (s : State) (e : Event) : (s.post e).now = s.now := rfl
@[simp] theorem post_turns (s : State) (e : Event) : (s.post e).turns = s.turns := rfl
@[simp] theorem post_free (s : State) (e : Event) : (s.post e).free = s.free := rfl
@[simp] theorem post_cyc (s : State) (e : Event) : (s.post e).cyc = s.cyc := rfl
@[simp] theorem post_out (s : State) (e : Event) : (s.post e).out = s.out := rfl
@[simp] theorem post_ctxs (s : State) (e : Event) : (s.post e).ctxs = s.ctxs := rfl
@[simp] theorem post_cores (s : State) (e : Event) : (s.post e).cores = s.cores := rfl
@[simp] theorem post_skeins (s : State) (e : Event) : (s.post e).skeins = s.skeins := rfl
@[simp] theorem post_mem (s : State) (e : Event) : (s.post e).mem = s.mem := rfl
@[simp] theorem post_poison (s : State) (e : Event) : (s.post e).poison = s.poison := rfl
@[simp] theorem post_msc (s : State) (e : Event) : (s.post e).msc = s.msc := rfl
@[simp] theorem post_away (s : State) (e : Event) : (s.post e).away = s.away := rfl
@[simp] theorem post_dev (s : State) (e : Event) : (s.post e).dev = s.dev := rfl
@[simp] theorem post_niu (s : State) (e : Event) : (s.post e).niu = s.niu := rfl
@[simp] theorem post_ras (s : State) (e : Event) : (s.post e).ras = s.ras := rfl
@[simp] theorem post_boot (s : State) (e : Event) : (s.post e).boot = s.boot := rfl
@[simp] theorem post_power (s : State) (e : Event) : (s.post e).power = s.power := rfl

/-! ### postFirst -/

@[simp] theorem postFirst_now (s : State) (e : Event) : (s.postFirst e).now = s.now := rfl
@[simp] theorem postFirst_turns (s : State) (e : Event) : (s.postFirst e).turns = s.turns := rfl
@[simp] theorem postFirst_free (s : State) (e : Event) : (s.postFirst e).free = s.free := rfl
@[simp] theorem postFirst_cyc (s : State) (e : Event) : (s.postFirst e).cyc = s.cyc := rfl
@[simp] theorem postFirst_out (s : State) (e : Event) : (s.postFirst e).out = s.out := rfl
@[simp] theorem postFirst_ctxs (s : State) (e : Event) : (s.postFirst e).ctxs = s.ctxs := rfl
@[simp] theorem postFirst_cores (s : State) (e : Event) : (s.postFirst e).cores = s.cores := rfl
@[simp] theorem postFirst_skeins (s : State) (e : Event) : (s.postFirst e).skeins = s.skeins := rfl
@[simp] theorem postFirst_mem (s : State) (e : Event) : (s.postFirst e).mem = s.mem := rfl
@[simp] theorem postFirst_poison (s : State) (e : Event) : (s.postFirst e).poison = s.poison := rfl
@[simp] theorem postFirst_msc (s : State) (e : Event) : (s.postFirst e).msc = s.msc := rfl
@[simp] theorem postFirst_away (s : State) (e : Event) : (s.postFirst e).away = s.away := rfl
@[simp] theorem postFirst_dev (s : State) (e : Event) : (s.postFirst e).dev = s.dev := rfl
@[simp] theorem postFirst_niu (s : State) (e : Event) : (s.postFirst e).niu = s.niu := rfl
@[simp] theorem postFirst_ras (s : State) (e : Event) : (s.postFirst e).ras = s.ras := rfl
@[simp] theorem postFirst_boot (s : State) (e : Event) : (s.postFirst e).boot = s.boot := rfl
@[simp] theorem postFirst_power (s : State) (e : Event) : (s.postFirst e).power = s.power := rfl

/-! ### postHead -/

@[simp] theorem postHead_now (s : State) (e : Event) : (s.postHead e).now = s.now := rfl
@[simp] theorem postHead_turns (s : State) (e : Event) : (s.postHead e).turns = s.turns := rfl
@[simp] theorem postHead_free (s : State) (e : Event) : (s.postHead e).free = s.free := rfl
@[simp] theorem postHead_cyc (s : State) (e : Event) : (s.postHead e).cyc = s.cyc := rfl
@[simp] theorem postHead_out (s : State) (e : Event) : (s.postHead e).out = s.out := rfl
@[simp] theorem postHead_ctxs (s : State) (e : Event) : (s.postHead e).ctxs = s.ctxs := rfl
@[simp] theorem postHead_cores (s : State) (e : Event) : (s.postHead e).cores = s.cores := rfl
@[simp] theorem postHead_skeins (s : State) (e : Event) : (s.postHead e).skeins = s.skeins := rfl
@[simp] theorem postHead_mem (s : State) (e : Event) : (s.postHead e).mem = s.mem := rfl
@[simp] theorem postHead_poison (s : State) (e : Event) : (s.postHead e).poison = s.poison := rfl
@[simp] theorem postHead_msc (s : State) (e : Event) : (s.postHead e).msc = s.msc := rfl
@[simp] theorem postHead_away (s : State) (e : Event) : (s.postHead e).away = s.away := rfl
@[simp] theorem postHead_dev (s : State) (e : Event) : (s.postHead e).dev = s.dev := rfl
@[simp] theorem postHead_niu (s : State) (e : Event) : (s.postHead e).niu = s.niu := rfl
@[simp] theorem postHead_ras (s : State) (e : Event) : (s.postHead e).ras = s.ras := rfl
@[simp] theorem postHead_boot (s : State) (e : Event) : (s.postHead e).boot = s.boot := rfl
@[simp] theorem postHead_power (s : State) (e : Event) : (s.postHead e).power = s.power := rfl

/-! ### writeMem -/

@[simp] theorem writeMem_agenda (s : State) (l : List (Nat × Byte)) : (s.writeMem l).agenda = s.agenda := rfl
@[simp] theorem writeMem_now (s : State) (l : List (Nat × Byte)) : (s.writeMem l).now = s.now := rfl
@[simp] theorem writeMem_turns (s : State) (l : List (Nat × Byte)) : (s.writeMem l).turns = s.turns := rfl
@[simp] theorem writeMem_free (s : State) (l : List (Nat × Byte)) : (s.writeMem l).free = s.free := rfl
@[simp] theorem writeMem_cyc (s : State) (l : List (Nat × Byte)) : (s.writeMem l).cyc = s.cyc := rfl
@[simp] theorem writeMem_out (s : State) (l : List (Nat × Byte)) : (s.writeMem l).out = s.out := rfl
@[simp] theorem writeMem_ctxs (s : State) (l : List (Nat × Byte)) : (s.writeMem l).ctxs = s.ctxs := rfl
@[simp] theorem writeMem_cores (s : State) (l : List (Nat × Byte)) : (s.writeMem l).cores = s.cores := rfl
@[simp] theorem writeMem_skeins (s : State) (l : List (Nat × Byte)) : (s.writeMem l).skeins = s.skeins := rfl
@[simp] theorem writeMem_poison (s : State) (l : List (Nat × Byte)) : (s.writeMem l).poison = s.poison := rfl
@[simp] theorem writeMem_msc (s : State) (l : List (Nat × Byte)) : (s.writeMem l).msc = s.msc := rfl
@[simp] theorem writeMem_away (s : State) (l : List (Nat × Byte)) : (s.writeMem l).away = s.away := rfl
@[simp] theorem writeMem_dev (s : State) (l : List (Nat × Byte)) : (s.writeMem l).dev = s.dev := rfl
@[simp] theorem writeMem_niu (s : State) (l : List (Nat × Byte)) : (s.writeMem l).niu = s.niu := rfl
@[simp] theorem writeMem_ras (s : State) (l : List (Nat × Byte)) : (s.writeMem l).ras = s.ras := rfl
@[simp] theorem writeMem_boot (s : State) (l : List (Nat × Byte)) : (s.writeMem l).boot = s.boot := rfl
@[simp] theorem writeMem_power (s : State) (l : List (Nat × Byte)) : (s.writeMem l).power = s.power := rfl

/-! ### clearPoison -/

@[simp] theorem clearPoison_agenda (s : State) (a : Nat) : (s.clearPoison a).agenda = s.agenda := rfl
@[simp] theorem clearPoison_now (s : State) (a : Nat) : (s.clearPoison a).now = s.now := rfl
@[simp] theorem clearPoison_turns (s : State) (a : Nat) : (s.clearPoison a).turns = s.turns := rfl
@[simp] theorem clearPoison_free (s : State) (a : Nat) : (s.clearPoison a).free = s.free := rfl
@[simp] theorem clearPoison_cyc (s : State) (a : Nat) : (s.clearPoison a).cyc = s.cyc := rfl
@[simp] theorem clearPoison_out (s : State) (a : Nat) : (s.clearPoison a).out = s.out := rfl
@[simp] theorem clearPoison_ctxs (s : State) (a : Nat) : (s.clearPoison a).ctxs = s.ctxs := rfl
@[simp] theorem clearPoison_cores (s : State) (a : Nat) : (s.clearPoison a).cores = s.cores := rfl
@[simp] theorem clearPoison_skeins (s : State) (a : Nat) : (s.clearPoison a).skeins = s.skeins := rfl
@[simp] theorem clearPoison_mem (s : State) (a : Nat) : (s.clearPoison a).mem = s.mem := rfl
@[simp] theorem clearPoison_msc (s : State) (a : Nat) : (s.clearPoison a).msc = s.msc := rfl
@[simp] theorem clearPoison_away (s : State) (a : Nat) : (s.clearPoison a).away = s.away := rfl
@[simp] theorem clearPoison_dev (s : State) (a : Nat) : (s.clearPoison a).dev = s.dev := rfl
@[simp] theorem clearPoison_niu (s : State) (a : Nat) : (s.clearPoison a).niu = s.niu := rfl
@[simp] theorem clearPoison_ras (s : State) (a : Nat) : (s.clearPoison a).ras = s.ras := rfl
@[simp] theorem clearPoison_boot (s : State) (a : Nat) : (s.clearPoison a).boot = s.boot := rfl
@[simp] theorem clearPoison_power (s : State) (a : Nat) : (s.clearPoison a).power = s.power := rfl

/-! ### setReady -/

@[simp] theorem setReady_agenda (s : State) (n : Nat) : (s.setReady n).agenda = s.agenda := rfl
@[simp] theorem setReady_now (s : State) (n : Nat) : (s.setReady n).now = s.now := rfl
@[simp] theorem setReady_turns (s : State) (n : Nat) : (s.setReady n).turns = s.turns := rfl
@[simp] theorem setReady_free (s : State) (n : Nat) : (s.setReady n).free = s.free := rfl
@[simp] theorem setReady_cyc (s : State) (n : Nat) : (s.setReady n).cyc = s.cyc := rfl
@[simp] theorem setReady_out (s : State) (n : Nat) : (s.setReady n).out = s.out := rfl
@[simp] theorem setReady_ctxs (s : State) (n : Nat) : (s.setReady n).ctxs = s.ctxs := rfl
@[simp] theorem setReady_cores (s : State) (n : Nat) : (s.setReady n).cores = s.cores := rfl
@[simp] theorem setReady_skeins (s : State) (n : Nat) : (s.setReady n).skeins = s.skeins := rfl
@[simp] theorem setReady_mem (s : State) (n : Nat) : (s.setReady n).mem = s.mem := rfl
@[simp] theorem setReady_poison (s : State) (n : Nat) : (s.setReady n).poison = s.poison := rfl
@[simp] theorem setReady_msc (s : State) (n : Nat) : (s.setReady n).msc = s.msc := rfl
@[simp] theorem setReady_away (s : State) (n : Nat) : (s.setReady n).away = s.away := rfl
@[simp] theorem setReady_dev (s : State) (n : Nat) : (s.setReady n).dev = s.dev := rfl
@[simp] theorem setReady_niu (s : State) (n : Nat) : (s.setReady n).niu = s.niu := rfl
@[simp] theorem setReady_ras (s : State) (n : Nat) : (s.setReady n).ras = s.ras := rfl
@[simp] theorem setReady_power (s : State) (n : Nat) : (s.setReady n).power = s.power := rfl

/-! ### A context -/

@[simp] theorem ctx_goto_st (c : Ctx) (w : Dword) : (c.goto w).st = c.st := rfl
@[simp] theorem ctx_goto_park (c : Ctx) (w : Dword) : (c.goto w).park = c.park := rfl
@[simp] theorem ctx_goto_bundle (c : Ctx) (w : Dword) : (c.goto w).bundle = c.bundle := rfl
@[simp] theorem ctx_goto_trapTo (c : Ctx) (w : Dword) : (c.goto w).trapTo = c.trapTo := rfl
@[simp] theorem ctx_goto_fwTo (c : Ctx) (w : Dword) : (c.goto w).fwTo = c.fwTo := rfl
@[simp] theorem ctx_goto_spawnTo (c : Ctx) (w : Dword) : (c.goto w).spawnTo = c.spawnTo := rfl
@[simp] theorem ctx_goto_asked (c : Ctx) (w : Dword) : (c.goto w).asked = c.asked := rfl
@[simp] theorem ctx_goto_fetched (c : Ctx) (w : Dword) : (c.goto w).fetched = c.fetched := rfl
@[simp] theorem ctx_goto_x (c : Ctx) (w : Dword) : (c.goto w).x = c.x := rfl
@[simp] theorem ctx_goto_p (c : Ctx) (w : Dword) : (c.goto w).p = c.p := rfl
@[simp] theorem ctx_goto_b (c : Ctx) (w : Dword) : (c.goto w).b = c.b := rfl
@[simp] theorem ctx_goto_v (c : Ctx) (w : Dword) : (c.goto w).v = c.v := rfl
@[simp] theorem ctx_goto_k (c : Ctx) (w : Dword) : (c.goto w).k = c.k := rfl
@[simp] theorem ctx_goto_m (c : Ctx) (w : Dword) : (c.goto w).m = c.m := rfl
@[simp] theorem ctx_goto_tile (c : Ctx) (w : Dword) : (c.goto w).tile = c.tile := rfl
@[simp] theorem ctx_goto_tslots (c : Ctx) (w : Dword) : (c.goto w).tslots = c.tslots := rfl
@[simp] theorem ctx_goto_fmt (c : Ctx) (w : Dword) : (c.goto w).fmt = c.fmt := rfl
@[simp] theorem ctx_goto_cw (c : Ctx) (w : Dword) : (c.goto w).cw = c.cw := rfl
@[simp] theorem ctx_goto_latch (c : Ctx) (w : Dword) : (c.goto w).latch = c.latch := rfl
@[simp] theorem ctx_goto_mbSrc (c : Ctx) (w : Dword) : (c.goto w).mbSrc = c.mbSrc := rfl
@[simp] theorem ctx_goto_icSrc (c : Ctx) (w : Dword) : (c.goto w).icSrc = c.icSrc := rfl
@[simp] theorem ctx_goto_stores (c : Ctx) (w : Dword) : (c.goto w).stores = c.stores := rfl
@[simp] theorem ctx_goto_fails (c : Ctx) (w : Dword) : (c.goto w).fails = c.fails := rfl
@[simp] theorem ctx_goto_lost (c : Ctx) (w : Dword) : (c.goto w).lost = c.lost := rfl
@[simp] theorem ctx_goto_comp (c : Ctx) (w : Dword) : (c.goto w).comp = c.comp := rfl
@[simp] theorem ctx_goto_start (c : Ctx) (w : Dword) : (c.goto w).start = c.start := rfl
@[simp] theorem ctx_goto_urgent (c : Ctx) (w : Dword) : (c.goto w).urgent = c.urgent := rfl
@[simp] theorem ctx_goto_waitCount (c : Ctx) (w : Dword) : (c.goto w).waitCount = c.waitCount := rfl
@[simp] theorem ctx_goto_pausedTill (c : Ctx) (w : Dword) : (c.goto w).pausedTill = c.pausedTill := rfl
@[simp] theorem ctx_goto_mkRec (c : Ctx) (w : Dword) : (c.goto w).mkRec = c.mkRec := rfl
@[simp] theorem ctx_goto_checks (c : Ctx) (w : Dword) : (c.goto w).checks = c.checks := rfl

@[simp] theorem ctx_raiseFlags_st (c : Ctx) (g : FpFlags) : (c.raiseFlags g).st = c.st := rfl
@[simp] theorem ctx_raiseFlags_park (c : Ctx) (g : FpFlags) : (c.raiseFlags g).park = c.park := rfl
@[simp] theorem ctx_raiseFlags_pc (c : Ctx) (g : FpFlags) : (c.raiseFlags g).pc = c.pc := rfl
@[simp] theorem ctx_raiseFlags_slotA (c : Ctx) (g : FpFlags) : (c.raiseFlags g).slotA = c.slotA := rfl
@[simp] theorem ctx_raiseFlags_phase (c : Ctx) (g : FpFlags) : (c.raiseFlags g).phase = c.phase := rfl
@[simp] theorem ctx_raiseFlags_bundle (c : Ctx) (g : FpFlags) : (c.raiseFlags g).bundle = c.bundle := rfl
@[simp] theorem ctx_raiseFlags_trapTo (c : Ctx) (g : FpFlags) : (c.raiseFlags g).trapTo = c.trapTo := rfl
@[simp] theorem ctx_raiseFlags_fwTo (c : Ctx) (g : FpFlags) : (c.raiseFlags g).fwTo = c.fwTo := rfl
@[simp] theorem ctx_raiseFlags_spawnTo (c : Ctx) (g : FpFlags) : (c.raiseFlags g).spawnTo = c.spawnTo := rfl
@[simp] theorem ctx_raiseFlags_asked (c : Ctx) (g : FpFlags) : (c.raiseFlags g).asked = c.asked := rfl
@[simp] theorem ctx_raiseFlags_fetched (c : Ctx) (g : FpFlags) : (c.raiseFlags g).fetched = c.fetched := rfl
@[simp] theorem ctx_raiseFlags_xfer (c : Ctx) (g : FpFlags) : (c.raiseFlags g).xfer = c.xfer := rfl
@[simp] theorem ctx_raiseFlags_x (c : Ctx) (g : FpFlags) : (c.raiseFlags g).x = c.x := rfl
@[simp] theorem ctx_raiseFlags_p (c : Ctx) (g : FpFlags) : (c.raiseFlags g).p = c.p := rfl
@[simp] theorem ctx_raiseFlags_b (c : Ctx) (g : FpFlags) : (c.raiseFlags g).b = c.b := rfl
@[simp] theorem ctx_raiseFlags_v (c : Ctx) (g : FpFlags) : (c.raiseFlags g).v = c.v := rfl
@[simp] theorem ctx_raiseFlags_k (c : Ctx) (g : FpFlags) : (c.raiseFlags g).k = c.k := rfl
@[simp] theorem ctx_raiseFlags_m (c : Ctx) (g : FpFlags) : (c.raiseFlags g).m = c.m := rfl
@[simp] theorem ctx_raiseFlags_tile (c : Ctx) (g : FpFlags) : (c.raiseFlags g).tile = c.tile := rfl
@[simp] theorem ctx_raiseFlags_tslots (c : Ctx) (g : FpFlags) : (c.raiseFlags g).tslots = c.tslots := rfl
@[simp] theorem ctx_raiseFlags_fmt (c : Ctx) (g : FpFlags) : (c.raiseFlags g).fmt = c.fmt := rfl
@[simp] theorem ctx_raiseFlags_latch (c : Ctx) (g : FpFlags) : (c.raiseFlags g).latch = c.latch := rfl
@[simp] theorem ctx_raiseFlags_mbSrc (c : Ctx) (g : FpFlags) : (c.raiseFlags g).mbSrc = c.mbSrc := rfl
@[simp] theorem ctx_raiseFlags_icSrc (c : Ctx) (g : FpFlags) : (c.raiseFlags g).icSrc = c.icSrc := rfl
@[simp] theorem ctx_raiseFlags_stores (c : Ctx) (g : FpFlags) : (c.raiseFlags g).stores = c.stores := rfl
@[simp] theorem ctx_raiseFlags_fails (c : Ctx) (g : FpFlags) : (c.raiseFlags g).fails = c.fails := rfl
@[simp] theorem ctx_raiseFlags_lost (c : Ctx) (g : FpFlags) : (c.raiseFlags g).lost = c.lost := rfl
@[simp] theorem ctx_raiseFlags_comp (c : Ctx) (g : FpFlags) : (c.raiseFlags g).comp = c.comp := rfl
@[simp] theorem ctx_raiseFlags_start (c : Ctx) (g : FpFlags) : (c.raiseFlags g).start = c.start := rfl
@[simp] theorem ctx_raiseFlags_urgent (c : Ctx) (g : FpFlags) : (c.raiseFlags g).urgent = c.urgent := rfl
@[simp] theorem ctx_raiseFlags_waitCount (c : Ctx) (g : FpFlags) : (c.raiseFlags g).waitCount = c.waitCount := rfl
@[simp] theorem ctx_raiseFlags_pausedTill (c : Ctx) (g : FpFlags) : (c.raiseFlags g).pausedTill = c.pausedTill := rfl
@[simp] theorem ctx_raiseFlags_mkRec (c : Ctx) (g : FpFlags) : (c.raiseFlags g).mkRec = c.mkRec := rfl
@[simp] theorem ctx_raiseFlags_checks (c : Ctx) (g : FpFlags) : (c.raiseFlags g).checks = c.checks := rfl

@[simp] theorem ctx_setV_st (c : Ctx) (r : Reg) (w : VReg) : (c.setV r w).st = c.st := rfl
@[simp] theorem ctx_setV_park (c : Ctx) (r : Reg) (w : VReg) : (c.setV r w).park = c.park := rfl
@[simp] theorem ctx_setV_pc (c : Ctx) (r : Reg) (w : VReg) : (c.setV r w).pc = c.pc := rfl
@[simp] theorem ctx_setV_slotA (c : Ctx) (r : Reg) (w : VReg) : (c.setV r w).slotA = c.slotA := rfl
@[simp] theorem ctx_setV_phase (c : Ctx) (r : Reg) (w : VReg) : (c.setV r w).phase = c.phase := rfl
@[simp] theorem ctx_setV_bundle (c : Ctx) (r : Reg) (w : VReg) : (c.setV r w).bundle = c.bundle := rfl
@[simp] theorem ctx_setV_trapTo (c : Ctx) (r : Reg) (w : VReg) : (c.setV r w).trapTo = c.trapTo := rfl
@[simp] theorem ctx_setV_fwTo (c : Ctx) (r : Reg) (w : VReg) : (c.setV r w).fwTo = c.fwTo := rfl
@[simp] theorem ctx_setV_spawnTo (c : Ctx) (r : Reg) (w : VReg) : (c.setV r w).spawnTo = c.spawnTo := rfl
@[simp] theorem ctx_setV_asked (c : Ctx) (r : Reg) (w : VReg) : (c.setV r w).asked = c.asked := rfl
@[simp] theorem ctx_setV_fetched (c : Ctx) (r : Reg) (w : VReg) : (c.setV r w).fetched = c.fetched := rfl
@[simp] theorem ctx_setV_xfer (c : Ctx) (r : Reg) (w : VReg) : (c.setV r w).xfer = c.xfer := rfl
@[simp] theorem ctx_setV_x (c : Ctx) (r : Reg) (w : VReg) : (c.setV r w).x = c.x := rfl
@[simp] theorem ctx_setV_p (c : Ctx) (r : Reg) (w : VReg) : (c.setV r w).p = c.p := rfl
@[simp] theorem ctx_setV_b (c : Ctx) (r : Reg) (w : VReg) : (c.setV r w).b = c.b := rfl
@[simp] theorem ctx_setV_k (c : Ctx) (r : Reg) (w : VReg) : (c.setV r w).k = c.k := rfl
@[simp] theorem ctx_setV_m (c : Ctx) (r : Reg) (w : VReg) : (c.setV r w).m = c.m := rfl
@[simp] theorem ctx_setV_tile (c : Ctx) (r : Reg) (w : VReg) : (c.setV r w).tile = c.tile := rfl
@[simp] theorem ctx_setV_tslots (c : Ctx) (r : Reg) (w : VReg) : (c.setV r w).tslots = c.tslots := rfl
@[simp] theorem ctx_setV_fmt (c : Ctx) (r : Reg) (w : VReg) : (c.setV r w).fmt = c.fmt := rfl
@[simp] theorem ctx_setV_cw (c : Ctx) (r : Reg) (w : VReg) : (c.setV r w).cw = c.cw := rfl
@[simp] theorem ctx_setV_latch (c : Ctx) (r : Reg) (w : VReg) : (c.setV r w).latch = c.latch := rfl
@[simp] theorem ctx_setV_mbSrc (c : Ctx) (r : Reg) (w : VReg) : (c.setV r w).mbSrc = c.mbSrc := rfl
@[simp] theorem ctx_setV_icSrc (c : Ctx) (r : Reg) (w : VReg) : (c.setV r w).icSrc = c.icSrc := rfl
@[simp] theorem ctx_setV_stores (c : Ctx) (r : Reg) (w : VReg) : (c.setV r w).stores = c.stores := rfl
@[simp] theorem ctx_setV_fails (c : Ctx) (r : Reg) (w : VReg) : (c.setV r w).fails = c.fails := rfl
@[simp] theorem ctx_setV_lost (c : Ctx) (r : Reg) (w : VReg) : (c.setV r w).lost = c.lost := rfl
@[simp] theorem ctx_setV_comp (c : Ctx) (r : Reg) (w : VReg) : (c.setV r w).comp = c.comp := rfl
@[simp] theorem ctx_setV_start (c : Ctx) (r : Reg) (w : VReg) : (c.setV r w).start = c.start := rfl
@[simp] theorem ctx_setV_urgent (c : Ctx) (r : Reg) (w : VReg) : (c.setV r w).urgent = c.urgent := rfl
@[simp] theorem ctx_setV_waitCount (c : Ctx) (r : Reg) (w : VReg) : (c.setV r w).waitCount = c.waitCount := rfl
@[simp] theorem ctx_setV_pausedTill (c : Ctx) (r : Reg) (w : VReg) : (c.setV r w).pausedTill = c.pausedTill := rfl
@[simp] theorem ctx_setV_mkRec (c : Ctx) (r : Reg) (w : VReg) : (c.setV r w).mkRec = c.mkRec := rfl
@[simp] theorem ctx_setV_checks (c : Ctx) (r : Reg) (w : VReg) : (c.setV r w).checks = c.checks := rfl

@[simp] theorem ctx_setB_st (c : Ctx) (r : Reg3) (w : BReg) : (c.setB r w).st = c.st := rfl
@[simp] theorem ctx_setB_park (c : Ctx) (r : Reg3) (w : BReg) : (c.setB r w).park = c.park := rfl
@[simp] theorem ctx_setB_pc (c : Ctx) (r : Reg3) (w : BReg) : (c.setB r w).pc = c.pc := rfl
@[simp] theorem ctx_setB_slotA (c : Ctx) (r : Reg3) (w : BReg) : (c.setB r w).slotA = c.slotA := rfl
@[simp] theorem ctx_setB_phase (c : Ctx) (r : Reg3) (w : BReg) : (c.setB r w).phase = c.phase := rfl
@[simp] theorem ctx_setB_bundle (c : Ctx) (r : Reg3) (w : BReg) : (c.setB r w).bundle = c.bundle := rfl
@[simp] theorem ctx_setB_trapTo (c : Ctx) (r : Reg3) (w : BReg) : (c.setB r w).trapTo = c.trapTo := rfl
@[simp] theorem ctx_setB_fwTo (c : Ctx) (r : Reg3) (w : BReg) : (c.setB r w).fwTo = c.fwTo := rfl
@[simp] theorem ctx_setB_spawnTo (c : Ctx) (r : Reg3) (w : BReg) : (c.setB r w).spawnTo = c.spawnTo := rfl
@[simp] theorem ctx_setB_asked (c : Ctx) (r : Reg3) (w : BReg) : (c.setB r w).asked = c.asked := rfl
@[simp] theorem ctx_setB_fetched (c : Ctx) (r : Reg3) (w : BReg) : (c.setB r w).fetched = c.fetched := rfl
@[simp] theorem ctx_setB_xfer (c : Ctx) (r : Reg3) (w : BReg) : (c.setB r w).xfer = c.xfer := rfl
@[simp] theorem ctx_setB_x (c : Ctx) (r : Reg3) (w : BReg) : (c.setB r w).x = c.x := rfl
@[simp] theorem ctx_setB_p (c : Ctx) (r : Reg3) (w : BReg) : (c.setB r w).p = c.p := rfl
@[simp] theorem ctx_setB_v (c : Ctx) (r : Reg3) (w : BReg) : (c.setB r w).v = c.v := rfl
@[simp] theorem ctx_setB_k (c : Ctx) (r : Reg3) (w : BReg) : (c.setB r w).k = c.k := rfl
@[simp] theorem ctx_setB_m (c : Ctx) (r : Reg3) (w : BReg) : (c.setB r w).m = c.m := rfl
@[simp] theorem ctx_setB_tile (c : Ctx) (r : Reg3) (w : BReg) : (c.setB r w).tile = c.tile := rfl
@[simp] theorem ctx_setB_tslots (c : Ctx) (r : Reg3) (w : BReg) : (c.setB r w).tslots = c.tslots := rfl
@[simp] theorem ctx_setB_fmt (c : Ctx) (r : Reg3) (w : BReg) : (c.setB r w).fmt = c.fmt := rfl
@[simp] theorem ctx_setB_cw (c : Ctx) (r : Reg3) (w : BReg) : (c.setB r w).cw = c.cw := rfl
@[simp] theorem ctx_setB_latch (c : Ctx) (r : Reg3) (w : BReg) : (c.setB r w).latch = c.latch := rfl
@[simp] theorem ctx_setB_mbSrc (c : Ctx) (r : Reg3) (w : BReg) : (c.setB r w).mbSrc = c.mbSrc := rfl
@[simp] theorem ctx_setB_icSrc (c : Ctx) (r : Reg3) (w : BReg) : (c.setB r w).icSrc = c.icSrc := rfl
@[simp] theorem ctx_setB_stores (c : Ctx) (r : Reg3) (w : BReg) : (c.setB r w).stores = c.stores := rfl
@[simp] theorem ctx_setB_fails (c : Ctx) (r : Reg3) (w : BReg) : (c.setB r w).fails = c.fails := rfl
@[simp] theorem ctx_setB_lost (c : Ctx) (r : Reg3) (w : BReg) : (c.setB r w).lost = c.lost := rfl
@[simp] theorem ctx_setB_comp (c : Ctx) (r : Reg3) (w : BReg) : (c.setB r w).comp = c.comp := rfl
@[simp] theorem ctx_setB_start (c : Ctx) (r : Reg3) (w : BReg) : (c.setB r w).start = c.start := rfl
@[simp] theorem ctx_setB_urgent (c : Ctx) (r : Reg3) (w : BReg) : (c.setB r w).urgent = c.urgent := rfl
@[simp] theorem ctx_setB_waitCount (c : Ctx) (r : Reg3) (w : BReg) : (c.setB r w).waitCount = c.waitCount := rfl
@[simp] theorem ctx_setB_pausedTill (c : Ctx) (r : Reg3) (w : BReg) : (c.setB r w).pausedTill = c.pausedTill := rfl
@[simp] theorem ctx_setB_mkRec (c : Ctx) (r : Reg3) (w : BReg) : (c.setB r w).mkRec = c.mkRec := rfl
@[simp] theorem ctx_setB_checks (c : Ctx) (r : Reg3) (w : BReg) : (c.setB r w).checks = c.checks := rfl

@[simp] theorem ctx_setM_st (c : Ctx) (r : Reg3) (w : Tile) : (c.setM r w).st = c.st := rfl
@[simp] theorem ctx_setM_park (c : Ctx) (r : Reg3) (w : Tile) : (c.setM r w).park = c.park := rfl
@[simp] theorem ctx_setM_pc (c : Ctx) (r : Reg3) (w : Tile) : (c.setM r w).pc = c.pc := rfl
@[simp] theorem ctx_setM_slotA (c : Ctx) (r : Reg3) (w : Tile) : (c.setM r w).slotA = c.slotA := rfl
@[simp] theorem ctx_setM_phase (c : Ctx) (r : Reg3) (w : Tile) : (c.setM r w).phase = c.phase := rfl
@[simp] theorem ctx_setM_bundle (c : Ctx) (r : Reg3) (w : Tile) : (c.setM r w).bundle = c.bundle := rfl
@[simp] theorem ctx_setM_trapTo (c : Ctx) (r : Reg3) (w : Tile) : (c.setM r w).trapTo = c.trapTo := rfl
@[simp] theorem ctx_setM_fwTo (c : Ctx) (r : Reg3) (w : Tile) : (c.setM r w).fwTo = c.fwTo := rfl
@[simp] theorem ctx_setM_spawnTo (c : Ctx) (r : Reg3) (w : Tile) : (c.setM r w).spawnTo = c.spawnTo := rfl
@[simp] theorem ctx_setM_asked (c : Ctx) (r : Reg3) (w : Tile) : (c.setM r w).asked = c.asked := rfl
@[simp] theorem ctx_setM_fetched (c : Ctx) (r : Reg3) (w : Tile) : (c.setM r w).fetched = c.fetched := rfl
@[simp] theorem ctx_setM_xfer (c : Ctx) (r : Reg3) (w : Tile) : (c.setM r w).xfer = c.xfer := rfl
@[simp] theorem ctx_setM_x (c : Ctx) (r : Reg3) (w : Tile) : (c.setM r w).x = c.x := rfl
@[simp] theorem ctx_setM_p (c : Ctx) (r : Reg3) (w : Tile) : (c.setM r w).p = c.p := rfl
@[simp] theorem ctx_setM_b (c : Ctx) (r : Reg3) (w : Tile) : (c.setM r w).b = c.b := rfl
@[simp] theorem ctx_setM_v (c : Ctx) (r : Reg3) (w : Tile) : (c.setM r w).v = c.v := rfl
@[simp] theorem ctx_setM_k (c : Ctx) (r : Reg3) (w : Tile) : (c.setM r w).k = c.k := rfl
@[simp] theorem ctx_setM_tile (c : Ctx) (r : Reg3) (w : Tile) : (c.setM r w).tile = c.tile := rfl
@[simp] theorem ctx_setM_tslots (c : Ctx) (r : Reg3) (w : Tile) : (c.setM r w).tslots = c.tslots := rfl
@[simp] theorem ctx_setM_fmt (c : Ctx) (r : Reg3) (w : Tile) : (c.setM r w).fmt = c.fmt := rfl
@[simp] theorem ctx_setM_cw (c : Ctx) (r : Reg3) (w : Tile) : (c.setM r w).cw = c.cw := rfl
@[simp] theorem ctx_setM_latch (c : Ctx) (r : Reg3) (w : Tile) : (c.setM r w).latch = c.latch := rfl
@[simp] theorem ctx_setM_mbSrc (c : Ctx) (r : Reg3) (w : Tile) : (c.setM r w).mbSrc = c.mbSrc := rfl
@[simp] theorem ctx_setM_icSrc (c : Ctx) (r : Reg3) (w : Tile) : (c.setM r w).icSrc = c.icSrc := rfl
@[simp] theorem ctx_setM_stores (c : Ctx) (r : Reg3) (w : Tile) : (c.setM r w).stores = c.stores := rfl
@[simp] theorem ctx_setM_fails (c : Ctx) (r : Reg3) (w : Tile) : (c.setM r w).fails = c.fails := rfl
@[simp] theorem ctx_setM_lost (c : Ctx) (r : Reg3) (w : Tile) : (c.setM r w).lost = c.lost := rfl
@[simp] theorem ctx_setM_comp (c : Ctx) (r : Reg3) (w : Tile) : (c.setM r w).comp = c.comp := rfl
@[simp] theorem ctx_setM_start (c : Ctx) (r : Reg3) (w : Tile) : (c.setM r w).start = c.start := rfl
@[simp] theorem ctx_setM_urgent (c : Ctx) (r : Reg3) (w : Tile) : (c.setM r w).urgent = c.urgent := rfl
@[simp] theorem ctx_setM_waitCount (c : Ctx) (r : Reg3) (w : Tile) : (c.setM r w).waitCount = c.waitCount := rfl
@[simp] theorem ctx_setM_pausedTill (c : Ctx) (r : Reg3) (w : Tile) : (c.setM r w).pausedTill = c.pausedTill := rfl
@[simp] theorem ctx_setM_mkRec (c : Ctx) (r : Reg3) (w : Tile) : (c.setM r w).mkRec = c.mkRec := rfl
@[simp] theorem ctx_setM_checks (c : Ctx) (r : Reg3) (w : Tile) : (c.setM r w).checks = c.checks := rfl

@[simp] theorem ctx_setX_st (c : Ctx) (r : Reg) (w : Dword) : (c.setX r w).st = c.st := by unfold Ctx.setX; split <;> rfl
@[simp] theorem ctx_setX_park (c : Ctx) (r : Reg) (w : Dword) : (c.setX r w).park = c.park := by unfold Ctx.setX; split <;> rfl
@[simp] theorem ctx_setX_pc (c : Ctx) (r : Reg) (w : Dword) : (c.setX r w).pc = c.pc := by unfold Ctx.setX; split <;> rfl
@[simp] theorem ctx_setX_slotA (c : Ctx) (r : Reg) (w : Dword) : (c.setX r w).slotA = c.slotA := by unfold Ctx.setX; split <;> rfl
@[simp] theorem ctx_setX_phase (c : Ctx) (r : Reg) (w : Dword) : (c.setX r w).phase = c.phase := by unfold Ctx.setX; split <;> rfl
@[simp] theorem ctx_setX_bundle (c : Ctx) (r : Reg) (w : Dword) : (c.setX r w).bundle = c.bundle := by unfold Ctx.setX; split <;> rfl
@[simp] theorem ctx_setX_trapTo (c : Ctx) (r : Reg) (w : Dword) : (c.setX r w).trapTo = c.trapTo := by unfold Ctx.setX; split <;> rfl
@[simp] theorem ctx_setX_fwTo (c : Ctx) (r : Reg) (w : Dword) : (c.setX r w).fwTo = c.fwTo := by unfold Ctx.setX; split <;> rfl
@[simp] theorem ctx_setX_spawnTo (c : Ctx) (r : Reg) (w : Dword) : (c.setX r w).spawnTo = c.spawnTo := by unfold Ctx.setX; split <;> rfl
@[simp] theorem ctx_setX_asked (c : Ctx) (r : Reg) (w : Dword) : (c.setX r w).asked = c.asked := by unfold Ctx.setX; split <;> rfl
@[simp] theorem ctx_setX_fetched (c : Ctx) (r : Reg) (w : Dword) : (c.setX r w).fetched = c.fetched := by unfold Ctx.setX; split <;> rfl
@[simp] theorem ctx_setX_xfer (c : Ctx) (r : Reg) (w : Dword) : (c.setX r w).xfer = c.xfer := by unfold Ctx.setX; split <;> rfl
@[simp] theorem ctx_setX_p (c : Ctx) (r : Reg) (w : Dword) : (c.setX r w).p = c.p := by unfold Ctx.setX; split <;> rfl
@[simp] theorem ctx_setX_b (c : Ctx) (r : Reg) (w : Dword) : (c.setX r w).b = c.b := by unfold Ctx.setX; split <;> rfl
@[simp] theorem ctx_setX_v (c : Ctx) (r : Reg) (w : Dword) : (c.setX r w).v = c.v := by unfold Ctx.setX; split <;> rfl
@[simp] theorem ctx_setX_k (c : Ctx) (r : Reg) (w : Dword) : (c.setX r w).k = c.k := by unfold Ctx.setX; split <;> rfl
@[simp] theorem ctx_setX_m (c : Ctx) (r : Reg) (w : Dword) : (c.setX r w).m = c.m := by unfold Ctx.setX; split <;> rfl
@[simp] theorem ctx_setX_tile (c : Ctx) (r : Reg) (w : Dword) : (c.setX r w).tile = c.tile := by unfold Ctx.setX; split <;> rfl
@[simp] theorem ctx_setX_tslots (c : Ctx) (r : Reg) (w : Dword) : (c.setX r w).tslots = c.tslots := by unfold Ctx.setX; split <;> rfl
@[simp] theorem ctx_setX_fmt (c : Ctx) (r : Reg) (w : Dword) : (c.setX r w).fmt = c.fmt := by unfold Ctx.setX; split <;> rfl
@[simp] theorem ctx_setX_cw (c : Ctx) (r : Reg) (w : Dword) : (c.setX r w).cw = c.cw := by unfold Ctx.setX; split <;> rfl
@[simp] theorem ctx_setX_latch (c : Ctx) (r : Reg) (w : Dword) : (c.setX r w).latch = c.latch := by unfold Ctx.setX; split <;> rfl
@[simp] theorem ctx_setX_mbSrc (c : Ctx) (r : Reg) (w : Dword) : (c.setX r w).mbSrc = c.mbSrc := by unfold Ctx.setX; split <;> rfl
@[simp] theorem ctx_setX_icSrc (c : Ctx) (r : Reg) (w : Dword) : (c.setX r w).icSrc = c.icSrc := by unfold Ctx.setX; split <;> rfl
@[simp] theorem ctx_setX_stores (c : Ctx) (r : Reg) (w : Dword) : (c.setX r w).stores = c.stores := by unfold Ctx.setX; split <;> rfl
@[simp] theorem ctx_setX_fails (c : Ctx) (r : Reg) (w : Dword) : (c.setX r w).fails = c.fails := by unfold Ctx.setX; split <;> rfl
@[simp] theorem ctx_setX_lost (c : Ctx) (r : Reg) (w : Dword) : (c.setX r w).lost = c.lost := by unfold Ctx.setX; split <;> rfl
@[simp] theorem ctx_setX_comp (c : Ctx) (r : Reg) (w : Dword) : (c.setX r w).comp = c.comp := by unfold Ctx.setX; split <;> rfl
@[simp] theorem ctx_setX_start (c : Ctx) (r : Reg) (w : Dword) : (c.setX r w).start = c.start := by unfold Ctx.setX; split <;> rfl
@[simp] theorem ctx_setX_urgent (c : Ctx) (r : Reg) (w : Dword) : (c.setX r w).urgent = c.urgent := by unfold Ctx.setX; split <;> rfl
@[simp] theorem ctx_setX_waitCount (c : Ctx) (r : Reg) (w : Dword) : (c.setX r w).waitCount = c.waitCount := by unfold Ctx.setX; split <;> rfl
@[simp] theorem ctx_setX_pausedTill (c : Ctx) (r : Reg) (w : Dword) : (c.setX r w).pausedTill = c.pausedTill := by unfold Ctx.setX; split <;> rfl
@[simp] theorem ctx_setX_mkRec (c : Ctx) (r : Reg) (w : Dword) : (c.setX r w).mkRec = c.mkRec := by unfold Ctx.setX; split <;> rfl
@[simp] theorem ctx_setX_checks (c : Ctx) (r : Reg) (w : Dword) : (c.setX r w).checks = c.checks := by unfold Ctx.setX; split <;> rfl

@[simp] theorem ctx_setP_st (c : Ctx) (r : Reg3) (w : Bool) : (c.setP r w).st = c.st := by unfold Ctx.setP; split <;> rfl
@[simp] theorem ctx_setP_park (c : Ctx) (r : Reg3) (w : Bool) : (c.setP r w).park = c.park := by unfold Ctx.setP; split <;> rfl
@[simp] theorem ctx_setP_pc (c : Ctx) (r : Reg3) (w : Bool) : (c.setP r w).pc = c.pc := by unfold Ctx.setP; split <;> rfl
@[simp] theorem ctx_setP_slotA (c : Ctx) (r : Reg3) (w : Bool) : (c.setP r w).slotA = c.slotA := by unfold Ctx.setP; split <;> rfl
@[simp] theorem ctx_setP_phase (c : Ctx) (r : Reg3) (w : Bool) : (c.setP r w).phase = c.phase := by unfold Ctx.setP; split <;> rfl
@[simp] theorem ctx_setP_bundle (c : Ctx) (r : Reg3) (w : Bool) : (c.setP r w).bundle = c.bundle := by unfold Ctx.setP; split <;> rfl
@[simp] theorem ctx_setP_trapTo (c : Ctx) (r : Reg3) (w : Bool) : (c.setP r w).trapTo = c.trapTo := by unfold Ctx.setP; split <;> rfl
@[simp] theorem ctx_setP_fwTo (c : Ctx) (r : Reg3) (w : Bool) : (c.setP r w).fwTo = c.fwTo := by unfold Ctx.setP; split <;> rfl
@[simp] theorem ctx_setP_spawnTo (c : Ctx) (r : Reg3) (w : Bool) : (c.setP r w).spawnTo = c.spawnTo := by unfold Ctx.setP; split <;> rfl
@[simp] theorem ctx_setP_asked (c : Ctx) (r : Reg3) (w : Bool) : (c.setP r w).asked = c.asked := by unfold Ctx.setP; split <;> rfl
@[simp] theorem ctx_setP_fetched (c : Ctx) (r : Reg3) (w : Bool) : (c.setP r w).fetched = c.fetched := by unfold Ctx.setP; split <;> rfl
@[simp] theorem ctx_setP_xfer (c : Ctx) (r : Reg3) (w : Bool) : (c.setP r w).xfer = c.xfer := by unfold Ctx.setP; split <;> rfl
@[simp] theorem ctx_setP_x (c : Ctx) (r : Reg3) (w : Bool) : (c.setP r w).x = c.x := by unfold Ctx.setP; split <;> rfl
@[simp] theorem ctx_setP_b (c : Ctx) (r : Reg3) (w : Bool) : (c.setP r w).b = c.b := by unfold Ctx.setP; split <;> rfl
@[simp] theorem ctx_setP_v (c : Ctx) (r : Reg3) (w : Bool) : (c.setP r w).v = c.v := by unfold Ctx.setP; split <;> rfl
@[simp] theorem ctx_setP_k (c : Ctx) (r : Reg3) (w : Bool) : (c.setP r w).k = c.k := by unfold Ctx.setP; split <;> rfl
@[simp] theorem ctx_setP_m (c : Ctx) (r : Reg3) (w : Bool) : (c.setP r w).m = c.m := by unfold Ctx.setP; split <;> rfl
@[simp] theorem ctx_setP_tile (c : Ctx) (r : Reg3) (w : Bool) : (c.setP r w).tile = c.tile := by unfold Ctx.setP; split <;> rfl
@[simp] theorem ctx_setP_tslots (c : Ctx) (r : Reg3) (w : Bool) : (c.setP r w).tslots = c.tslots := by unfold Ctx.setP; split <;> rfl
@[simp] theorem ctx_setP_fmt (c : Ctx) (r : Reg3) (w : Bool) : (c.setP r w).fmt = c.fmt := by unfold Ctx.setP; split <;> rfl
@[simp] theorem ctx_setP_cw (c : Ctx) (r : Reg3) (w : Bool) : (c.setP r w).cw = c.cw := by unfold Ctx.setP; split <;> rfl
@[simp] theorem ctx_setP_latch (c : Ctx) (r : Reg3) (w : Bool) : (c.setP r w).latch = c.latch := by unfold Ctx.setP; split <;> rfl
@[simp] theorem ctx_setP_mbSrc (c : Ctx) (r : Reg3) (w : Bool) : (c.setP r w).mbSrc = c.mbSrc := by unfold Ctx.setP; split <;> rfl
@[simp] theorem ctx_setP_icSrc (c : Ctx) (r : Reg3) (w : Bool) : (c.setP r w).icSrc = c.icSrc := by unfold Ctx.setP; split <;> rfl
@[simp] theorem ctx_setP_stores (c : Ctx) (r : Reg3) (w : Bool) : (c.setP r w).stores = c.stores := by unfold Ctx.setP; split <;> rfl
@[simp] theorem ctx_setP_fails (c : Ctx) (r : Reg3) (w : Bool) : (c.setP r w).fails = c.fails := by unfold Ctx.setP; split <;> rfl
@[simp] theorem ctx_setP_lost (c : Ctx) (r : Reg3) (w : Bool) : (c.setP r w).lost = c.lost := by unfold Ctx.setP; split <;> rfl
@[simp] theorem ctx_setP_comp (c : Ctx) (r : Reg3) (w : Bool) : (c.setP r w).comp = c.comp := by unfold Ctx.setP; split <;> rfl
@[simp] theorem ctx_setP_start (c : Ctx) (r : Reg3) (w : Bool) : (c.setP r w).start = c.start := by unfold Ctx.setP; split <;> rfl
@[simp] theorem ctx_setP_urgent (c : Ctx) (r : Reg3) (w : Bool) : (c.setP r w).urgent = c.urgent := by unfold Ctx.setP; split <;> rfl
@[simp] theorem ctx_setP_waitCount (c : Ctx) (r : Reg3) (w : Bool) : (c.setP r w).waitCount = c.waitCount := by unfold Ctx.setP; split <;> rfl
@[simp] theorem ctx_setP_pausedTill (c : Ctx) (r : Reg3) (w : Bool) : (c.setP r w).pausedTill = c.pausedTill := by unfold Ctx.setP; split <;> rfl
@[simp] theorem ctx_setP_mkRec (c : Ctx) (r : Reg3) (w : Bool) : (c.setP r w).mkRec = c.mkRec := by unfold Ctx.setP; split <;> rfl
@[simp] theorem ctx_setP_checks (c : Ctx) (r : Reg3) (w : Bool) : (c.setP r w).checks = c.checks := by unfold Ctx.setP; split <;> rfl

@[simp] theorem ctx_setK_st (c : Ctx) (r : Reg3) (w : KReg) : (c.setK r w).st = c.st := by unfold Ctx.setK; split <;> rfl
@[simp] theorem ctx_setK_park (c : Ctx) (r : Reg3) (w : KReg) : (c.setK r w).park = c.park := by unfold Ctx.setK; split <;> rfl
@[simp] theorem ctx_setK_pc (c : Ctx) (r : Reg3) (w : KReg) : (c.setK r w).pc = c.pc := by unfold Ctx.setK; split <;> rfl
@[simp] theorem ctx_setK_slotA (c : Ctx) (r : Reg3) (w : KReg) : (c.setK r w).slotA = c.slotA := by unfold Ctx.setK; split <;> rfl
@[simp] theorem ctx_setK_phase (c : Ctx) (r : Reg3) (w : KReg) : (c.setK r w).phase = c.phase := by unfold Ctx.setK; split <;> rfl
@[simp] theorem ctx_setK_bundle (c : Ctx) (r : Reg3) (w : KReg) : (c.setK r w).bundle = c.bundle := by unfold Ctx.setK; split <;> rfl
@[simp] theorem ctx_setK_trapTo (c : Ctx) (r : Reg3) (w : KReg) : (c.setK r w).trapTo = c.trapTo := by unfold Ctx.setK; split <;> rfl
@[simp] theorem ctx_setK_fwTo (c : Ctx) (r : Reg3) (w : KReg) : (c.setK r w).fwTo = c.fwTo := by unfold Ctx.setK; split <;> rfl
@[simp] theorem ctx_setK_spawnTo (c : Ctx) (r : Reg3) (w : KReg) : (c.setK r w).spawnTo = c.spawnTo := by unfold Ctx.setK; split <;> rfl
@[simp] theorem ctx_setK_asked (c : Ctx) (r : Reg3) (w : KReg) : (c.setK r w).asked = c.asked := by unfold Ctx.setK; split <;> rfl
@[simp] theorem ctx_setK_fetched (c : Ctx) (r : Reg3) (w : KReg) : (c.setK r w).fetched = c.fetched := by unfold Ctx.setK; split <;> rfl
@[simp] theorem ctx_setK_xfer (c : Ctx) (r : Reg3) (w : KReg) : (c.setK r w).xfer = c.xfer := by unfold Ctx.setK; split <;> rfl
@[simp] theorem ctx_setK_x (c : Ctx) (r : Reg3) (w : KReg) : (c.setK r w).x = c.x := by unfold Ctx.setK; split <;> rfl
@[simp] theorem ctx_setK_p (c : Ctx) (r : Reg3) (w : KReg) : (c.setK r w).p = c.p := by unfold Ctx.setK; split <;> rfl
@[simp] theorem ctx_setK_b (c : Ctx) (r : Reg3) (w : KReg) : (c.setK r w).b = c.b := by unfold Ctx.setK; split <;> rfl
@[simp] theorem ctx_setK_v (c : Ctx) (r : Reg3) (w : KReg) : (c.setK r w).v = c.v := by unfold Ctx.setK; split <;> rfl
@[simp] theorem ctx_setK_m (c : Ctx) (r : Reg3) (w : KReg) : (c.setK r w).m = c.m := by unfold Ctx.setK; split <;> rfl
@[simp] theorem ctx_setK_tile (c : Ctx) (r : Reg3) (w : KReg) : (c.setK r w).tile = c.tile := by unfold Ctx.setK; split <;> rfl
@[simp] theorem ctx_setK_tslots (c : Ctx) (r : Reg3) (w : KReg) : (c.setK r w).tslots = c.tslots := by unfold Ctx.setK; split <;> rfl
@[simp] theorem ctx_setK_fmt (c : Ctx) (r : Reg3) (w : KReg) : (c.setK r w).fmt = c.fmt := by unfold Ctx.setK; split <;> rfl
@[simp] theorem ctx_setK_cw (c : Ctx) (r : Reg3) (w : KReg) : (c.setK r w).cw = c.cw := by unfold Ctx.setK; split <;> rfl
@[simp] theorem ctx_setK_latch (c : Ctx) (r : Reg3) (w : KReg) : (c.setK r w).latch = c.latch := by unfold Ctx.setK; split <;> rfl
@[simp] theorem ctx_setK_mbSrc (c : Ctx) (r : Reg3) (w : KReg) : (c.setK r w).mbSrc = c.mbSrc := by unfold Ctx.setK; split <;> rfl
@[simp] theorem ctx_setK_icSrc (c : Ctx) (r : Reg3) (w : KReg) : (c.setK r w).icSrc = c.icSrc := by unfold Ctx.setK; split <;> rfl
@[simp] theorem ctx_setK_stores (c : Ctx) (r : Reg3) (w : KReg) : (c.setK r w).stores = c.stores := by unfold Ctx.setK; split <;> rfl
@[simp] theorem ctx_setK_fails (c : Ctx) (r : Reg3) (w : KReg) : (c.setK r w).fails = c.fails := by unfold Ctx.setK; split <;> rfl
@[simp] theorem ctx_setK_lost (c : Ctx) (r : Reg3) (w : KReg) : (c.setK r w).lost = c.lost := by unfold Ctx.setK; split <;> rfl
@[simp] theorem ctx_setK_comp (c : Ctx) (r : Reg3) (w : KReg) : (c.setK r w).comp = c.comp := by unfold Ctx.setK; split <;> rfl
@[simp] theorem ctx_setK_start (c : Ctx) (r : Reg3) (w : KReg) : (c.setK r w).start = c.start := by unfold Ctx.setK; split <;> rfl
@[simp] theorem ctx_setK_urgent (c : Ctx) (r : Reg3) (w : KReg) : (c.setK r w).urgent = c.urgent := by unfold Ctx.setK; split <;> rfl
@[simp] theorem ctx_setK_waitCount (c : Ctx) (r : Reg3) (w : KReg) : (c.setK r w).waitCount = c.waitCount := by unfold Ctx.setK; split <;> rfl
@[simp] theorem ctx_setK_pausedTill (c : Ctx) (r : Reg3) (w : KReg) : (c.setK r w).pausedTill = c.pausedTill := by unfold Ctx.setK; split <;> rfl
@[simp] theorem ctx_setK_mkRec (c : Ctx) (r : Reg3) (w : KReg) : (c.setK r w).mkRec = c.mkRec := by unfold Ctx.setK; split <;> rfl
@[simp] theorem ctx_setK_checks (c : Ctx) (r : Reg3) (w : KReg) : (c.setK r w).checks = c.checks := by unfold Ctx.setK; split <;> rfl

end Sys2Proof.Laws
end

