-- ==== Sys2Proof/Laws/Table.lean ====
section
/-! SUPPORT. Tables keyed by number, and what reading a context, a core or a skein gives after one has been set. -/

namespace Sys2Proof.Laws

open Sys2Proof.Machine

@[simp] theorem tableGet_tableSet_same {α : Type} (t : List (Nat × α)) (k : Nat) (v d : α) :
    tableGet (tableSet t k v) k d = v := by
  induction t with
  | nil => simp [tableSet, tableGet]
  | cons e r ih =>
    obtain ⟨i, w⟩ := e
    unfold tableSet
    by_cases h : i = k
    · simp [h, tableGet]
    · by_cases h' : k < i <;> simp [h, h', tableGet, ih]

theorem tableGet_tableSet_ne {α : Type} (t : List (Nat × α)) (k j : Nat) (v d : α) (hj : j ≠ k) :
    tableGet (tableSet t k v) j d = tableGet t j d := by
  induction t with
  | nil => simp [tableSet, tableGet, Ne.symm hj]
  | cons e r ih =>
    obtain ⟨i, w⟩ := e
    unfold tableSet
    by_cases h : i = k
    · subst h; simp [tableGet, Ne.symm hj]
    · by_cases h' : k < i <;> simp [h, h', tableGet, ih, Ne.symm hj]

/-! ## Contexts -/

@[simp] theorem ctx_setCtx (s : State) (c : CtxId) (x : Ctx) : (s.setCtx c x).ctx c = x := by
  simp [State.ctx, State.setCtx]

theorem ctx_setCtx_ne (s : State) (c d : CtxId) (x : Ctx) (h : d ≠ c) : (s.setCtx c x).ctx d = s.ctx d := by
  have h' : d.toNat ≠ c.toNat := fun e => h (BitVec.eq_of_toNat_eq e)
  simp [State.ctx, State.setCtx, tableGet_tableSet_ne _ _ _ _ _ h']

@[simp] theorem ctx_modCtx (s : State) (c : CtxId) (f : Ctx → Ctx) : (s.modCtx c f).ctx c = f (s.ctx c) :=
  ctx_setCtx ..

theorem ctx_modCtx_ne (s : State) (c d : CtxId) (f : Ctx → Ctx) (h : d ≠ c) : (s.modCtx c f).ctx d = s.ctx d :=
  ctx_setCtx_ne _ _ _ _ h

@[simp] theorem cur_modCtx (s : State) (c : CtxId) (f : Ctx → Ctx) : (s.modCtx c f).cur = s.cur := rfl
@[simp] theorem cur_modMe (s : State) (f : Ctx → Ctx) : (s.modMe f).cur = s.cur := rfl
@[simp] theorem cur_modCore (s : State) (k : CoreId) (f : CoreSt → CoreSt) : (s.modCore k f).cur = s.cur := rfl
@[simp] theorem ctx_modCore (s : State) (k : CoreId) (f : CoreSt → CoreSt) (c : CtxId) : (s.modCore k f).ctx c = s.ctx c := rfl
@[simp] theorem ctx_modSkein (s : State) (k : SkeinId) (f : SkeinSt → SkeinSt) (c : CtxId) :
    (s.modSkein k f).ctx c = s.ctx c := rfl
@[simp] theorem ctx_modDev (s : State) (f : Dev → Dev) (c : CtxId) : (s.modDev f).ctx c = s.ctx c := rfl
@[simp] theorem ctx_modNiu (s : State) (f : Niu → Niu) (c : CtxId) : (s.modNiu f).ctx c = s.ctx c := rfl
@[simp] theorem ctx_modRas (s : State) (f : Ras → Ras) (c : CtxId) : (s.modRas f).ctx c = s.ctx c := rfl
@[simp] theorem ctx_emit (s : State) (o : Output) (c : CtxId) : (s.emit o).ctx c = s.ctx c := rfl
@[simp] theorem ctx_post (s : State) (e : Event) (c : CtxId) : (s.post e).ctx c = s.ctx c := rfl
@[simp] theorem ctx_postFirst (s : State) (e : Event) (c : CtxId) : (s.postFirst e).ctx c = s.ctx c := rfl
@[simp] theorem ctx_writeMem (s : State) (l : List (Nat × Byte)) (c : CtxId) : (s.writeMem l).ctx c = s.ctx c := rfl

@[simp] theorem me_modMe (s : State) (f : Ctx → Ctx) : (s.modMe f).me = f s.me := ctx_modCtx ..
@[simp] theorem ctx_modMe (s : State) (f : Ctx → Ctx) : (s.modMe f).ctx s.cur = f s.me := ctx_modCtx ..
theorem ctx_modMe_ne (s : State) (f : Ctx → Ctx) (c : CtxId) (h : c ≠ s.cur) : (s.modMe f).ctx c = s.ctx c :=
  ctx_modCtx_ne _ _ _ _ h

/-! ## Cores and skeins -/

@[simp] theorem core_setCore (s : State) (k : CoreId) (x : CoreSt) : (s.setCore k x).core k = x := by
  simp [State.core, State.setCore]

theorem core_setCore_ne (s : State) (k j : CoreId) (x : CoreSt) (h : j ≠ k) : (s.setCore k x).core j = s.core j := by
  have h' : j.toNat ≠ k.toNat := fun e => h (BitVec.eq_of_toNat_eq e)
  simp [State.core, State.setCore, tableGet_tableSet_ne _ _ _ _ _ h']

@[simp] theorem core_modCore (s : State) (k : CoreId) (f : CoreSt → CoreSt) : (s.modCore k f).core k = f (s.core k) :=
  core_setCore ..

theorem core_modCore_ne (s : State) (k j : CoreId) (f : CoreSt → CoreSt) (h : j ≠ k) :
    (s.modCore k f).core j = s.core j := core_setCore_ne _ _ _ _ h

@[simp] theorem core_modCtx (s : State) (c : CtxId) (f : Ctx → Ctx) (k : CoreId) : (s.modCtx c f).core k = s.core k := rfl
@[simp] theorem core_modMe (s : State) (f : Ctx → Ctx) (k : CoreId) : (s.modMe f).core k = s.core k := rfl
@[simp] theorem skein_setSkein (s : State) (k : SkeinId) (x : SkeinSt) : (s.setSkein k x).skein k = x := by
  simp [State.skein, State.setSkein]
@[simp] theorem skein_modSkein (s : State) (k : SkeinId) (f : SkeinSt → SkeinSt) :
    (s.modSkein k f).skein k = f (s.skein k) := skein_setSkein ..

theorem skein_modSkein_ne (s : State) (k j : SkeinId) (f : SkeinSt → SkeinSt) (h : j ≠ k) :
    (s.modSkein k f).skein j = s.skein j := by
  have h' : j.toNat ≠ k.toNat := fun e => h (BitVec.eq_of_toNat_eq e)
  simp [State.skein, State.modSkein, State.setSkein, tableGet_tableSet_ne _ _ _ _ _ h']

/-! ## Registers (R43, R44) -/

@[simp] theorem getX_zero (c : Ctx) : c.getX 0 = 0 := by simp [Ctx.getX]
@[simp] theorem getP_zero (c : Ctx) : c.getP 0 = true := by simp [Ctx.getP]
@[simp] theorem getK_zero (c : Ctx) : c.getK 0 = BitVec.allOnes 128 := by simp [Ctx.getK]

theorem toNat_ne {n : Nat} {a b : BitVec n} (h : a ≠ b) : a.toNat ≠ b.toNat := fun e => h (BitVec.eq_of_toNat_eq e)

theorem getX_setX (c : Ctx) (r q : Reg) (v : Dword) :
    (c.setX r v).getX q = if q = r ∧ r ≠ 0 then v else c.getX q := by
  by_cases hr : r = 0
  · simp [Ctx.setX, hr]
  · rw [show c.setX r v = { c with x := c.x.set r.toNat v } from if_neg hr]
    unfold Ctx.getX
    by_cases h : q = r
    · rw [if_neg (h ▸ hr), if_pos ⟨h, hr⟩]; subst h; simp
    · simp [h, Vector.getElem_set_ne _ _ (Ne.symm (toNat_ne h))]

theorem getP_setP (c : Ctx) (r q : Reg3) (v : Bool) :
    (c.setP r v).getP q = if q = r ∧ r ≠ 0 then v else c.getP q := by
  by_cases hr : r = 0
  · simp [Ctx.setP, hr]
  · rw [show c.setP r v = { c with p := c.p.set r.toNat v } from if_neg hr]
    unfold Ctx.getP
    by_cases h : q = r
    · rw [if_neg (h ▸ hr), if_pos ⟨h, hr⟩]; subst h; simp
    · simp [h, Vector.getElem_set_ne _ _ (Ne.symm (toNat_ne h))]

theorem getK_setK (c : Ctx) (r q : Reg3) (v : KReg) :
    (c.setK r v).getK q = if q = r ∧ r ≠ 0 then v else c.getK q := by
  by_cases hr : r = 0
  · simp [Ctx.setK, hr]
  · rw [show c.setK r v = { c with k := c.k.set r.toNat v } from if_neg hr]
    unfold Ctx.getK
    by_cases h : q = r
    · rw [if_neg (h ▸ hr), if_pos ⟨h, hr⟩]; subst h; simp
    · simp [h, Vector.getElem_set_ne _ _ (Ne.symm (toNat_ne h))]

theorem getV_setV (c : Ctx) (r q : Reg) (v : VReg) : (c.setV r v).getV q = if q = r then v else c.getV q := by
  unfold Ctx.setV Ctx.getV
  by_cases h : q = r
  · subst h; simp
  · simp [h, Vector.getElem_set_ne _ _ (Ne.symm (toNat_ne h))]

theorem getB_setB (c : Ctx) (r q : Reg3) (v : BReg) : (c.setB r v).getB q = if q = r then v else c.getB q := by
  unfold Ctx.setB Ctx.getB
  by_cases h : q = r
  · subst h; simp
  · simp [h, Vector.getElem_set_ne _ _ (Ne.symm (toNat_ne h))]

theorem getM_setM (c : Ctx) (r q : Reg3) (v : Tile) : (c.setM r v).getM q = if q = r then v else c.getM q := by
  unfold Ctx.setM Ctx.getM
  by_cases h : q = r
  · subst h; simp
  · simp [h, Vector.getElem_set_ne _ _ (Ne.symm (toNat_ne h))]

end Sys2Proof.Laws
end

