-- ==== Sys2Proof/Laws/Memory.lean ====
section
/-! SUPPORT. The byte list: every write keeps its canonical form, a read after a write gives the byte written, and other
locations read as before. -/

namespace Sys2Proof.Laws

open Sys2Proof.Machine

/-! ## The canonical form -/

/-- Every listed location is above a. -/
def Above (a : Nat) (m : List Host.Cell) : Prop := ∀ e ∈ m, a < e.1

theorem wf_cons (e : Host.Cell) (r : List Host.Cell) :
    Memory.wf (e :: r) = true ↔ e.2 ≠ 0 ∧ Above e.1 r ∧ Memory.wf r = true := by
  induction r generalizing e with
  | nil => obtain ⟨i, v⟩ := e; simp [Memory.wf, Above]
  | cons f t ih =>
    obtain ⟨i, v⟩ := e
    obtain ⟨j, w⟩ := f
    simp only [Memory.wf, Bool.and_eq_true, bne_iff_ne, decide_eq_true_eq, Above, List.mem_cons, forall_eq_or_imp]
    constructor
    · rintro ⟨⟨hv, hij⟩, hr⟩
      exact ⟨hv, ⟨hij, fun e he => lt_trans hij (((ih _).1 hr).2.1 e he)⟩, hr⟩
    · rintro ⟨hv, ⟨hij, -⟩, hr⟩
      exact ⟨⟨hv, hij⟩, hr⟩

theorem above_writeCell {c : Nat} {m : List Host.Cell} (h : Above c m) {a : Nat} (ha : c < a) (b : Byte) :
    Above c (writeCell m a b) := by
  have cons {e : Host.Cell} {r : List Host.Cell} (he : c < e.1) (hr : Above c r) : Above c (e :: r) :=
    List.forall_mem_cons.2 ⟨he, hr⟩
  induction m with
  | nil => unfold writeCell; split <;> simp [Above, ha]
  | cons e r ih =>
    obtain ⟨i, v⟩ := e
    obtain ⟨hi, hr⟩ := List.forall_mem_cons.1 h
    unfold writeCell
    split_ifs
    · exact hr
    · exact cons ha hr
    · exact h
    · exact cons ha h
    · exact cons hi (ih hr)

/-- Writing a byte keeps the canonical form. -/
theorem wf_writeCell {m : List Host.Cell} (h : Memory.wf m = true) (a : Nat) (b : Byte) :
    Memory.wf (writeCell m a b) = true := by
  induction m with
  | nil => unfold writeCell; split <;> simp_all [Memory.wf]
  | cons e r ih =>
    obtain ⟨i, v⟩ := e
    obtain ⟨hv, hab, hr⟩ := (wf_cons _ _).1 h
    unfold writeCell
    split_ifs with h1 h2 h3 h4
    · exact hr
    · subst h1; exact (wf_cons _ _).2 ⟨h2, hab, hr⟩
    · exact h
    · refine (wf_cons _ _).2 ⟨h4, fun e he => ?_, h⟩
      rcases List.mem_cons.1 he with rfl | he
      · exact h3
      · exact lt_trans h3 (hab e he)
    · exact (wf_cons _ _).2 ⟨hv, above_writeCell hab (by simp only; omega) b, ih hr⟩

theorem wf_writeCells {m : List Host.Cell} (h : Memory.wf m = true) (l : List (Nat × Byte)) :
    Memory.wf (writeCells m l) = true := by
  induction l generalizing m with
  | nil => exact h
  | cons e r ih => exact ih (wf_writeCell h e.1 e.2)

theorem above_filter {c : Nat} {m : List Host.Cell} (h : Above c m) (p : Host.Cell → Bool) : Above c (m.filter p) :=
  fun e he => h e (List.mem_filter.1 he).1

/-- Dropping locations keeps the canonical form. -/
theorem wf_filter {m : List Host.Cell} (h : Memory.wf m = true) (p : Host.Cell → Bool) :
    Memory.wf (m.filter p) = true := by
  induction m with
  | nil => rfl
  | cons e r ih =>
    obtain ⟨hv, hab, hr⟩ := (wf_cons _ _).1 h
    by_cases hp : p e
    · rw [List.filter_cons_of_pos hp]; exact (wf_cons _ _).2 ⟨hv, above_filter hab p, ih hr⟩
    · rw [List.filter_cons_of_neg hp]; exact ih hr

theorem wf_reset : Memory.wf State.reset.mem = true := rfl

/-! ## Reading -/

theorem readCell_above {m : List Host.Cell} {a : Nat} (h : ∀ e ∈ m, a < e.1) : readCell m a = 0 := by
  induction m with
  | nil => rfl
  | cons e r ih =>
    obtain ⟨i, v⟩ := e
    have : i ≠ a := Nat.ne_of_gt (h (i, v) (List.mem_cons_self ..))
    simp [readCell, this, ih fun e he => h e (List.mem_cons_of_mem _ he)]

theorem readCell_writeCell_ne (m : List Host.Cell) {a x : Nat} (h : x ≠ a) (b : Byte) :
    readCell (writeCell m a b) x = readCell m x := by
  induction m with
  | nil => unfold writeCell; split <;> simp [readCell, Ne.symm h]
  | cons e r ih =>
    obtain ⟨i, v⟩ := e
    unfold writeCell
    split_ifs <;> simp_all [readCell, Ne.symm h]

theorem readCell_writeCell_same {m : List Host.Cell} (hm : Memory.wf m = true) (a : Nat) (b : Byte) :
    readCell (writeCell m a b) a = b := by
  induction m with
  | nil => unfold writeCell; split <;> simp_all [readCell]
  | cons e r ih =>
    obtain ⟨i, v⟩ := e
    obtain ⟨hv, hab, hr⟩ := (wf_cons _ _).1 hm
    unfold writeCell
    split_ifs with h1 h2 h3 h4
    · subst h1; rw [h2]; exact readCell_above hab
    · simp [readCell]
    · rw [h4]
      refine readCell_above fun e he => ?_
      rcases List.mem_cons.1 he with rfl | he
      · exact h3
      · exact lt_trans h3 (hab e he)
    · simp [readCell]
    · simp [readCell, h1, ih hr]

/-- A read after a write of one byte. -/
theorem readCell_writeCell {m : List Host.Cell} (hm : Memory.wf m = true) (a x : Nat) (b : Byte) :
    readCell (writeCell m a b) x = if x = a then b else readCell m x := by
  split
  · subst x; exact readCell_writeCell_same hm a b
  · exact readCell_writeCell_ne m ‹_› b

/-- Locations that a write of several bytes does not name read as before. -/
theorem readCell_writeCells_ne (m : List Host.Cell) (l : List (Nat × Byte)) {x : Nat} (h : ∀ e ∈ l, e.1 ≠ x) :
    readCell (writeCells m l) x = readCell m x := by
  induction l generalizing m with
  | nil => rfl
  | cons e r ih =>
    obtain ⟨a, b⟩ := e
    rw [writeCells, ih _ fun e he => h e (List.mem_cons_of_mem _ he),
      readCell_writeCell_ne _ (Ne.symm (h (a, b) (List.mem_cons_self ..)))]

theorem mem_cellsAt {loc : Nat} {d : List Byte} {e : Nat × Byte} (h : e ∈ cellsAt loc d) :
    loc ≤ e.1 ∧ e.1 < loc + d.length := by
  induction d generalizing loc with
  | nil => cases h
  | cons b r ih =>
    rcases List.mem_cons.1 h with rfl | h
    · simp
    · have := ih h; simp only [List.length_cons]; omega

/-- A byte string written at a location: its bytes are there, every other location reads as before. -/
theorem readCell_writeCells_cellsAt {m : List Host.Cell} (hm : Memory.wf m = true) (loc : Nat) (d : List Byte) (x : Nat) :
    readCell (writeCells m (cellsAt loc d)) x =
      if loc ≤ x ∧ x < loc + d.length then d.getD (x - loc) 0 else readCell m x := by
  induction d generalizing loc m with
  | nil => simp [cellsAt, writeCells]
  | cons b r ih =>
    rw [cellsAt, writeCells, ih (wf_writeCell hm loc b), readCell_writeCell hm]
    by_cases hx : x = loc
    · subst hx; simp
    · by_cases h1 : loc + 1 ≤ x ∧ x < loc + 1 + r.length
      · rw [if_pos h1, if_pos (by simp only [List.length_cons]; omega)]
        obtain ⟨n, hn⟩ : ∃ n, x - loc = n + 1 := ⟨x - (loc + 1), by omega⟩
        rw [hn, show x - (loc + 1) = n by omega]; simp
      · rw [if_neg h1, if_neg hx, if_neg (by simp only [List.length_cons]; omega)]

theorem readCells_eq_map (m : List Host.Cell) (a n : Nat) : readCells m a n = (List.range n).map fun i => readCell m (a + i) := by
  induction n generalizing a with
  | zero => rfl
  | succ n ih =>
    rw [readCells, ih, List.range_succ_eq_map, List.map_cons, List.map_map]
    simp only [Nat.add_zero, Function.comp_def, Nat.succ_eq_add_one]
    congr 1; exact List.map_congr_left fun i _ => by rw [show a + 1 + i = a + (i + 1) by omega]

/-- Reading back a byte string just written. -/
theorem readCells_writeCells_cellsAt {m : List Host.Cell} (hm : Memory.wf m = true) (loc : Nat) (d : List Byte) :
    readCells (writeCells m (cellsAt loc d)) loc d.length = d := by
  rw [readCells_eq_map]
  apply List.ext_getElem (by simp)
  intro i h1 h2
  simp only [List.getElem_map, List.getElem_range, readCell_writeCells_cellsAt hm]
  rw [if_pos (by omega)]
  simp [List.getD_eq_getElem?_getD, h2]

end Sys2Proof.Laws
end

