-- ==== Sys2Proof/Laws/Cache.lean ====
section
/-! SUPPORT. The caches: moving lines between them changes no byte of home memory but for the dirty bytes of S lines, and every
operation that writes memory keeps its canonical form. -/

namespace Sys2Proof.Laws

open Sys2Proof.Machine

/-! ## Operations that leave memory alone -/

@[simp] theorem mem_victim (s : State) (n : Nat) (a b : List Nat) : (s.victim n a b).1.mem = s.mem := by
  unfold State.victim; split <;> rfl
@[simp] theorem mem_mscPut (s : State) (l : Nat) (m : Bool) : (s.mscPut l m).mem = s.mem := by
  unfold State.mscPut; split <;> [rfl; (split <;> [rfl; exact mem_victim ..])]
@[simp] theorem mem_evictSkein (s : State) (k : SkeinId) (l : Nat) : (s.evictSkein k l).mem = s.mem := by
  unfold State.evictSkein; split
  · show (if _ then s.mscPut l true else s).mem = s.mem; split <;> simp
  · rfl
@[simp] theorem mem_scPut (s : State) (k : SkeinId) (l : Nat) (m p : Bool) : (s.scPut k l m p).mem = s.mem := by
  unfold State.scPut; simp only; split
  · rfl
  · simp only [modSkein_mem]; split <;> simp
@[simp] theorem mem_fromBelow (s : State) (k : CoreId) (l : Nat) : (s.fromBelow k l).mem = s.mem := by
  unfold State.fromBelow; split <;> simp
@[simp] theorem mem_claim (s : State) (k : Option CoreId) (l : Nat) : (s.claim k l).mem = s.mem := rfl
@[simp] theorem mem_dropS (s : State) (k : CoreId) (p : L1Line → Bool) : (s.dropS k p).mem = s.mem := rfl

theorem foldl_keeps {α β : Type} (q : α → Prop) (f : α → β → α) (hf : ∀ a b, q a → q (f a b)) (l : List β) {a : α} (h : q a) :
    q (l.foldl f a) := by
  induction l generalizing a with
  | nil => exact h
  | cons b r ih => exact ih (hf a b h)

@[simp] theorem mem_share (s : State) (k : Option CoreId) (l : Nat) : (s.share k l).mem = s.mem := by
  show (if _ then State.mscPut _ l true else _).mem = s.mem
  have h (o : List (Nat × CoreSt)) (t : State) (ht : t.mem = s.mem) :
      (o.foldl (fun s e => s.scPut (skeinOfCore (.ofNat 10 e.1)) l true false) t).mem = s.mem :=
    foldl_keeps (fun t : State => t.mem = s.mem) _ (fun t e ht => by simpa using ht) o ht
  split
  · rw [mem_mscPut]; exact h _ _ rfl
  · exact h _ _ rfl

/-! ## Operations that write memory keep its canonical form -/

/-- The byte list is in canonical form. -/
def Canonical (s : State) : Prop := Memory.wf s.mem = true

theorem canonical_writeMem {s : State} (h : Canonical s) (l : List (Nat × Byte)) : Canonical (s.writeMem l) := wf_writeCells h l
theorem canonical_of_mem {s t : State} (h : Canonical s) (e : t.mem = s.mem) : Canonical t := by rw [Canonical, e]; exact h

theorem canonical_storeLine {s : State} (h : Canonical s) (k : CoreId) (e : L1Line) : Canonical (s.storeLine k e) := by
  unfold State.storeLine
  split
  · exact h
  · refine canonical_of_mem (canonical_writeMem (canonical_of_mem ?_ (mem_claim ..)) _) (mem_mscPut ..)
    split <;> exact h

theorem canonical_storeDirty {s : State} (h : Canonical s) (k : CoreId) (p : L1Line → Bool) : Canonical (s.storeDirty k p) :=
  canonical_of_mem (foldl_keeps Canonical _ (fun t e ht => by
    show Canonical (if _ then _ else _); split
    · exact canonical_storeLine ht k e
    · exact ht) _ h) rfl

@[simp] theorem mem_setPoison (s : State) (a : Nat) : (s.setPoison a).mem = s.mem := by unfold State.setPoison; split <;> rfl

theorem canonical_writeUnit {s : State} (h : Canonical s) (k : CoreId) (a : Nat) (t : Treat) (d : List Byte) (p : Bool) :
    Canonical (s.writeUnit k a t d p).1 := by
  unfold State.writeUnit
  extract_lets u
  have hu : Canonical u := by
    show Canonical (if _ then _ else _)
    split
    · exact canonical_of_mem (canonical_storeDirty h _ _) (mem_dropS ..)
    · exact h
  clear_value u
  split_ifs
  · exact canonical_of_mem hu (mem_setPoison ..)
  · exact hu
  · exact canonical_writeMem (canonical_of_mem hu rfl) _

/-! ## A pinned line's unit lands -/

@[simp] theorem mem_postOnce (s : State) (e : Event) : (s.postOnce e).mem = s.mem := by unfold State.postOnce; split <;> rfl
@[simp] theorem mem_wakeEngine (s : State) (k : CoreId) (q : BitVec 2) : (s.wakeEngine k q).mem = s.mem := by
  unfold State.wakeEngine; split <;> simp
@[simp] theorem mem_wakePins (s : State) (k : SkeinId) : (s.wakePins k).mem = s.mem :=
  foldl_keeps (fun t : State => t.mem = s.mem) _ (fun t n ht => by simpa using ht) _ rfl
@[simp] theorem mem_answerLine (s : State) (k : SkeinId) (l : Nat) (x : Bool) : (s.answerLine k l x).mem = s.mem := by
  unfold State.answerLine
  refine foldl_keeps (fun t : State => t.mem = s.mem) _ (fun t n ht => by simpa using ht) _ ?_
  simp only [modSkein_mem]; split <;> simp
@[simp] theorem mem_track (s : State) (l : Nat) (x : Bool) (r : List Nat) : (s.track l x r).mem = s.mem := rfl
@[simp] theorem mem_giveOutside (s : State) (l : Nat) : (s.giveOutside l).mem = s.mem := by simp [State.giveOutside]
@[simp] theorem mem_noteOutside (s : State) (l : Nat) (x o : Bool) : (s.noteOutside l x o).mem = s.mem := by
  unfold State.noteOutside
  split
  · split <;> simp
  · rfl
@[simp] theorem mem_answerFor (s : State) (k : SkeinId) (l : Nat) (x o : Bool) : (s.answerFor k l x o).mem = s.mem := by
  simp [State.answerFor]
@[simp] theorem mem_unpin (s : State) (k : SkeinId) (l : Nat) : (s.unpin k l).mem = s.mem := by
  unfold State.unpin
  extract_lets u due w z
  have hu : u.mem = s.mem := by simp [u]
  have hz : z.mem = s.mem := by
    show (if _ then u else _).mem = s.mem
    split
    · exact hu
    · exact foldl_keeps (fun t : State => t.mem = s.mem) _ (fun t n ht => by simpa using ht) _ (by simpa [w] using hu)
  simpa using hz

theorem canonical_landUnit {s : State} (h : Canonical s) (k : CoreId) (q : BitVec 2) (c : CopyCmd) (a : Nat) (t : Treat) :
    Canonical (s.landUnit k q c a t) := by
  unfold State.landUnit
  have hw := canonical_writeUnit h k a t c.buf c.bufPoison
  revert hw
  cases s.writeUnit k a t c.buf c.bufPoison with
  | mk u bad =>
    intro hw
    refine canonical_of_mem hw ?_
    simp only [mem_wakeEngine]
    show (if _ then _ else _ : State).mem = u.mem
    split <;> simp

theorem canonical_settlePin {s : State} (h : Canonical s) (l : Nat) : Canonical (s.settlePin l) := by
  unfold State.settlePin
  extract_lets units
  refine foldl_keeps Canonical _ (fun t u ht => ?_) units h
  show Canonical (match t.headCmd u.1 u.2 with | some c => _ | none => t)
  split
  · split
    · split
      · exact canonical_landUnit ht ..
      · exact ht
    · exact ht
  · exact ht

/-! ## The L1 -/

theorem canonical_writeBackS {s : State} (h : Canonical s) (k : CoreId) (p : L1Line → Bool) : Canonical (s.writeBackS k p) :=
  canonical_storeDirty (foldl_keeps Canonical _ (fun _ l ht => canonical_settlePin ht l) _ h) k p

theorem canonical_returnLine {s : State} (h : Canonical s) (k : CoreId) (l : Nat) : Canonical (s.returnLine k l) :=
  canonical_of_mem (canonical_writeBackS h k _) (mem_dropS ..)

theorem canonical_evictL1 {s : State} (h : Canonical s) (k : CoreId) (l : Nat) : Canonical (s.evictL1 k l) := by
  unfold State.evictL1
  refine canonical_of_mem (s := if _ then (s.writeBackS k _).scPut _ _ _ _ else s.writeBackS k _) ?_ rfl
  split
  · exact canonical_of_mem (canonical_writeBackS h k _) (mem_scPut ..)
  · exact canonical_writeBackS h k _

theorem canonical_l1Put {s : State} (h : Canonical s) (k : CoreId) (e : L1Line) : Canonical (s.l1Put k e) := by
  unfold State.l1Put
  simp only
  refine canonical_of_mem ?_ rfl
  split
  · exact canonical_evictL1 (canonical_of_mem h (mem_victim ..)) k _
  · exact canonical_of_mem h (mem_victim ..)

end Sys2Proof.Laws
end

