-- ==== Sys2Proof/Laws/Ops.lean ====
section
/-! SUPPORT. What the shared operations do, each said once: the end of a step and of a bundle, waiting, parking, traps. -/

namespace Sys2Proof.Laws

open Sys2Proof.Machine Sys2Proof.Safety

/-! ## The turn -/

@[simp] theorem ctx_yieldTurn (s : State) (c : CtxId) : s.yieldTurn.ctx c = s.ctx c := by unfold State.yieldTurn; split <;> rfl
@[simp] theorem core_yieldTurn (s : State) (k : CoreId) : s.yieldTurn.core k = s.core k := by unfold State.yieldTurn; split <;> rfl
@[simp] theorem skein_yieldTurn (s : State) (k : SkeinId) : s.yieldTurn.skein k = s.skein k := by
  unfold State.yieldTurn; split <;> rfl
@[simp] theorem mem_yieldTurn (s : State) : s.yieldTurn.mem = s.mem := by unfold State.yieldTurn; split <;> rfl
@[simp] theorem dev_yieldTurn (s : State) : s.yieldTurn.dev = s.dev := by unfold State.yieldTurn; split <;> rfl
@[simp] theorem boot_yieldTurn (s : State) : s.yieldTurn.boot = s.boot := by unfold State.yieldTurn; split <;> rfl

/-- Passing the turn changes nothing but the order of turns. -/
theorem yieldTurn_only (s : State) : OnlyContext s s.yieldTurn := by
  unfold State.yieldTurn; split <;> refine ⟨⟨?_, ?_, ?_, ?_, ?_, ?_, ?_, ?_, ?_, ?_, ?_, ?_, ?_, ?_, ?_⟩, ⟨?_, ?_⟩⟩ <;> intros <;> rfl

/-- The order of turns after passing the turn depends on it alone. -/
theorem yieldTurn_turns {s t : State} (h : s.turns = t.turns) : s.yieldTurn.turns = t.yieldTurn.turns := by
  unfold State.yieldTurn; rw [h]; split <;> simp_all

theorem only_trans {s t u : State} (h : OnlyContext s t) (hc : t.cur = s.cur) (g : OnlyContext t u) :
    OnlyContext s u where
  bytes a := (g.bytes a).trans (h.bytes a)
  poison := g.poison.trans h.poison
  contexts c hne := (g.contexts c (hc ▸ hne)).trans (h.contexts c hne)
  cores k hne := (g.cores k (hc ▸ hne)).trans (h.cores k hne)
  skeins k := (g.skeins k).trans (h.skeins k)
  msc := g.msc.trans h.msc
  away := g.away.trans h.away
  dev := g.dev.trans h.dev
  niu := g.niu.trans h.niu
  ras := g.ras.trans h.ras
  boot := g.boot.trans h.boot
  power := g.power.trans h.power
  agenda := g.agenda.trans h.agenda
  now := g.now.trans h.now
  out := g.out.trans h.out
  free := g.free.trans h.free
  cyc := g.cyc.trans h.cyc

/-- A change of the running context changes nothing else. -/
theorem modMe_only (s : State) (f : Ctx → Ctx) : OnlyContext s (s.modMe f) := by
  refine ⟨⟨?_, ?_, ?_, ?_, ?_, ?_, ?_, ?_, ?_, ?_, ?_, ?_, ?_, ?_, ?_⟩, ⟨?_, ?_⟩⟩ <;> intros <;> first | rfl | exact ctx_modMe_ne _ _ _ ‹_›

/-- A change of the running context's core changes nothing else. -/
theorem modCore_only (s : State) (f : CoreSt → CoreSt) : OnlyContext s (s.modCore (coreOf s.cur) f) := by
  refine ⟨⟨?_, ?_, ?_, ?_, ?_, ?_, ?_, ?_, ?_, ?_, ?_, ?_, ?_, ?_, ?_⟩, ⟨?_, ?_⟩⟩ <;> intros <;> first | rfl | exact core_modCore_ne _ _ _ _ ‹_›

/-! ## The end of a step and of a bundle -/

/-- Step 1 ends: the context is marked for step 2 and its transfer is set. -/
theorem endC_done (s : State) (f : Ctx → Ctx) : StepOneDone s ((s.modMe f).endC .next) (f s.me) where
  toOnlyContext := only_trans (modMe_only s f) rfl (modMe_only _ _)
  me := by show ((s.modMe f).modMe _).ctx (s.modMe f).cur = _; rw [ctx_modMe, me_modMe]
  core := rfl
  turns := rfl

/-- Step 1 ends without a change of registers. -/
theorem endC_done' (s : State) : StepOneDone s (s.endC .next) s.me where
  toOnlyContext := modMe_only _ _
  me := ctx_modMe _ _
  core := rfl
  turns := rfl

/-- A bundle ends: step 3, the retirement count, the turn. -/
theorem endBundle_done (s : State) (f : Ctx → Ctx) : BundleDone s (s.modMe f).endBundle (f s.me) where
  toOnlyContext := only_trans (only_trans (only_trans (modMe_only s f) rfl (modMe_only _ _)) rfl (modCore_only _ _)) rfl (yieldTurn_only _)
  me := by
    show ((((s.modMe f).modMe Ctx.transfer).modCore _ _).yieldTurn).ctx (s.modMe f).cur = _
    rw [ctx_yieldTurn, ctx_modCore, ctx_modMe, me_modMe]
  core := by
    show ((((s.modMe f).modMe Ctx.transfer).modCore (coreOf s.cur) _).yieldTurn).core (coreOf s.cur) = _
    rw [core_yieldTurn, core_modCore, core_modMe, core_modMe]
  turns := yieldTurn_turns rfl

theorem setCtx_setCtx (s : State) (c : CtxId) (x y : Ctx) : (s.setCtx c x).setCtx c y = s.setCtx c y := by
  have h (t : List (Nat × Ctx)) (k : Nat) : tableSet (tableSet t k x) k y = tableSet t k y := by
    induction t with
    | nil => simp [tableSet]
    | cons e r ih =>
      obtain ⟨i, w⟩ := e
      by_cases h1 : i = k
      · simp [tableSet, h1]
      · by_cases h2 : k < i <;> simp [tableSet, h1, h2, ih]
  simp [State.setCtx, h]

theorem modMe_modMe (s : State) (f g : Ctx → Ctx) : (s.modMe f).modMe g = s.modMe fun c => g (f c) := by
  show ((s.setCtx s.cur (f s.me)).setCtx s.cur (g (s.modMe f).me)) = _
  rw [setCtx_setCtx, me_modMe]; rfl

/-- A long instruction ends: the bundle is done and the next one is at its address + 8. -/
theorem endLong_done (s : State) (f : Ctx → Ctx) :
    BundleDone s (s.modMe f).endLong { f s.me with xfer := .next } := by
  show BundleDone s ((s.modMe f).modMe fun c => { c with xfer := .next }).endBundle _
  rw [modMe_modMe]
  exact endBundle_done s _

theorem doneA_completes {i : Instr} {s : State} {f : Ctx → Ctx} (h : exec i s = s.doneA f) : Completes i s (f s.me) :=
  ⟨_, h, endBundle_done s f⟩

theorem doneC_completes {i : Instr} {s : State} {f : Ctx → Ctx} (h : exec i s = s.doneC f) : CompletesC i s (f s.me) :=
  ⟨_, h, endC_done s f⟩

theorem endLong_completes {i : Instr} {s : State} {f : Ctx → Ctx} (h : exec i s = .next (s.modMe f).endLong) :
    CompletesLong i s (f s.me) := ⟨_, h, endLong_done s f⟩

end Sys2Proof.Laws
end

