-- ==== Sys2Proof/Laws/Sched.lean ====
section
/-! SUPPORT. What the arbiters and the passing of cycles leave alone (R281, R295), and what a slot, an answer, a reservation,
a predicted path, a retired tile command and a Gauge's window change. -/

namespace Sys2Proof.Laws

open Sys2Proof.Machine

/-- A rename takes one of its context's slots, and changes nothing else of the core. -/
theorem useSlot_frame (k : CoreSt) (n : BitVec 3) : k.useSlot n = { k with slots := (k.useSlot n).slots } := rfl
@[simp] theorem useSlot_slots (k : CoreSt) (n : BitVec 3) :
    (k.useSlot n).slots = k.slots.map fun e => if e.1 == n then (e.1, e.2 - 1) else e := rfl

@[simp] theorem mem_chosen (s : State) (c : CtxId) : (s.chosen c).mem = s.mem := rfl
@[simp] theorem mem_renamed (s : State) (c : CtxId) : (s.renamed c).mem = s.mem := rfl
@[simp] theorem mem_markUrgent (s : State) (c : CtxId) : (s.markUrgent c).mem = s.mem := rfl
@[simp] theorem mem_passedOver (s : State) (c : CtxId × Bool) : (s.passedOver c).mem = s.mem := by
  unfold State.passedOver; split <;> [rfl; (split <;> rfl)]

/-- A fold of steps that each leave memory alone leaves it alone. -/
theorem mem_foldl {α : Type} (f : State → α → State) (h : ∀ s a, (f s a).mem = s.mem) (l : List α) (s : State) : (l.foldl f s).mem = s.mem := by
  induction l generalizing s with
  | nil => rfl
  | cons a l ih => rw [List.foldl_cons, ih, h]

@[simp] theorem mem_arbitrate (s : State) (k : CoreId) (r : List CtxId) (n : Nat) : (s.arbitrate k r n).mem = s.mem :=
  (mem_foldl _ mem_chosen _ _).trans (mem_foldl _ mem_passedOver _ _)

@[simp] theorem mem_arbitrateFor (s : State) (k : CoreId) (r : List CtxId) (c n : Nat) : (s.arbitrateFor k r c n).mem = s.mem := by
  induction n generalizing s c with
  | zero => rfl
  | succ n ih => rw [State.arbitrateFor, ih, mem_foldl _ mem_markUrgent, mem_arbitrate]

@[simp] theorem mem_countCycles (s : State) (k : CoreId) (n : Nat) : (s.countCycles k n).mem = s.mem := rfl
@[simp] theorem mem_passArbiter (s : State) (k : CoreId) (m n : Nat) : (s.passArbiter k m n).mem = s.mem := mem_arbitrateFor ..
@[simp] theorem mem_issueAt (s : State) (k : CoreId) (n : Nat) : (s.issueAt k n).mem = s.mem := mem_arbitrate ..

@[simp] theorem mem_passCycles (s : State) (n : Nat) (k : CoreId) : (s.passCycles n k).mem = s.mem := by
  rw [State.passCycles, mem_foldl _ mem_markUrgent, mem_issueAt, mem_passArbiter]

/-- The passing of cycles writes no byte of memory. -/
@[simp] theorem mem_toCycle (s : State) (n : Nat) : (s.toCycle n).mem = s.mem := by
  unfold State.toCycle; split <;> [rfl; exact mem_foldl _ (fun t k => mem_passCycles t _ k) _ _]

/-- A core's arbiter has then chosen in the cycle, and chooses in it no second time (R281). -/
@[simp] theorem nextChoice_issueAt (s : State) (k : CoreId) (n : Nat) : ((s.issueAt k n).core k).nextChoice = n + 1 := by
  change ((State.arbitrate _ k _ n).core k).nextChoice = n + 1
  rw [State.arbitrate, core_modCore]

/-- The end of a cycle counts counter 4, and changes nothing else of the core. -/
theorem endCycle_frame (k : CoreSt) : k.endCycle = { k with ctr := k.endCycle.ctr } := by unfold CoreSt.endCycle; split <;> rfl

/-- What an access on a predicted path leaves: what its translation leaves, or nothing (R133). -/
theorem walkAhead_cases (s : State) (c : CtxId) (a : Bool × Dword) :
    s.walkAhead c a = s ∨ ∃ t l, s.mapRange (s.who c) (if a.1 then .fetch else .load) a.2 1 = .ok (t, l) ∧ s.walkAhead c a = t := by
  unfold State.walkAhead; split
  · next t l h => exact .inr ⟨t, l, h, rfl⟩
  · exact .inl rfl

/-- Commands retire in their order: those left stand as they stood (R283). -/
theorem retireTiles_sublist (w : List (BitVec 3)) (l : List TileCmd) : (retireTiles w l).Sublist l := by
  induction l generalizing w with
  | nil => exact .slnil
  | cons t r ih => unfold retireTiles; split <;> [exact (ih w).cons t; exact (ih _).cons_cons t]

/-- A command with steps left does not retire. -/
theorem mem_retireTiles {w : List (BitVec 3)} {l : List TileCmd} {t : TileCmd} (h : t ∈ l) (hs : ¬(t.waiting = [] ∧ t.running = [])) :
    t ∈ retireTiles w l := by
  induction l generalizing w with
  | nil => cases h
  | cons a r ih =>
    unfold retireTiles
    obtain rfl | h := List.mem_cons.1 h
    · split
      · next c => exact absurd (by simpa [and_assoc] using c) (fun c : _ ∧ _ ∧ _ => hs ⟨c.1, c.2.1⟩)
      · exact .head _
    · split <;> [exact ih h; exact .tail _ (ih h)]

/-- An instruction that takes no new slot lacks none (R220). -/
@[simp] theorem obtains_zero (s : State) (c : CtxId) : s.obtains c 0 = true := by simp [State.obtains]

/-- A window's end lowers a Gauge's limit by at most 1/300 of capacity, and never below the power manager's (R286). -/
theorem window_limit (g : Gauge) (top : Nat) : (g.window top).limit = max top (g.limit - 8) := rfl
theorem window_ceiling_le (g : Gauge) (top : Nat) : (g.window top).ceiling ≤ max 150 (g.window top).limit := by
  simp only [Gauge.window, nextCeiling]; omega

/-- The answer to an atomic on a U page, awaited or not, leaves the thread awaiting none. -/
theorem answered_of_not_asked {s : State} (h : s.me.asked = false) : s.answered = s := by simp [State.answered, h]
@[simp] theorem mem_answered (s : State) : s.answered.mem = s.mem := by unfold State.answered; split <;> rfl

/-- A write of a line leaves no reservation of it. -/
@[simp] theorem reserved_track (s : State) (l : Nat) (x : Bool) (r : List Nat) : (s.track l x r).reserved l = r := by
  simp [State.reserved, State.track]
@[simp] theorem reserved_hostWrite (s : State) (loc : Nat) (d : List Byte) : (s.hostWrite loc d).reserved (loc / 128) = [] :=
  reserved_track ..

end Sys2Proof.Laws
end

