-- ==== Sys2Proof/Tests/Slice0.lean ====
section
/-! SUPPORT. Tests: an ill-formed term for each check of WellFormed, the words that the manual writes out, single steps with
the manual's own results, and for each obligation with hypotheses a state and operands that meet them. -/

namespace Sys2Proof.Tests

open Sys2Proof.Machine Sys2Proof.Safety

/-! ## Well-formedness: each check refuses -/

theorem test_wf_rounding_field : Instr.wf (.fadd 1 2 3 5 2) = false ∧ Instr.wf (.fsqrt 1 2 6 2) = false := by decide
theorem test_wf_fcond : Instr.wf (.fcmp 1 2 3 6 2) = false ∧ Instr.wf (.fcmp 8 2 3 0 2) = false := by decide
theorem test_wf_fcvt : Instr.wf (.fcvt 1 2 1 0 0 2) = false ∧ Instr.wf (.fcvt 1 2 2 3 0 0) = false ∧
    Instr.wf (.fcvt 1 2 6 0 0 2) = false ∧ Instr.wf (.fcvt 1 2 3 1 0 0) = false := by decide
theorem test_wf_vcvt : Instr.wf (.vcvt 1 2 0 11 0 6 0) = false ∧ Instr.wf (.vcvt 1 2 0 1 0 2 0) = false ∧
    Instr.wf (.vcvt 1 2 0 6 0 6 0) = false ∧ Instr.wf (.vcvt 1 2 1 2 0 6 0) = false := by decide
theorem test_wf_mx : Instr.wf (.vmxpack 1 2 7 6) = false ∧ Instr.wf (.vmxunpk 1 2 8 0 4) = false := by decide
theorem test_wf_pack : Instr.wf (.vpack 1 2 3 0 0 0) = false ∧ Instr.wf (.vunpk 1 2 0 0 3 0) = false := by decide
theorem test_wf_special : Instr.wf (.vrcp 1 2 0 0) = false ∧ Instr.wf (.vtanh 1 2 0 3) = false := by decide
theorem test_wf_tile_operand : Instr.wf (.tmma 0 0 8 0 1 0 0 0 0 0 0) = false ∧ Instr.wf (.tmma 0 0 1 2 1 0 0 0 0 0 0) = false := by decide
theorem test_wf_scales : Instr.wf (.tmmap 1 1 1 1 1 0 2 0) = false := by decide
theorem test_wf_block : Instr.wf (.tmmag 0 0 7 1 1 1 1 0 0 0) = false ∧ Instr.wf (.tmmag 1 0 5 1 1 1 1 0 0 0) = false := by decide
theorem test_wf_tile_parts : Instr.wf (.tcvt 0 1 4 2) = false ∧ Instr.wf (.tcvt 0 1 0 7) = false := by decide
theorem test_wf_bit_field : Instr.wf (.bfx 1 2 31 1 1) = false ∧ Instr.wf (.bfi 1 2 0 1 32) = false := by decide
theorem test_wf_conditions : Instr.wf (.cmp 1 2 3 12) = false ∧ Instr.wf (.vcmp 1 2 3 0 8 0) = false := by decide
theorem test_wf_low_registers : Instr.wf (.prepx 8 1 0) = false ∧ Instr.wf (.pand 1 8 1) = false ∧ Instr.wf (.kmov 1 9) = false ∧
    Instr.wf (.tkpoll 8 0) = false := by decide
theorem test_wf_memory : Instr.wf (.ldnc 1 2 7 0) = false ∧ Instr.wf (.ldaq 10 0 3 1 2) = false ∧ Instr.wf (.ldaq 2 1 3 1 2) = false ∧
    Instr.wf (.strl 2 0 3 1 2) = false ∧ Instr.wf (.amo 4 2 0 1 2 1 9) = false ∧ Instr.wf (.amo 4 2 0 1 2 0 0) = false ∧
    Instr.wf (.cas 4 0 1 9 2 0) = false ∧ Instr.wf (.fence 10 1) = false ∧ Instr.wf (.pref 1 4) = false ∧
    Instr.wf (.tokwait 4 3 1 2) = false := by decide
theorem test_wf_blocks_of_registers : Instr.wf (.spawn 1 27) = false ∧ Instr.wf (.spawn 1 0) = false ∧ Instr.wf (.wget 0 1 1) = false ∧
    Instr.wf (.wcfg 1 4 1) = false := by decide
theorem test_wf_copy : Instr.wf (.copy 3 4 1 2 4 6 0) = false ∧ Instr.wf (.copy 2 4 1 2 4 30 0) = false ∧
    Instr.wf (.copy 0 4 1 2 31 0 0) = false ∧ Instr.wf (.cpfl 2 0 4 1 2 0 0) = false := by decide
theorem test_wf_tile_state : Instr.wf (.tcfg 1 0 1 0) = false ∧ Instr.wf (.tcfg 1 1 0 5) = false ∧ Instr.wf (.tst 1 2 3 7) = false ∧
    Instr.wf (.tstAmax 1 2 3 15 4 10) = false ∧ Instr.wf (.tsclRow 1 2 3) = false ∧ Instr.wf (.ttr 1 2 3) = false := by decide
theorem test_wf_reductions : Instr.wf (.vredadd 1 2 3 0 6 0) = false ∧ Instr.wf (.vredmax 1 2 0 6 1) = false := by decide
theorem test_wf_fused_types : Instr.wf (.vfma 1 2 3 4 0 4) = false ∧ Instr.wf (.ffma 1 2 3 4 5) = false := by decide

/-! ## Words that the manual writes out (R134, R139 to R149, R154, R155, R168 to R181, R190 to R205) -/

theorem test_decode_prepares : decodeC 0x06560000 = .ok (.prepx 5 12 0) ∧ decodeC 0x0B400000 = .ok (.call 5 0 0) ∧
    decodeC 0x06900002 = .ok (.movxb 9 0) ∧ decodeLong 0x82808000 = .ok (.lprep 2 0 0x8000) := by decide
theorem test_decode_system : decodeC 0x10000000 = .ok .eret ∧ decodeC 0x10000001 = .ok .uret ∧ decodeC 0x10000002 = .ok .wait ∧
    decodeC 0x10000003 = .ok .halt ∧ decodeC 0x10000004 = .ok .ifence ∧ decodeC 0x1A960001 = .ok (.waituntil 9 12) ∧
    decodeC 0x0C000011 = .ok (.trap 17) ∧ decodeC 0x12900002 = .ok (.getcw 9 2) ∧ decodeC 0x14060108 = .ok (.setcw 12 0x108) := by
  decide
theorem test_decode_scalar : decodeA 0x192A4004 = .ok (.shri 9 10 4) ∧ decodeA 0x1D22BEEF = .ok (.movi 9 2 0xBEEF) ∧
    decodeA 0x1D301234 = .ok (.lih 9 0 0x1234) ∧ decodeA 0x252A5886 = .ok (.bfxu 9 10 11 0 8) ∧
    decodeA 0x32A54006 = .ok (.cmp 5 9 10 6) ∧ decodeA 0x2D2A580D = .ok (.sel 9 10 11 1 5) ∧
    decodeA 0x09410000 = .ok (.addi 10 1 0) := by decide
theorem test_decode_scalar_float : decodeA 0x3D2A5860 = .ok (.fadd 9 10 11 1 2) ∧ decodeA 0x3D2A1128 = .ok (.fcvt 9 10 2 0 4 2) ∧
    decodeA 0x3D2A9128 = .ok (.fcvt 9 10 18 0 4 2) ∧ decodeA 0x3C6A58A7 = .ok (.fcmp 3 10 11 2 2) := by decide
theorem test_decode_vector : decodeA 0x6C8110D2 = .ok (.vfma 4 1 2 3 2 2) ∧ decodeA 0x78611062 = .ok (.vcmp 3 1 2 0 6 2) ∧
    decodeA 0x84A6C060 = .ok (.vcvt 5 6 1 8 0 6 0) ∧ decodeA 0x84E65066 = .ok (.vmxpack 7 6 10 6) := by decide
theorem test_decode_memory : decodeC 0x209F6001 = .ok (.ldd 9 30 1) ∧ decodeC 0x22BF3002 = .ok (.std 11 30 2) ∧
    decodeC 0x20C2DFFD = .ok (.ldwu 12 5 0xFFD) ∧ decodeC 0x24450002 = .ok (.ldv 4 10 0 2) ∧
    decodeC 0x2A35148A = .ok (.ldvg 3 10 5 2 2 2) ∧ decodeC 0x2E434A80 = .ok (.ldaq 2 0 3 9 10) ∧
    decodeC 0x304B5A80 = .ok (.strl 2 1 3 11 10) ∧ decodeC 0x32934B11 = .ok (.amo 4 2 1 9 12 1 1) ∧
    decodeC 0x36E80000 = .ok (.fence 7 1) ∧ decodeC 0x3A804B00 = .ok (.tokwait 4 0 9 12) ∧
    decodeC 0x3C280001 = .ok (.spawn 2 16) ∧ decodeC 0x3C000002 = .ok .exit := by decide
theorem test_decode_long : decodeLong 0x14B0C6BA08 = .ok (.copy 1 4 12 13 14 16 1) := by decide
theorem test_decode_tiles : decodeLong 0x90400000 = .ok (.tcfg 1 0 0 0) ∧ decodeLong 0x92400000 = .ok (.tzero 1) ∧
    decodeLong 0xD984A96CC = .ok (.tmma 1 1 10 11 12 13 1 1 0 0 0) ∧ decodeLong 0x92000001 = .ok .trel ∧
    decodeLong 0xA40A0000 = .ok (.tsave 5) ∧ decodeLong 0xA4CA0001 = .ok (.trstr 3 5) := by decide
theorem test_decode_rejects_reserved : (decodeC 0x3C000003).isOk = false ∧ (decodeA 0x84000000).isOk = false ∧
    (decodeLong 0xFC000000).isOk = false ∧ (decodeC 0).isOk = false := by decide
theorem test_decode_bytes : decodeBytes [0x11, 0, 0, 0x0C, 0, 0, 0x41, 0x09] = .ok (.trap 17) ∧
    (decodeBytes [0x11, 0, 0, 0x0C]).isOk = false := by decide

/-! ## States -/

/-- The reset state with one thread in context 0, running, its bundle in hand. -/
def seat (f : Ctx → Ctx) : State :=
  { State.reset with agenda := [], turns := [0], ctxs := [(0, f { Ctx.reset with st := .running, phase := .first })] }
/-- The same in firmware mode, with every HBM pair ready. -/
def firm (f : Ctx → Ctx) : State :=
  { seat fun c => f { c with cw := { c.cw with status := 3 } } with boot := { Boot.reset with ready := 0x1FFFF } }
/-- A state in which an event happens. -/
def sees (s : State) (e : Event) : State := { s with now := some e }
/-- What holds of the next state; false where there is none. -/
def after (o : Out) (p : State → Bool) : Bool := match o with | .next t => p t | _ => false
/-- What holds of an answer; false where there is none. -/
def got {ε α : Type} (r : Except ε α) (p : α → Bool) : Bool := match r with | .ok a => p a | .error _ => false
/-- x[r] of the running context. -/
def atX (r : Reg) (v : Dword) (t : State) : Bool := t.getX r == v

/-! ## Single steps with the manual's results -/

/-- R137: DIV of 7 by −2 gives −3, REM gives 1. -/
theorem test_div : after (exec (.div 9 10 11) (seat fun c => (c.setX 10 7).setX 11 (.ofInt 64 (-2)))) (atX 9 (.ofInt 64 (-3))) = true := by
  decide
theorem test_rem : after (exec (.rem 9 10 11) (seat fun c => (c.setX 10 7).setX 11 (.ofInt 64 (-2)))) (atX 9 1) = true := by decide
/-- R137: DIVU by 0 gives all ones. -/
theorem test_divu_zero : after (exec (.divu 9 10 11) (seat fun c => c.setX 10 7)) (atX 9 0xFFFFFFFFFFFFFFFF) = true := by decide
/-- R137: SARW of 0x8000_0000 by 4. -/
theorem test_sarw : after (exec (.sarw 9 10 11) (seat fun c => (c.setX 10 0x80000000).setX 11 4)) (atX 9 0xFFFFFFFFF8000000) = true := by
  decide
/-- R142: BFXU x9, x10, 8, 12. -/
theorem test_bfxu : after (exec (.bfxu 9 10 11 0 8) (seat fun c => c.setX 10 0xABCD00)) (atX 9 0xBCD) = true := by decide
/-- R140: MOVI then LIH. -/
theorem test_lih : after (exec (.lih 9 0 0x1234) (seat fun c => c.setX 9 0xBEEF00000000)) (atX 9 0xBEEF00001234) = true := by decide
/-- R144: CMPI.ltu p1, x9, −1 is true for every x9 but all ones. -/
theorem test_cmpi_ltu : after (exec (.cmpi 1 9 0x3FFF 6) (seat id)) (fun t => t.me.getP 1) = true ∧
    after (exec (.cmpi 1 9 0x3FFF 6) (seat fun c => c.setX 9 (BitVec.allOnes 64))) (fun t => !t.me.getP 1) = true := by decide
/-- R44: a write to x0 is discarded. -/
theorem test_x0 : after (exec (.add 0 1 1) (seat fun c => c.setX 1 5)) (atX 0 0) = true := by decide
/-- R171: FADD.sf.rtz of 1 and 2^−24 keeps 1 and sets nx. -/
theorem test_fadd_rtz : after (exec (.fadd 9 10 11 1 2) (seat fun c => (c.setX 10 0x3F800000).setX 11 0x33800000))
    (fun t => t.getX 9 == 0x3F800000 && t.me.cw.fpctl == 0x100) = true := by decide
/-- R171: FCVT.w.sf.rmm of −2.5 is −3; with .u it is 0 and sets nv. -/
theorem test_fcvt : after (exec (.fcvt 9 10 2 0 4 2) (seat fun c => c.setX 10 0xC0200000)) (atX 9 0xFFFFFFFFFFFFFFFD) = true ∧
    after (exec (.fcvt 9 10 18 0 4 2) (seat fun c => c.setX 10 0xC0200000)) (fun t => t.getX 9 == 0 && t.me.cw.fpctl == 0x10) = true := by
  decide
/-- R171: FCMP.lt with a NaN is false and sets nv. -/
theorem test_fcmp_nan : after (exec (.fcmp 3 10 11 2 2) (seat fun c => (c.setX 10 0).setX 11 0x7FC00000))
    (fun t => !t.me.getP 3 && t.me.cw.fpctl == 0x10) = true := by decide
set_option maxRecDepth 20000 in
/-- R174: element 0 of the worked VFMA is 9 + 3.0 × 0.5 − 8, that is 2.5; an inactive element is kept. -/
theorem test_vfma : after (exec (.vfma 4 1 2 3 2 2) (seat fun c => ((((c.setV 1 0x40400000).setV 2 0x3F000000).setV 3 0x3F800000).setV 4
    0x4110000041100000).setK 2 1)) (fun t => t.me.getV 4 == 0x4110000040200000) = true := by decide
/-- R122: VEXP2 of 3 is 8, of −150 is 0 with uf and nx; VLOG2 of 0.25 is −2; VRCP of 2^−149 overflows. -/
theorem test_vexp2 : Fmt.fp32.special .exp2 0x40400000 = (0x41000000, noFlags) ∧ (Fmt.fp32.special .exp2 0xC3160000).1 = 0 ∧
    (Fmt.fp32.special .exp2 0xC3150000).1 = 1 := by decide
theorem test_vlog2 : Fmt.fp32.special .log2 0x3E800000 = (0xC0000000, noFlags) ∧ (Fmt.fp32.special .rcp 1).1 = 0x7F800000 ∧
    (Fmt.fp32.special .cos 0x80000000).1 = 0x3F800000 := by decide
/-- R179: VCVT.e4.sf of 470 is 448 with .sat, and 0x7F without. -/
theorem test_vcvt_sat : (convert 6 8 false true .rne 0x43EB0000).1 = 0x7E ∧ (convert 6 8 false false .rne 0x43EB0000).1 = 0x7F := by decide
/-- R134: CALL b5 at 0x1_0040 with x12 = 0x3_0000 goes there and leaves 0x1_0049 in b0. -/
theorem test_call : let c : Ctx := { Ctx.reset with pc := 0x10040, xfer := .call 5 0 0 }.setB 5 (.to 0x30000 true)
    c.transfer.pc = 0x30000 ∧ (c.transfer.getB 0).image = 0x10049 := by decide
/-- R149: TRAP 17 at 0x2_0100 leaves cause 0xF, tval 17 and epc 0x2_0104. -/
theorem test_trap : after (exec (.trap 17) (seat fun c => { c with pc := 0x20100 })) (fun t => t.me.cw.cause == 0xF &&
    t.me.cw.tval == 17 && t.me.cw.epc == 0x20104 && t.me.mode == 1) = true := by decide
/-- R148: ERET from there resumes at slot A in user mode. -/
theorem test_eret : let c : Ctx := { Ctx.reset with xfer := .eret, cw := { Cw.reset with status := 0x11, epc := 0x20104 } }
    c.transfer.pc = 0x20100 ∧ c.transfer.slotA = true ∧ c.transfer.mode = 0 := by decide
/-- R51: HALT in user mode is a privileged instruction. -/
theorem test_halt_user : after (exec .halt (seat id)) (fun t => t.me.cw.cause == 2 && t.me.mode == 1) = true := by decide
/-- R190: a store and the load of the same bytes, in firmware mode. -/
theorem test_store : after (exec (.std 11 30 2) (firm fun c => (c.setX 30 0x1000).setX 11 0x1122334455667788)) (fun t =>
    after (exec (.ldw 9 30 4) t) (atX 9 0x55667788) && after (exec (.ldb 9 30 17) t) (atX 9 0x77)) = true := by decide
/-- R195: AMO.add on a word answers the old value, sign-extended. -/
theorem test_amo : after (exec (.amo 4 0 0 9 12 0 1) ((firm fun c => (c.setX 12 0x1000).setX 9 2).writeMem
    (cellsAt 0x1000 (toBytes 4 0xFFFFFFFF)))) (fun t => t.getX 9 == BitVec.allOnes 64 && ofBytes (readCells t.mem 0x1000 4) == 1) = true := by
  decide
/-- R217: TCFG makes the thread tile-enabled with its fmt, and writes the predicate. -/
theorem test_tcfg : after (exec (.tcfg 1 0 0 0x0122) (seat id)) (fun t => t.me.tile && t.me.fmt == 0x0122 &&
    t.me.getP 1) = true := by decide
/-- R379: level 6 limits to 2,812.5 W. -/
theorem test_power_limit : powerLimit 6 = 11250 ∧ powerLimit 15 = 4500 := by decide
/-- R380: level 6 is sent as 0xD690. -/
theorem test_shutter_frame : frameValid 0xD690 = true ∧ frameValid 0xD680 = false := by decide
/-- R368: nothing placed, the first step after reset is the release, and the next verifies the image. -/
theorem test_first_step : after (step State.reset) (fun t => t.agenda == [.own .imageVerify]) = true := by decide
set_option maxRecDepth 20000 in
/-- An instruction placed where the next step fetches runs there. -/
theorem test_placed_word : after (step (State.reset.withFetchWord 32 0x0C000000)) (fun t => t.me.mode == 3) = true := by decide

/-! ## Witnesses: for each obligation with hypotheses, a state and operands that meet them -/

/-- The step goes on. -/
def goes (o : Out) : Bool := after o fun _ => true
/-- What holds of the stop that ends an access; false where none does. -/
def stopped {α : Type} (r : Except Stop α) (p : Stop → Bool) : Bool := match r with | .error e => p e | _ => false
/-- What holds of the trap that ends an access; false where none does. -/
def trapped {α : Type} (r : Except Stop α) (p : Exc → Bool) : Bool := match r with | .error (.trap x) => p x | _ => false
/-- User mode, address space 0 mapping every address to itself by one leaf, HBM committed and ready. -/
def paged (f : Ctx → Ctx) : State :=
  { seat f with
    boot := { Boot.reset with ready := 0x800000000001FFFF }
    dev := { Dev.reset with committed := true, astBase := 0x200001 }
    mem := writeCells [] (cellsAt 0x200000 [0x01, 0x00, 0x30] ++ cellsAt 0x300000 [0xD7]) }
/-- An event's row goes on in a state that sees it. -/
def happens (s : State) (e : Event) (p : State → Bool) : Bool := after (exec e.row (sees s e)) p

/-! StepRunsTheDecodedInstruction -/
theorem meets_step_event : State.reset.agenda = [.event .resetRelease] ∧ State.reset.power.drain ≠ .halted := by decide
theorem meets_step_first : let s := seat fun c => { c with bundle := 0x0941000002000000 }
    s.agenda = [] ∧ s.power.drain = .none ∧ s.gang = false ∧ s.me.st = .running ∧ s.takeable s.cur = none ∧ s.me.phase = .first ∧
    (decodeC (s.me.bundle.extractLsb' 0 32)).isOk ∧ goes (step s) := by decide
theorem meets_step_second : let s := seat fun c => { c with bundle := 0x0941000002000000, phase := .second }
    s.takeable s.cur = none ∧ s.me.phase = .second ∧ (decodeA (s.me.bundle.extractLsb' 32 32)).isOk ∧ goes (step s) := by decide
set_option maxRecDepth 20000 in
theorem meets_step_fetch : let s := State.reset.withFetchWord 32 0x0C000000
    s.agenda = [] ∧ s.power.drain = .none ∧ s.gang = false ∧ s.me.st = .running ∧ s.takeable s.cur = none ∧ s.me.phase = .fetch ∧
    s.failDue s.cur = false ∧ s.me.slotA = false ∧ s.mayRename s.cur ∧ got (s.fetch s.cur) (fun r => r.2 == 0x0C000000) := by decide
set_option maxRecDepth 20000 in
theorem meets_step_fetch_slot_a : let s := State.reset.withFetchWord 32 0x09410000
    s.me.slotA = true ∧ s.mayRename s.cur ∧ got (s.fetch s.cur) (fun r => r.2 == 0x0941000002000000) ∧ goes (step s) := by decide
theorem meets_step_fetch_trap : let s := firm fun c => { c with phase := .fetch, pc := 0x100000000000000 }
    s.takeable s.cur = none ∧ trapped (s.fetch s.cur) (·.code == 9) = true ∧ goes (step s) := by decide
theorem meets_step_illegal : (decodeC 0x10000008).isOk = false ∧ isSolo 0x10000008 = false ∧ isSolo 0x3C000002 = true ∧
    (decodeA 1).isOk = false ∧ (decodeLong 0xFC000000).isOk = false ∧ isLong 0xFC000000 = true := by decide

/-! EncodedInstructionsDecode, DecodedWordsEncode, ExitIsOneSoloWord, AWordsAlwaysComplete -/
theorem meets_encode : Instr.wf (.add 1 2 3) = true ∧ Instr.place (.add 1 2 3) = .aWord ∧ Instr.wf (.li 1 5) = true ∧
    Instr.place (.li 1 5) = .long ∧ Instr.wf (.trap 17) = true ∧ Instr.place (.trap 17) = .cWord := by decide
theorem meets_exit_functions : (0x3C000003 : BitVec 32).toNat / 2 ^ 25 % 2 ^ 6 = 0x1E ∧ 3 ≤ (0x3C000003 : BitVec 32).toNat % 2 ^ 10 ∧
    (0x3C0003FF : BitVec 32).toNat / 2 ^ 25 % 2 ^ 6 = 0x1E ∧ 3 ≤ (0x3C0003FF : BitVec 32).toNat % 2 ^ 10 := by decide

/-! SoundIsKept -/
theorem meets_sound : Sound (seat id) ∧ goes (step (seat fun c => { c with bundle := 0x02000000 })) := by
  refine ⟨⟨⟨by decide, by decide⟩, fun c => ?_⟩, by decide⟩
  have h : ∀ n : Nat, (tableGet (seat id).ctxs n Ctx.reset).mode ≠ 2 := by
    intro n
    simp only [seat, State.reset, tableGet]
    split <;> decide
  exact h c.toNat

/-- No copy unit of a state without skeins has a line pinned. -/
theorem no_pins (s : State) (h : s.skeins = []) : NoPins s := by
  intro n
  simp [State.pinHeld, h]
theorem meets_no_pins : NoPins (firm id) ∧ NoPins (paged id) := ⟨no_pins _ rfl, no_pins _ rfl⟩

/-! ImmediateAndBitFieldResults: the largest field that fits -/
theorem meets_bit_field : (0 : BitVec 6).toNat + ((1 : BitVec 1).toNat * 32 + (31 : Reg).toNat + 1) ≤ 64 ∧
    (63 : BitVec 6).toNat + ((0 : BitVec 1).toNat * 32 + (0 : Reg).toNat + 1) ≤ 64 := by decide

/-! PreparesBranchesReturns -/
theorem meets_branch : ((seat fun c => c.setB 2 (.to 0x1000 true)).me.getB 2).valid = true ∧ ((seat id).me.getB 2).valid = false := by
  decide
theorem meets_returns : (firm id).me.mode ≠ 0 ∧ (seat id).me.mode = 0 ∧
    (let s := seat fun c => { c with cw := { c.cw with upctl := 2 } }
     s.me.mode = 0 ∧ s.me.cw.upctl.getLsbD 1 = true ∧ goes (exec .uret s)) := by decide

/-! TrapEntries, PrivilegedInstructionsTrap -/
theorem meets_supervisor_entry : ¬GoesToFirmware ((seat id).ctx 0) (exc 1 0) := by
  unfold GoesToFirmware; decide
theorem meets_firmware_entry : GoesToFirmware ((firm id).ctx 0) (exc 1 0) ∧ GoesToFirmware ((seat id).ctx 0) (excD 0x30 2 0) := by
  unfold GoesToFirmware; decide
theorem meets_illegal : let s := sees (seat fun c => { c with bundle := 0x10000008 }) (.illegalInstruction 0x10000008)
    s.me.st = .running ∧ s.me.phase = .first ∧ (decodeC 0x10000008).isOk = false ∧ goes (exec .illegalInstruction s) := by decide
theorem meets_privileged : (seat id).me.mode = 0 ∧ cwExists 0x101 = true ∧ cwWritable 0x101 = true ∧ cwExists 0x200 = true := by decide

/-! WaitsCompleteOrPark, ControlWordAccess, TranslationsAreDropped -/
theorem meets_wait : (seat fun c => { c with latch := true }).me.latch = true ∧ (seat id).me.latch = false ∧
    (seat id).me.cw.ien &&& (seat id).me.pending 0 = 0 := by decide
theorem meets_waituntil : ((seat id).getX 0).toNat ≤ (seat id).dev.time.toNat ∧
    (seat id).dev.time.toNat < ((seat fun c => c.setX 1 1).getX 1).toNat := by decide
theorem meets_mkwait : let s := seat fun c => c.setX 1 (BitVec.allOnes 64)
    s.getX 1 = BitVec.allOnes 64 ∧ Marker.reset.b.toNat ≤ (s.getX 0).toNat ∧ Marker.reset.p.toNat ≤ (s.getX 0).toNat ∧
    (let t := (seat id).setSkein 0 { SkeinSt.reset with markers := [(0, { Marker.reset with p := 1 })] }
     let mk := tableGet (t.skein 0).markers 0 Marker.reset
     mk.b.toNat ≤ (t.getX 0).toNat ∧ (t.getX 0).toNat < mk.p.toNat) ∧
    (let t := (seat id).setSkein 0 { SkeinSt.reset with markers := [(0, { Marker.reset with p := 1, b := 1 })] }
     (t.getX 0).toNat < (tableGet (t.skein 0).markers 0 Marker.reset).b.toNat) := by decide
/-- A ticket-table entry of context 0. -/
def tkEntry (s : State) (k : TkKind) (st : TkState) (f : FabKind) : TkEntry :=
  { kind := k, ctx := 0, pc := s.me.pc, state := st, fwd := none, ticket := 7, addr := 0x8000000000000000
    packet := { s.packet 0 f 0x8000000000000000 8 0xFF 0 0 with owner := .entry 0 }, answer := none, replaying := false
    told := false, squashed := false, noted := none, seq := 0 }
/-- A core 0 with one ticket-table entry. -/
def withEntry (s : State) (e : TkEntry) : State := s.setCore 0 { s.core 0 with tk := [(0, e)] }
theorem meets_tkwait : (seat id).ticketReady 0 7 = true ∧
    (withEntry (seat id) (tkEntry (seat id) .read .ticket .load)).ticketReady 0 7 = false := by decide
theorem meets_tokwait : let s := firm fun c => c.setX 2 0x1000
    (s.getX 2).toNat % 8 = 0 ∧ got (s.mapRange (s.who s.cur) .load (s.getX 2) 8) (fun r =>
      got ((r.1.acquireS (coreOf s.cur) 2).readBytes s.cur r.2) fun w => ofBytes w.2 == 0) ∧
    ((seat fun c => c.setX 2 4).getX 2).toNat % 8 ≠ 0 := by decide
theorem meets_ifence : ((seat id).drain 0).posted 0 = [] := by decide
theorem meets_control_words : cwExists 0x0FF = false ∧ cwWritable 0x000 = false ∧ cwExists 0x002 = true ∧ cwWritable 0x109 = true ∧
    cwWritable 0x10A = true ∧ 3 ≤ (firm id).me.mode.toNat := by decide
theorem meets_tlbinv : (firm id).me.mode ≠ 0 ∧ (firm id).me.st = .running ∧ ((firm id).drainCore 0).posted 0 = [] ∧
    (let s := withEntry (firm id) (tkEntry (firm id) .posted .sent .store)
     (s.drainCore 0).posted s.cur ≠ []) := by decide
theorem meets_shootdown : happens ({ seat id with dev := { Dev.reset with sdq := [(0, { Sdq.reset with w := #v[1, 0, 0, 0] })] } })
    (.shootdownRequest 0) (fun t => (t.sdq 0).busy == some (#v[1, 0, 0, 0], false)) = true ∧
    happens ({ seat id with dev := { Dev.reset with sdq := [(0, { Sdq.reset with w := #v[4, 0, 0, 0] })] } })
      (.shootdownRequest 0) (fun t => (t.sdq 0).busy == some (#v[4, 0, 0, 0], true)) = true := by decide
theorem meets_shootdown_complete : let s := { paged id with dev := { (paged id).dev with sdq := [(0,
      { w := #v[0x500000001, 0, 0, 0x1000], busy := some (#v[0x500000001, 0, 0, 0x1000], false) })] } }
    s.region 0x1000 = .hbm 0x1000 ∧ Memory.wf s.mem = true ∧
    happens s (.shootdownComplete 0) (fun t => (t.sdq 0).busy == none && ofBytes (readCells t.mem 0x1000 8) == 5) = true := by decide

/-! TranslationOutcomes -/
theorem meets_firmware_address : let s := firm id
    (s.who 0).mode = 3 ∧ s.dev.hbmBase ≤ 0x1000 ∧ 0x1000 + 8 ≤ s.dev.hbmBase + 768 * 2 ^ 30 ∧ 0x1000 + 8 ≤ s.dev.bar0 ∧
    (∀ d, d < 8 → s.boot.ready.getLsbD (9 + d) = true ∧ s.boot.ready.getLsbD (33 + d) = false) ∧
    trapped (s.mapRange (s.who 0) .load 0x100000000000000 8) (fun x => x.code == 9 && x.detail == 1) ∧
    trapped ((seat id).mapRange ((seat id).who 0) .load 0x8000000000000000 8) (fun x => x.code == 9 && x.detail == 2) ∧
    trapped ((seat id).mapRange ((seat id).who 0) .load 0x100000000000000 8) (fun x => x.code == 9 && x.detail == 1) := by decide
theorem meets_walk : let s := paged id
    (s.core 0).tlb = [] ∧ got (s.asEntry 0 0) (fun r => match r.2 with
      | some a => got (r.1.walkFrom 0x1000 4 a.root) (· == .leaf 4 0xD7 0x300000) | none => false) ∧
    got (s.mapRange (s.who 0) .load 0x1000 8) (fun r => r.2.length == 8) ∧
    got (s.mapRange (s.who 0) .store 0x1000 8) (fun r => r.2.length == 8) := by decide
/-- The same with another leaf. -/
def leafed (p : Byte) : State := (paged id).writeMem (cellsAt 0x300000 [p])
theorem meets_walk_faults :
    trapped ((leafed 0).mapRange ((leafed 0).who 0) .load 0x1000 8) (fun x => x.code == 6 && x.detail == 0) ∧
    trapped ((leafed 0x05).mapRange ((leafed 0).who 0) .load 0x1000 8) (fun x => x.code == 6 && x.detail == 1) ∧
    trapped ((leafed 0xC7).mapRange ((leafed 0).who 0) .load 0x1000 8) (fun x => x.code == 9 && x.detail == 3) ∧
    trapped ((leafed 0xD3).mapRange ((leafed 0).who 0) .store 0x1000 8) (fun x => x.code == 7 && x.detail == 1) ∧
    trapped (((leafed 0x57).writeMem (cellsAt 0x200000 [0x05])).mapRange ((leafed 0).who 0) .store 0x1000 8)
      (fun x => x.code == 7 && x.detail == 2) := by decide

/-- paged with the page of 0x1000 cached in the TLB, with PTE p. -/
def translated (p : Dword) : State :=
  (paged id).setCore 0 { CoreSt.reset 0 with tlb := [⟨0, false, 1, 12, p, 0x300000, false⟩] }
theorem meets_tlb_hit : got ((translated 0x4D7).mapRange ((translated 0).who 0) .load 0x1000 8) (fun r => r.2.map (·.loc) == (List.range 8).map (0x1000 + ·)) ∧
    got ((translated 0x4D7).asEntry 0 0) (·.2.isSome) ∧ got ((seat id).asEntry 0 0) (·.2 == none) ∧
    trapped ((seat id).mapRange ((seat id).who 0) .load 0x1000 8) (fun x => x.code == 6 && x.detail == 0) := by decide

/-! StoresAreSeenAndPerformed, RetiredStoresArePerformed -/
theorem meets_poison : let s := (firm id).setPoison 0x1000
    s.poisoned 0x1000 = true ∧ (s.core 0).findLine 0x20 = none ∧
    trapped (s.readBytes 0 [⟨0x1008, 0x1008, .D⟩]) (fun x => x.code == 0x0C && x.tval == 0x1000) ∧
    trapped (s.writeMemBytes 0 false [⟨0x1008, 0x1008, .D⟩] [5]) (fun x => x.code == 0x0C && x.tval == 0x1000) ∧
    trapped (s.writeMemBytes 0 true [⟨0x1008, 0x1008, .S⟩] [5]) (fun x => x.code == 0x0C && x.tval == 0x1000) := by decide
theorem meets_merged_read : let s := firm fun c => { c with stores := [.amax .D 0x1000 9] }
    got (s.readBytes 0 [⟨0x1000, 0x1000, .D⟩]) (fun r => r.2 == [9]) := by decide
theorem meets_reads : got ((firm id).readBytes 0 [⟨0x1000, 0x1000, .D⟩]) (fun r => r.2 == [0]) ∧
    got ((firm id).writeMemBytes 0 false [⟨0x1000, 0x1000, .D⟩] [5]) (fun t => (t.ctx 0).stores.length == 1) ∧
    got ((firm id).writeMemBytes 0 false [⟨0x1000, 0x1000, .U⟩] [5]) (fun t => readCell t.mem 0x1000 == 5) := by decide
theorem meets_store_perform : let s := firm fun c => { c with stores := [.bytes .D [(0x1000, 5)] false, .amax .D 0x2000 9] }
    happens s (.storePerform 0 0) (fun t => readCell t.mem 0x1000 == 5) ∧
    happens s (.amaxMerge 0 1) (fun t => readCell t.mem 0x2000 == 9) := by decide

set_option maxRecDepth 20000 in
theorem meets_store_kinds :
    happens (firm fun c => { c with stores := [.bytes .S [(0x1000, 5)] false] }) (.storePerform 0 0)
      (fun t => t.byteFor 0 .S 0x1000 == 5 && readCell t.mem 0x1000 == 0) ∧
    happens ((firm fun c => { c with stores := [.bytes .D [(0x1000, 5)] true] }).setPoison 0x1000) (.storePerform 0 0)
      (fun t => !t.poisoned 0x1000) ∧
    (let s := firm fun c => { c with st := .exiting, stores := [.bytes .D [(0x1000, 5)] false] }
     happens { s with dev := { s.dev with gsctl := 2 } } (.storePerform 0 0) (fun t => readCell t.mem 0x1000 == 0)) := by decide

/-! ScalarLoadsAndStores, VectorLoadsAndStores, HomeAcquireRelease, AtomicResults, FencesAndCacheOperations -/
/-- Firmware mode with a pointer in x1, a stride in x2 and one element chosen by k1. -/
def pointed : State := firm fun c => ((c.setX 1 0x1000).setX 2 128).setK 1 1
theorem meets_loads : goes (exec (.ldd 9 1 0) pointed) ∧ goes (exec (.std 9 1 0) pointed) := by decide
theorem meets_loads_fault : trapped ((seat id).mapRange ((seat id).who 0) .load 0 8) (fun x => x.code == 6) := by decide
set_option maxRecDepth 20000 in
theorem meets_vector_loads : goes (exec (.ldv 1 1 1 0) pointed) ∧ goes (exec (.stv 1 1 1 0) pointed) ∧
    (pointed.me.getK 1 ≠ 0 ∧ pointed.me.getK 2 = 0) := by decide
set_option maxRecDepth 40000 in
theorem meets_strided : goes (exec (.ldvs 1 1 2 1 3) pointed) ∧ goes (exec (.stvx 1 1 2 0 1 3) pointed) := by decide
/-- User mode with a fabric address in x1. -/
def far (a : Dword) : State := seat fun c => c.setX 1 a
theorem meets_fabric : let s := far 0x8000000000000000
    let q := s.packet s.cur .load 0x8000000000000000 8 0xFF 0 0
    (s.getX 1).getLsbD 63 = true ∧ s.me.mode ≠ 3 ∧ s.ownEntry s.cur 0x8000000000000000 q = none ∧
    (s.launchAccess s.cur .read 0x8000000000000000 q).isSome ∧
    after (exec (.ldd 9 1 0) s) (fun t => t.myCore.tk.length == 1) ∧ after (exec (.std 9 1 0) s) (fun t => t.myCore.tk.length == 1) := by
  decide
theorem meets_fabric_crosses : let s := far 0x800000000000007C
    128 < (s.getX 1).toNat % 128 + 8 ∧ after (exec (.ldd 9 1 0) s) (fun t => t.me.cw.cause == 0x209) := by decide
set_option maxRecDepth 20000 in
theorem meets_fabric_answered : let s := far 0x8000000000000000
    let q := s.packet s.cur .load 0x8000000000000000 8 0xFF 0 0
    let with_ := fun (st : TkState) (a : Option FabAnswer) => withEntry s { tkEntry s .read st .load with answer := a }
    let finds := fun st a => ((with_ st a).ownEntry s.cur 0x8000000000000000 q).map fun e => e.2.state
    finds .sent none = some .sent ∧ finds .done (some (.ok 5)) = some .done ∧ finds .noticeFail none = some .noticeFail ∧
    finds .ticket none = some .ticket ∧ after (exec (.ldd 9 1 0) (with_ .done (some (.ok 5)))) (atX 9 5) ∧
    after (exec (.ldd 9 1 0) (with_ .done (some .poison))) (fun t => t.me.cw.cause == 0x0C) ∧
    after (exec (.ldd 9 1 0) (with_ .done (some .refused))) (fun t => t.me.cw.cause == 0x0A) := by decide
theorem meets_vector_fabric : ((far 0x8000000000000040).getX 1).toNat % 128 ≠ 0 ∧ ((far 0x8000000000000080).getX 1).toNat % 128 = 0 := by
  decide
theorem meets_release_acquire : goes (exec (.ldnc 9 1 6 0) pointed) ∧ goes (exec (.ldaq 2 1 3 9 1) pointed) ∧
    goes (exec (.strl 2 1 3 9 1) pointed) ∧ pointed.releaseWaits 0 2 = false ∧
    (let s := withEntry pointed (tkEntry pointed .posted .sent .store)
     s.releaseWaits s.cur 7 = true ∧ goes (exec (.strl 7 1 3 9 1) s)) := by decide
theorem meets_atomics : goes (exec (.amo 2 3 1 9 1 1 0) pointed) ∧ goes (exec (.cas 2 3 1 9 1 1) pointed) ∧
    (pointed.getX 1).toNat % 8 = 0 ∧ (pointed.getX 2).toNat % 4 = 0 ∧ ((far 0x1004).getX 1).toNat % 8 ≠ 0 ∧
    got (pointed.rmw 0 [⟨0x1000, 0x1000, .D⟩, ⟨0x1001, 0x1001, .D⟩] (· + 1)) (fun r => r.2 == 0 && readCell r.1.mem 0x1000 == 1) := by
  decide
/-- A failed store of the running context. -/
def failedStore : Fail := { addr := 0x8000000000000000, ticket := 0xFFFF, at_ := 0, due := false, poison := false, seq := 0 }
theorem meets_fence : goes (exec (.fence 9 3) pointed) ∧
    (let s := withEntry pointed (tkEntry pointed .posted .sent .store)
     7 ≤ (9 : BitVec 4).toNat ∧ (1 : BitVec 2) ≠ 0 ∧ s.posted s.cur ≠ []) ∧
    after (exec (.fence 9 3) (seat fun c => { c with fails := [failedStore] })) (fun t => t.me.cw.cause == 0x0B) ∧
    after (exec (.fence 9 3) (seat fun c => { c with lost := [3] })) (fun t => t.me.cw.cause == 0x10 && t.me.cw.tval == 3) := by decide
theorem meets_afence : goes (exec (.afence 1) pointed) := by decide
/-- A queue of core 0 that holds n copies. -/
def queueOf (s : State) (c : CopyCmd) (n : Nat) : State := s.modCore 0 fun k => k.setQueue 0 (List.replicate n (.cmd c))
set_option maxRecDepth 20000 in
theorem meets_afence_kinds : let s := (pointed).setX 1 1
    let c := State.copyCmd s none 0 4 0 0 0 0
    after (exec (.afence 1) (queueOf s c 1)) (fun t => (t.myCore.queue 0).length == 2 && t.me.phase == .second) ∧
    after (exec (.afence 1) (queueOf s c 16)) (fun t => (t.myCore.queue 0).length == 16 && t.me.phase == .first) := by decide
set_option maxRecDepth 20000 in
theorem meets_line_operations : got (pointed.mapRange (pointed.who 0) .load 0x1000 128) (fun r => r.2.length == 128) ∧
    goes (exec (.cclean 1) pointed) ∧ goes (exec (.czero 1) pointed) := by decide
set_option maxRecDepth 40000 in
theorem meets_more_line_operations : goes (exec (.cflush 1) pointed) ∧ goes (exec (.cinv 1) pointed) ∧
    ((pointed.prefetch 1 ⟨0x1000, 0x1000, .D⟩).core 0).l1.map (·.state) = [.exclusive] ∧
    after (exec (.pref 1 0) (seat fun c => c.setX 1 0x1000)) (fun t => (t.core 0).l1 == []) := by decide
theorem meets_failed_poison : after (exec (.fence 9 3) (seat fun c => { c with fails := [{ failedStore with poison := true }] }))
    (fun t => t.me.cw.cause == 0x0C) := by decide

/-! FabricSend, SpawnAndExit, LaunchRouting -/
theorem meets_fabric_send : let s := far 0
    (List.range 32).filter (fun n => ((s.core 0).tk.map (·.1)).contains n = false) ≠ [] ∧ s.maySend 0 0 false = true ∧
    (let t := { s with niu := { Niu.reset with busy := [{ core := 0, dest := 0, count := 1, held := true, backoff := false }] } }
     t.maySend 0 0 false = false ∧ t.launchAccess 0 .read 0x8000000000000000 (t.packet 0 .load 0x8000000000000000 8 0xFF 0 0) = none) := by
  decide
/-- A valid address space 0, x1 the first of SPAWN's registers, target any core of skein 1. -/
def spawning : State := paged fun c => (c.setX 1 0x1000).setX 4 0x401
theorem meets_spawn : after (exec (.spawn 3 1) spawning) (fun t => t.me.getP 3 && (t.core 8).lq.length == 1) ∧
    after (exec (.spawn 3 1) (spawning.setX 1 4)) (fun t => !t.me.getP 3) ∧ goes (exec .exit (seat id)) := by decide
/-- A launch of core n's skein. -/
def launch (n : BitVec 11) : LaunchReq :=
  { target := n, pc := 0x1000, arg0 := 1, arg1 := 2, asn := 0, tag := 3, prio := 0, fence := true, token := 0, comp := 0 }
/-- spawning, no die ready. -/
def dieless : State := { spawning with boot := { Boot.reset with ready := 0x800000000001FE00 } }
/-- The same, skein 9's eight hold entries taken. -/
def crowdedRouter : State :=
  { dieless with dev := { dieless.dev with router := List.replicate 8 { core := 72, req := launch 72, origin := .spawn 0, hold := true, unchecked := false } } }
/-- A request to the core that the router chooses for it. -/
def routed (s : State) (o : LaunchOrigin) (q : LaunchReq) : Routed := (s.route o q (s.chooseCore q)).2
theorem meets_route : let s := spawning
    routed spawning (.mailbox 1) (launch 0x401) = .entered 8 ∧ (s.boot.ready.getLsbD 1 = true ∧ (s.core 8).lq.length < 16) ∧
    routed spawning (.spawn 0) (launch 0x409) = .entered 72 ∧
    routed (seat id) (.spawn 0) (launch 0x409) = .held ∧ routed (seat id) (.mailbox 1) (launch 9) = .waits := by decide
theorem meets_launch_route : happens spawning (.launchRoute (.spawn 0) (launch 9)) (fun t => (t.core 9).lq.length == 1) ∧
    (let s := spawning.setH2d 1 { H2d.reset with waiting := true, cfg := 1, entries := [(0, 0)] }
     happens s (.launchRoute (.mailbox 1) { launch 9 with pc := 4 }) (fun t => (t.h2d 1).entries == [])) := by decide
theorem meets_router_fill : let s := { spawning with dev := { spawning.dev with
      router := [{ core := 9, req := launch 9, origin := .mailbox 1, hold := false, unchecked := false }] } }
    happens s (.routerFill 9) (fun t => (t.core 9).lq.length == 1 && t.dev.router == []) := by decide

theorem meets_launch_waits : routed crowdedRouter (.spawn 0) (launch 0x409) = .unanswered ∧
    routed crowdedRouter (.copy 0 0 4) (launch 0x409) = .waits ∧ routed dieless (.copy 0 0 4) (launch 0x409) = .held ∧
    (let s := crowdedRouter.setX 4 0x409
     after (exec (.spawn 3 1) s) (fun t => t.me.spawnTo == some 72)) ∧
    (let s := (dieless.setH2d 1 { H2d.reset with waiting := true, cfg := 1, entries := [(0, 0)] }).writeMem (cellsAt 0x200008 [2])
     got (s.asLookup 0) (fun r => r.2.isSome) ∧
     happens s (.launchRoute (.mailbox 1) (launch 9)) (fun t => (t.h2d 1).entries.length == 1 && t.dev.router.length == 1)) := by decide

/-! ContextSaveAndLoad, FeederChunks, MarkersTicketsMessages -/
theorem meets_context_image : (firm id).me.mode ≠ 0 ∧ (firm id).me.tile = false ∧
    trapped ((firm id).mapRange ((firm id).who 0) .store 0x100000000000000 5120) (fun x => x.code == 9) ∧
    (seat fun c => { c with tile := true }).me.tile = true ∧
    (let s := withEntry (firm id) (tkEntry (firm id) .posted .sent .store)
     s.posted s.cur ≠ [] ∧ (s.core 0).freeRecord ≠ none) := by decide
/-- R209's example: extents 200 and 300, tiles of 64 by 64, guided, chunk 1, takers 2. -/
def nestBytes : List Byte :=
  toBytes 4 200 ++ toBytes 4 300 ++ toBytes 4 0 ++ toBytes 2 64 ++ toBytes 2 64 ++ toBytes 2 0 ++ [2, 1] ++ toBytes 4 1 ++ toBytes 2 2 ++
    List.replicate 6 0
/-- Channel 0 of skein 0 with that nest, so many tiles taken. -/
def feeding (next : Nat) : State :=
  (seat id).setSkein 0 { SkeinSt.reset with ch := [(0, { (nestOf nestBytes).getD Nest.empty with next := next })] }
theorem meets_nest : ((nestOf nestBytes).map fun n => (n.total, n.dims)) = some (20, 2) ∧ nestOf (List.replicate 32 0) = none := by decide
/-- R209's table, calls 3 and 12. -/
theorem meets_wget : after (exec (.wget 1 0 1) (feeding 8)) (fun t => t.getX 1 == 64 && t.getX 2 == 128 && t.getX 3 == 192 &&
      t.getX 4 == 300 && t.getX 5 == 0 && t.getX 6 == 1 && t.me.getP 1) = true ∧
    after (exec (.wget 1 0 1) (feeding 20)) (fun t => !t.me.getP 1) = true := by decide
theorem meets_wcfg : after (exec (.wcfg 1 0 1) ((firm fun c => c.setX 1 0x1000).writeMem (cellsAt 0x1000 nestBytes)))
    (fun t => t.me.getP 1 && (tableGet (t.skein 0).ch 0 Nest.empty).total == 20) = true ∧
    after (exec (.wcfg 1 0 1) (firm fun c => c.setX 1 0x1000)) (fun t => !t.me.getP 1) = true := by decide
theorem meets_markers : after (exec (.mkinit 1 0 1) (seat fun c => c.setX 1 64)) (fun t => t.me.getP 1) ∧
    after (exec (.mkinit 1 0 1) (seat fun c => c.setX 1 65)) (fun t => !t.me.getP 1) ∧
    after (exec (.mkarr 1 0) (seat id)) (atX 1 (BitVec.allOnes 64)) ∧
    after (exec (.mkarr 1 0) ((seat id).setSkein 0 { SkeinSt.reset with markers := [(0, { n := 1, a := 0, p := 4, b := 0 })] }))
      (fun t => t.getX 1 == 4 && tableGet (t.skein 0).markers 0 Marker.reset == { n := 1, a := 0, p := 5, b := 0 }) := by decide
theorem meets_tkpoll : let s := withEntry (seat fun c => c.setX 1 7) (tkEntry (seat id) .read .ticket .load)
    after (exec (.tkpoll 1 1) s) (fun t => !t.me.getP 1) ∧ after (exec (.tkpoll 1 1) (seat id)) (fun t => t.me.getP 1) := by decide
/-- The thread of spawning with device-to-host mailbox 2 open to its address space, x2 naming it. -/
def mailing : State :=
  let s := (spawning.setX 2 2).writeMem (cellsAt 0x200010 [4])
  { s with dev := { s.dev with d2h := [(2, { D2h.reset with cfg := 1 })] } }
set_option maxRecDepth 20000 in
theorem meets_msend : after (exec (.msend 9 1 2) mailing) (fun t => t.getX 9 == 0 && (t.d2h 2).posted == 1) ∧
    after (exec (.msend 9 1 2) (mailing.setX 2 3)) (atX 9 2) ∧
    after (exec (.msend 9 1 2) { mailing with dev := { mailing.dev with d2h := [(2, { D2h.reset with cfg := 1, posted := 256 })] } })
      (atX 9 1) := by decide

/-! CopyCommands, CachesKeepValues -/
/-- A copy of 8 bytes from 0x1000 to 0x2000, in firmware mode. -/
def copying : CopyCmd :=
  { (State.copyCmd (firm id) none 0 4 0 0 0 0) with dst := 0x2000, src := 0x1000, rowLen := 8, rows := 1 }
/-- Core 0 with a copy at the head of queue 0. -/
def queued (c : CopyCmd) : State := (firm id).modCore 0 fun k => k.setQueue 0 [.cmd c]
theorem meets_copy : let s := firm fun c => ((c.setX 1 0x2000).setX 2 0x1000).setX 3 0x100000008
    after (exec (.copy 0 4 1 2 3 5 0) s) (fun t => (t.myCore.queue 0).length == 1) ∧
    after (exec (.cpfl 0 0 4 2 3 5 0) s) (fun t => (t.myCore.queue 0).length == 1) ∧
    after (exec (.copy 1 4 1 2 3 5 0) (s.setX 5 4)) (fun t => t.me.cw.fwcause == 0x130) := by decide
theorem meets_copy_units : (queued copying).nextQueue 0 = some 0 ∧
    happens (queued copying) (.copyUnit 0) (fun t => (t.headCmd 0 0).map (·.buf.length) == some 8) ∧
    happens (queued { copying with buf := [1, 2, 3, 4, 5, 6, 7, 8], started := true }) (.copyUnit 0)
      (fun t => (t.headCmd 0 0).map (·.pin) == some (some (0x2000, .D, false))) ∧
    happens (queued { copying with buf := [1, 2], rowLen := 2, started := true, pin := some (0x2000, .D, true) }) (.copyUnit 0)
      (fun t => readCell t.mem 0x2001 == 2 && (t.headCmd 0 0).map (·.row) == some 1) ∧
    happens (queued { copying with row := 1 }) (.copyUnit 0) (fun t => t.headCmd 0 0 == none) ∧
    happens (queued { copying with row := 1, done := .spawn 0x1000 1 2 }) (.copyUnit 0) (fun t => t.agenda.length == 1) := by decide
theorem meets_fill : (queued { copying with level := some 0 }).nextQueue 0 = some 0 ∧
    happens (queued { copying with level := some 0 }) (.cpflFill 0) (fun t => (t.skein 0).sc.length == 1) := by decide
/-- Core 0 holding line 0x20 as S, its first byte dirty. -/
def dirtyLine : State :=
  (firm id).setCore 0 { CoreSt.reset 0 with l1 := [{ line := 0x20, s := true, bytes := 7, dirty := 1, whole := false, state := .modified }] }
set_option maxRecDepth 20000 in
theorem meets_write_back : dirtyLine.lineOf 0x20 = some 0x20 ∧ Memory.wf dirtyLine.mem = true ∧
    happens dirtyLine (.sDirtyWriteback 0 0x20) (fun t => readCell t.mem 0x1000 == 7) ∧
    happens dirtyLine (.cacheEviction 0 0 0x20) (fun t => readCell t.mem 0x1000 == 7 && (t.core 0).l1 == []) := by decide
/-- Skein 0 holding line 0x20, pinned or not, with permission or not. -/
def cached (pins : Nat) (ok : Bool) : State :=
  (firm id).setSkein 0 { SkeinSt.reset with sc := [{ line := 0x20, state := .exclusive, pins := pins, permission := ok }] }
theorem meets_pins : happens (cached 1 true) (.cacheEviction 1 0 0x20) (fun t => (t.skein 0).sc.length == 1) ∧
    happens (cached 0 true) (.cacheEviction 1 0 0x20) (fun t => (t.skein 0).sc.length == 0) ∧
    happens (cached 1 true) (.coherenceRequest 0 0x20 true false) (fun t => (t.skein 0).held == [(0x20, true, false)]) ∧
    happens (cached 1 false) (.coherenceRequest 0 0x20 true false) (fun t => (t.skein 0).held == []) ∧
    happens (cached 0 true) (.coherenceRequest 0 0x20 true false) (fun t => (t.skein 0).sc == []) ∧
    happens { firm id with msc := [⟨0x20, true, 0⟩] } (.cacheEviction 2 0 0x20) (fun t => t.msc == []) := by decide

/-! Tiles -/
/-- A command of context 0 that wants engine 0. -/
def tileCmd : TileCmd :=
  { ctx := 0, fmt := 0, cycles := 8, waiting := [⟨0, 0, [], none⟩], running := [], begun := false, ahead := false, pair := none, old := [] }
/-- A tile-enabled thread with fmt f, x1 a pointer. -/
def tiled (f : BitVec 16) : State := firm fun c => { c.setX 1 0x1000 with tile := true, fmt := f, tslots := [0, 1, 2, 3, 0, 1, 2, 3] }
/-- The same with a full tile queue. -/
def crowded (f : BitVec 16) : State :=
  (tiled f).modCore 0 fun k => { k with tq := List.replicate 8 tileCmd }
theorem meets_tile_state : (tiled 0).me.tile = true ∧ (tiled 0).myCore.tq.length < 8 ∧ (seat id).me.tile = false ∧
    goes (exec (.tzero 0) (tiled 0)) ∧ 8 ≤ (crowded 0).myCore.tq.length ∧ goes (exec (.tzero 0) (crowded 0)) := by decide
theorem meets_tile_limits : let s := { seat id with ctxs := [0, 1, 2, 3, 4].map fun n =>
      (n, { Ctx.reset with st := .running, phase := .first, tile := n != 0 }) }
    s.me.tile = false ∧ ((List.range 8).filter fun n => (s.ctx (coreOf s.cur ++ BitVec.ofNat 3 n)).tile).length = 4 ∧
    after (exec (.tcfg 1 0 0 0) s) (fun t => !t.me.getP 1) := by decide
theorem meets_formats : multiplyBad 0x8000 false = true ∧ multiplyBad 0 false = false ∧ multiplyBad 0x0422 true = false ∧
    after (exec (.tadd 0 1 2) (tiled 0x0200)) (fun t => t.me.cw.fwcause == 0x130) := by decide
theorem meets_tile_register_operations : drainBad 0 1 = false ∧ goes (exec (.tadd 0 1 2) (tiled 0)) ∧ goes (exec (.tsclRow 0 1 2) (tiled 0)) ∧
    goes (exec (.tcvt 0 1 0 1) (tiled 0)) ∧ goes (exec (.ttr 0 1 2) (tiled 0)) ∧ goes (exec (.trowv 0 1 2) (tiled 0)) ∧
    goes (exec (.tvrow 0 1 2) (tiled 0)) ∧ goes (exec (.tamax 0 1) (tiled 0)) := by decide

/-! TileMemory, TileMultiplies: a geometry of one row of 32 bytes -/
def oneRow (f : BitVec 16) : State := (tiled f).setX 2 0x10100000080
theorem meets_tile_memory : got ((oneRow 0).mapRows 0 .tileRead 2 [(0x1000, 32)]) (fun r => r.2.length == 1) ∧
    goes (exec (.tld 0 1 2) (oneRow 0)) ∧ goes (exec (.tst 0 1 2 15) (oneRow 0)) ∧
    after (exec (.tstAmax 0 1 2 15 3 4) ((oneRow 0).setX 3 2)) (fun t => t.me.cw.fwcause == 0x130) ∧
    goes (exec (.tstAmax 0 1 2 15 3 4) (oneRow 0)) := by decide
theorem meets_tile_image_fault : trapped ((tiled 0).mapRange ((tiled 0).who 0) .store 0x100000000000000 131136) (fun x => x.code == 9) := by
  decide
theorem meets_multiply : multiplyBad (oneRow 0).me.fmt false = false ∧ goes (exec (.tmma 0 1 1 2 1 2 1 1 0 0 0) (oneRow 0)) ∧
    goes (exec (.tmma 0 1 2 0 3 0 0 0 0 0 0) (oneRow 0)) := by decide

set_option maxRecDepth 20000 in
theorem meets_tile_amax : let s := (oneRow 0).setX 3 0x3000
    after (exec (.tstAmax 0 1 2 15 3 4) s) (fun t => t.me.stores.length == 2) ∧
    after (exec (.tstAmax 0 1 2 15 3 4) (s.setPoison 0x3000)) (fun t => t.me.cw.fwcause == 0x130) ∧
    after (exec (.tst 0 1 2 15) (s.setPoison 0x1000)) (fun t => t.me.cw.fwcause == 0x130) := by decide
theorem meets_tile_pair_full : let c := { tileCmd with pair := some ⟨1, 0, 0, ([], 0, 0, 0), []⟩ }
    let s := (tiled 0).modCore 0 fun k => { k with tq := c :: List.replicate 7 tileCmd }
    after (exec (.tzero 0) s) (fun t => t.agenda == [.own (.tmmapPairTimeout 0)]) := by decide

/-! InterruptsAndFailureReports, WakingAndIssue -/
theorem meets_interrupt : let s := seat fun c => { c with cw := { c.cw with ien := 4, ipend := 4, timecmp := 0 }, icSrc := 9 }
    s.takeable 0 = some 2 ∧ (s.ctx 0).mode = 0 ∧ s.settling 0 = false ∧ s.power.drain = .none ∧
    happens s (.takeInterrupt 0) (fun t => t.me.cw.cause == 0x8000000000000022 && t.me.cw.tval == 9 && t.me.mode == 1) := by decide
theorem meets_interrupt_timer : let s := seat fun c => { c with cw := { c.cw with ien := 0x1F, ipend := 0x1E, timecmp := 0 } }
    happens s (.takeInterrupt 0) (fun t => t.me.cw.cause == 0x8000000000000020) ∧
    happens (seat fun c => { c with cw := { c.cw with timecmp := 5 } }) (.timecmpReached 0) (fun t => t.dev.time == 5) := by decide
theorem meets_interrupt_park : let s := seat fun c => { c with st := .parked, park := some .wait, cw := { c.cw with ien := 16, ipend := 16 } }
    happens s (.takeInterrupt 0) (fun t => t.me.st == .running && t.me.phase == .second) := by decide
theorem meets_failures : happens (seat fun c => { c with fails := [failedStore] }) (.deferredFailDue 0)
      (fun t => t.dev.time == 1000000 && t.me.fails.map (·.due) == [true]) ∧
    happens (seat fun c => { c with phase := .fetch, fails := [{ failedStore with due := true }] }) (.deferredRemoteStoreTrap 0)
      (fun t => t.me.cw.cause == 0x0B && t.me.fails == []) ∧
    happens (firm fun c => { c with phase := .fetch, fails := [{ failedStore with due := true }] }) (.deferredRemoteStoreTrap 0)
      (fun t => t.me.cw.fwcause == 0x130) := by decide
theorem meets_fence_failure : let s := seat fun c => { c with lost := [3], bundle := 0x37380000 }
    s.me.inFence = true ∧ happens s (.fenceDeliveryFailure 0) (fun t => t.me.cw.cause == 0x10) := by decide
theorem meets_failure_order : let a := { failedStore with seq := 1, at_ := 5 }
    let b := { failedStore with seq := 2, at_ := 3 }
    happens (seat fun c => { c with fails := [a, b] }) (.deferredFailDue 0)
      (fun t => t.dev.time == 1000003 && t.me.fails.map (·.due) == [false, true]) ∧
    happens (seat fun c => { c with phase := .fetch, fails := [{ failedStore with due := true, poison := true }] })
      (.deferredRemoteStoreTrap 0) (fun t => t.me.cw.cause == 0x0C) := by decide
theorem meets_interrupt_held : let s := seat fun c => { c with cw := { c.cw with ien := 4, ipend := 4 } }
    let t := { s with dev := { s.dev with gsctl := 2 } }
    t.gangStops 0 = true ∧ (t.ctx 0).cw.ien.getLsbD 3 = false ∧ happens t (.takeInterrupt 0) (fun t => t.me.mode == 0) := by decide
/-- A parked context 0. -/
def parkedOn (p : Park) : State := seat fun c => { c with st := .parked, park := some p, latch := true }
theorem meets_wakes : (parkedOn .wait).gangStops 0 = false ∧ (parkedOn .wait).drainStops 0 = false ∧
    ([.wait, .until 0, .marker 0 0 0xFFFFFFFF, .tkwait 7, .ticket 0].map fun p => (parkedOn p).wakes 0) =
      [true, true, false, true, true] ∧
    happens (parkedOn .wait) (.parkedWake 0) (fun t => t.me.st == .running && t.me.phase == .second) ∧
    happens (parkedOn (.until 0)) (.parkedWake 0) (fun t => t.me.st == .running && t.me.phase == .first) ∧
    happens (parkedOn (.until 5)) (.waituntilExpiry 0) (fun t => t.dev.time == 5 && t.me.st == .running) ∧
    happens ((parkedOn (.marker 0 0 0)).setSkein 0 { SkeinSt.reset with markers := [(0, { Marker.reset with p := 1 })] })
      (.parkedWake 0) (fun t => t.me.st == .running) := by decide
theorem meets_token_wake : let s := (firm fun c => { c with st := .parked, park := some (.token 0x1000 false 0 1) }).writeMem (cellsAt 0x1000 [1])
    happens s (.parkedWake 0) (fun t => t.me.st == .running) ∧
    happens (s.writeMem (cellsAt 0x1000 [0])) (.parkedWake 0) (fun t => t.me.st == .parked) := by decide
theorem meets_ticket_wake : let s := (parkedOn (.ticket 0))
    happens (withEntry s (tkEntry s .read .noticeFail .load)) (.parkedWake 0) (fun t => t.me.st == .running) := by decide
/-- Three running contexts of core 0, the last in supervisor mode. -/
def three : State :=
  { seat id with turns := [0, 1, 2]
                 ctxs := [0, 1, 2].map fun n => (n, { Ctx.reset with
                   st := .running, phase := .first, bundle := 0x02000000, waitCount := if n = 1 then 32 else 0, cw := { Cw.reset with status := if n = 2 then 1 else 0 } }) }
theorem meets_issue : happens three (.issueArbitrate 0) (fun t => (t.ctx 2).waitCount == 0) ∧
    ((ctxsOfCore 0).filter three.isReady).length = 3 ∧
    happens three (.urgentMark 1) (fun t => (t.ctx 1).urgent) ∧ (three.ctx 1).waitCount = 32 := by decide
theorem meets_fused : let s := ({ firm fun c => { c with phase := .fetch } with ctxs := [0, 1].map fun n =>
      (n, { Ctx.reset with st := .running, cw := { Cw.reset with status := 3 } }) }).modCore 0 fun k => { k with slots := [(0, 2)] }
    s.fetchesNext 0 ∧ s.fetchesNext 1 ∧ (s.fetch 0).isOk ∧ s.mayRename 0 ∧
    happens s (.fusedFetch 0 3) (fun t => (t.core 0).fused == [3] && (t.core 0).slots == [(0, 1)]) := by decide
set_option maxRecDepth 20000 in
/-- R281: an arbiter that has not chosen in the cycle chooses; one that has, and nobody, lets the cycle pass, and the context that waits is chosen. -/
theorem meets_cycle : let s := firm fun c => { c with phase := .fetch, pc := 0x1000 }
    let t := s.modCore 0 fun k => { k with nextChoice := 1 }
    got (s.fetch s.cur) (fun _ => true) ∧ s.mayRename s.cur = false ∧
    after (step s) (fun t => t.cyc == s.cyc && (t.core 0).slots == [(0, 2)] && t.mayRename 0) ∧
    t.cycleOver = true ∧ after (step t) (fun t => t.cyc == s.cyc + 1 && (t.core 0).slots == [(0, 2)] && t.mayRename 0) := by decide
theorem meets_squash : (seat id).diverges 0 = false ∧ goes (exec .mispredictSquash (sees (seat id) (.mispredictSquash 0))) := by decide

/-! ThreadsStartAndEnd -/
/-- Core 9 with a launch in its queue. -/
def claiming : State :=
  spawning.modCore 9 fun k => { k with lq := [{ req := launch 9, origin := .mailbox 1, seq := 0, since := 0 }] }
theorem meets_claim : claiming.gang = false ∧ claiming.power.drain = .none ∧ claiming.boot.ready.getLsbD 1 = true ∧
    happens claiming (.launchClaim 9) (fun t => (t.ctx 72).st == .starting && (t.ctx 72).getX 2 == 2) ∧
    happens { claiming with cyc := 1048576 } (.launchEntryAging 9 0) (fun t => (t.core 9).lq.map (·.req.prio) == [1]) := by decide
theorem meets_start : let s := spawning.setCtx 72 { Ctx.reset with st := .starting, start := some (launch 9, .spawn 0) }
    happens s (.threadStart 72) (fun t => (t.ctx 72).st == .running) := by decide
/-- A thread that ends, its completion as given. -/
def ending (p : Option Completion) (l : List Fail) : State :=
  paged fun c => { c with st := .exiting, phase := .fetch, comp := p, fails := l }
theorem meets_end : happens (ending none []) (.exitDrainComplete 0) (fun t => t.me.st == .idle) ∧
    happens (ending (some ⟨0x1000, 1, 0, 0⟩) []) (.exitDrainComplete 0) (fun t => t.me.st == .idle && readCell t.mem 0x1000 == 1) ∧
    happens (ending none [failedStore]) (.exitDrainComplete 0) (fun t => t.me.cw.cause == 0x0B) ∧
    (let s := ending none []
     happens { s with dev := { s.dev with gsctl := 3 } } (.exitDrainComplete 0) (fun t => t.me.st == .exiting)) := by decide
theorem meets_end_message : let s := { ending (some ⟨0, 0xA0, 0, 0⟩) [] with dev := { (paged id).dev with
      d2h := [(2, { D2h.reset with cfg := 1, posted := 256 })] } }
    happens s (.exitDrainComplete 0) (fun t => t.me.st == .exiting && t.me.comp == none && t.dev.msgs.length == 1) ∧
    happens { s with dev := { s.dev with d2h := [] } } (.exitDrainComplete 0) (fun t => t.me.st == .idle) ∧
    happens (ending none [{ failedStore with poison := true }]) (.exitDrainComplete 0) (fun t => t.me.cw.cause == 0x0C) := by decide
theorem meets_end_token_fault : happens ((ending (some ⟨0x1000, 1, 0, 0⟩) []).writeMem (cellsAt 0x300000 [0])) (.exitDrainComplete 0)
    (fun t => t.me.st == .idle && t.ras.ring.length == 1) := by decide

/-! Mailboxes -/
/-- Host-to-device mailbox 1 open, with these entries at its head, entries of version 1. -/
def mailbox (e : List (BitVec 32 × BitVec 512)) (svc : Bool) : State :=
  let s := spawning
  { s with dev := { s.dev with ver := [(0, (1, 1))], h2d := [(1, { H2d.reset with cfg := 1, entries := e, svc := svc })] } }
set_option maxRecDepth 20000 in
theorem meets_mailbox_entries : (mailbox [] false).agreed 0 = 1 ∧
    happens (mailbox [(0, 0x10100000000)] false) (.launchEntry 1) (fun t => t.agenda.length == 1) ∧
    happens (mailbox [(0, 0x10100000000 ||| 1 <<< 504)] false) (.launchEntry 1) (fun t => (t.h2d 1).entries == []) ∧
    happens (mailbox [(0, 0x20100000000)] false) (.launchEntry 1) (fun t => (t.h2d 1).entries == []) ∧
    happens (mailbox [(0, 0x10200000000)] false) (.serviceEntry 1) (fun t => (t.h2d 1).svc) ∧
    happens (mailbox [(0, 0x10400000000)] false) (.launchEntry 1) (fun t => (t.h2d 1).entries == []) ∧
    happens (mailbox [(0, 0x10300000000)] false) (.wakeEntry 1) (fun t => (t.h2d 1).entries == []) ∧
    happens (mailbox [(5, 0)] true) (.mbsvc 1 5) (fun t => (t.h2d 1).entries == []) ∧
    happens (mailbox [(5, 0)] true) (.mbsvc 1 4) (fun t => (t.h2d 1).entries.length == 1) := by decide
/-- Mailbox 1 open with its ring at 0x10000, entry 0 of which bears number n; acknowledgments go to 0x20000. -/
def ringed (n : Nat) : State :=
  let s := mailbox [] false
  { s with dev := { s.dev with h2d := [(1, { H2d.reset with cfg := 1, base := 0x10000, ack := 0x20000 })] } }.writeMem
    (cellsAt 0x10000 (toBytes 4 n ++ [1, 1]))
set_option maxRecDepth 20000 in
theorem meets_doorbell : (ringed 0).agentReaches true 0x10000 = true ∧ (ringed 0).agreed 0 ≠ 0 ∧ ofBytes ((ringed 0).physRead 0x10000 4) = 0 ∧
    happens (ringed 0) (.mailboxDoorbell 1 1) (fun t => (t.h2d 1).entries.map (·.1) == [0] && readCell t.mem 0x20004 == 1) ∧
    happens (ringed 5) (.mailboxDoorbell 1 1) (fun t => (t.h2d 1).entries == [] && (t.h2d 1).db == 1) ∧
    happens (ringed 0) (.mailboxDoorbell 1 0) (fun t => (t.h2d 1).entries == []) := by decide
set_option maxRecDepth 20000 in
theorem meets_consume : let s := mailbox [(0, 0x10100000000)] false
    (s.h2d 1).entries = [(0, 0x10100000000)] ∧ (s.h2d 1).next = (s.h2d 1).db ∧ ((s.consume 1 3 6 0).h2d 1).entries = [] := by decide
theorem meets_mailbox_controls : happens (mailbox [] false) (.mailboxDoorbell 1 0) (fun t => (t.h2d 1).db == 0) ∧
    happens (mailbox [] false) (.mailboxReset false 1 1) (fun t => (t.h2d 1).cfg == 0) ∧
    happens (mailbox [] false) (.mailboxReset true 1 1) (fun t => (t.d2h 1).cfg == 0) ∧
    happens (seat id) (.mailboxOpen false 1 1) (fun t => t.boot.srvlock && (t.h2d 1).cfg == 1) ∧
    happens (seat id) (.mailboxOpen true 2 0) (fun t => (t.d2h 2).cfg == 0) ∧
    happens (mailbox [] false) (.versionWrite 0 1 1) (fun t => t.agreed 0 == 1) ∧
    happens (seat id) (.versionWrite 0 0 1) (fun t => t.agreed 0 == 1) ∧ happens (seat id) (.versionWrite 1 2 3) (fun t => t.agreed 1 == 0) := by
  decide
theorem meets_message_timeout : let s := seat id
    happens { s with dev := { s.dev with msgs := [{ mailbox := 2, source := 0, body := [] }] } } (.completionMessageTimeout 0)
      (fun t => t.dev.msgs == [] && (t.d2h 2).lost == 1) := by decide

/-! TileArbiter -/
/-- Cores 0 and 1 with these tile queues. -/
def tiling (a b : List TileCmd) : State :=
  (seat id |>.modCore 0 fun k => { k with tq := a }).modCore 1 fun k => { k with tq := b }
theorem meets_tile_grant : happens (tiling [tileCmd] []) (.tileGrant 0 0) (fun t => (t.core 0).tq.map (·.running) == [[⟨0, 0, [], none⟩]]) ∧
    happens (tiling [] []) (.tileGrant 0 0) (fun t => (t.skein 0).gauge.debt == 0) ∧
    happens ((tiling [tileCmd] []).setSkein 0 { SkeinSt.reset with gauge := { ceiling := 150, debt := 150, busy := 0, since := 0, limit := 150 } }) (.tileGrant 0 0)
      (fun t => (t.core 0).tq.map (·.running) == [[]]) := by decide
theorem meets_tile_step : happens ((tiling [{ tileCmd with waiting := [], running := [⟨0, 0, [], none⟩], begun := true }] []).setSkein 0
    { SkeinSt.reset with eng := [(0, { Engine.reset with run := some (0, 0, 0) })] }) (.tileStepComplete 0 0)
      (fun t => (t.core 0).tq == []) := by decide
theorem meets_tile_ahead : happens (tiling [{ tileCmd with ahead := true }] []) (.tileGrant 0 0)
      (fun t => (t.core 0).tq.map (·.begun) == [true] && ((tableGet (t.skein 0).eng 0 Engine.reset).used == 0)) ∧
    happens (tiling [{ tileCmd with waiting := [⟨1, 0, [0], none⟩] }] []) (.tileGrant 0 0) (fun t => (t.core 0).tq.map (·.begun) == [false]) ∧
    happens ((tiling [{ tileCmd with waiting := [⟨1, 0, [0], none⟩], running := [⟨0, 0, [], none⟩], begun := true }] []).setSkein 0
      { SkeinSt.reset with eng := [(0, { Engine.reset with run := some (0, 0, 0) })] }) (.tileStepComplete 0 0)
      (fun t => (t.core 0).tq.map (·.waiting) == [[⟨1, 0, [], none⟩]]) := by decide
set_option maxRecDepth 20000 in
theorem meets_tile_pairs : let c := { tileCmd with pair := some ⟨1, 0, 0, ([], 0, 0, 0), []⟩ }
    happens (tiling [c] [c]) (.tmmapPair 0 0) (fun t => (t.core 0).tq.map (·.pair) == [none] && (t.core 1).tq.map (·.pair) == [none]) ∧
    happens (tiling [c] []) (.tmmapPairTimeout 0) (fun t => (t.core 0).tq.map (·.pair) == [none] && 256 ≤ t.cyc) ∧
    happens (seat id) (.gaugeWindow 0) (fun t => (t.skein 0).gauge.ceiling == 150) := by decide

/-! HostAccesses, SendsAndGangStop -/
/-- HBM committed and ready, the host link up in CXL. -/
def linked : State := { paged id with dev := { (paged id).dev with links := #v[.cxl, .down] } }
theorem meets_host : linked.cxlUp = true ∧ linked.region 0x2000 = .hbm 0x2000 ∧
    happens linked (.hostMemRequest 0x2000 (.write [7])) (fun t => readCell t.mem 0x2000 == 7) ∧
    happens linked (.hostMemRequest 0x2000 (.read 1)) (fun t => t.out == [.hostRead 0 0x2000 [0] false]) ∧
    happens linked (.hostMemRequest 0x2000 (.amo 1 false 5)) (fun t => readCell t.mem 0x2000 == 5 && t.out.length == 1) ∧
    happens linked (.hostMemRequest 0x2000 (.lr 3 true)) (fun t => t.away == [⟨0x40, true, [3]⟩]) ∧
    happens { linked with away := [⟨0x40, true, [3]⟩] } (.hostMemRequest 0x2000 (.sc 3 true 5)) (fun t => readCell t.mem 0x2000 == 5) ∧
    happens { linked with away := [⟨0x40, true, [4]⟩] } (.hostMemRequest 0x2000 (.sc 3 true 5)) (fun t => readCell t.mem 0x2000 == 0) ∧
    after (step { linked with agenda := [.peerWrite 0x2000 [7]] }) (fun t => readCell t.mem 0x2000 == 7) ∧
    after (step { linked with agenda := [.peerWrite 0x207F [7, 8]] }) (fun t => readCell t.mem 0x207F == 0) ∧
    happens (linked.setPoison 0x2000) (.hostMemRequest 0x2001 (.write [7])) (fun t => readCell t.mem 0x2001 == 0) ∧
    happens linked (.hostMemRequest 0x207F (.write [7, 8])) (fun t => readCell t.mem 0x207F == 0) ∧
    happens (seat id) (.hostMemRequest 0x2000 (.write [7])) (fun t => t.mem == []) ∧
    happens { linked with dev := { linked.dev with committed := false } } (.hdmCommit 0x40000000) (fun t => t.dev.hbmBase == 0x40000000) ∧
    happens linked (.hdmCommit 0x40000000) (fun t => t.dev.hbmBase == 0) := by decide
/-- linked with BAR0 at 2^40. -/
def barred : State := { linked with dev := { linked.dev with bar0 := 2 ^ 40 } }
theorem meets_host_registers : barred.region (2 ^ 40 + 0x100) = .dev 0x100 ∧
    happens barred (.hostMemRequest (2 ^ 40 + 0x100) (.read 8)) (fun t => t.out.length == 1) ∧
    happens barred (.hostMemRequest (2 ^ 40 + 0x1000000) (.read 8)) (fun t => t.out.length == 1) ∧
    happens barred (.hostMemRequest (2 ^ 40 + 0x100) (.write (toBytes 8 5)))
      (fun t => t.agenda == [.own (.registerWrite .host 0x100 5)]) ∧
    happens { linked with dev := { linked.dev with committed := false } } (.hdmCommit 1) (fun t => t.dev.hdmError) := by decide
/-- A context of user mode that is in the midst of what a gang stop lets finish. -/
theorem meets_gang_settles : let s := { seat (fun c => { c with phase := .second }) with dev := { Dev.reset with gsctl := 1 } }
    s.settling 0 = true ∧ happens s .gangStopTrigger (fun t => t.dev.gsSnap && t.me.cw.ipend == 0) ∧
    happens { seat id with dev := { Dev.reset with gsctl := 3, gsSnap := true } } .gangStopTrigger
      (fun t => !t.dev.gsSnap && t.me.cw.ipend == 8) := by decide
theorem meets_sends : happens (seat id) (.icsend 3 0) (fun t => (t.core 3).icq == [0]) ∧
    happens ((seat id).modCore 3 fun k => { k with icq := [0, 1] }) (.icsendDeliver 3) (fun t => t.me.icSrc == 3 && t.me.cw.ipend == 4) ∧
    happens { seat id with dev := { Dev.reset with gsctl := 1, gstime := 9 } } .gangStopTrigger
      (fun t => t.dev.time == 9 && t.gang && t.me.cw.ipend == 8 && t.me.phase == .fetch) ∧
    happens (seat id) .gangStopTrigger (fun t => !t.gang) ∧
    happens { seat id with dev := { Dev.reset with gsctl := 3 } } .gangRelease (fun t => !t.gang) := by decide

/-! AnswersAndNotices, HomeServesTheFabric -/
theorem meets_answers : let s := fun k st => withEntry (seat id) (tkEntry (seat id) k st .load)
    ((s .read .sent).core 0).tk.all (fun f => f.2.outstanding) = true ∧
    happens (s .read .sent) (.fabricResponse 0 (.entry 0) (.ok 5)) (fun t => (t.core 0).tk.map (·.2.state) == [.done]) ∧
    happens (s .read .sent) (.fabricResponse 0 (.entry 0) (.ticket 7)) (fun t => (t.core 0).tk.map (·.2.state) == [.ticket]) ∧
    happens (s .posted .sent) (.fabricResponse 0 (.entry 0) (.ok 0)) (fun t => (t.core 0).tk.length == 0 && t.me.fails == []) ∧
    happens (s .posted .sent) (.fabricResponse 0 (.entry 0) .refused) (fun t => t.me.fails.length == 1) ∧
    happens (s .read .ticket) (.ticketNotice 0 0 7 true) (fun t => (t.core 0).tk.map (·.2.state) == [.noticeOk]) ∧
    happens (s .read .ticket) (.ticketNotice 0 0 7 false) (fun t => (t.core 0).tk.map (·.2.state) == [.noticeFail]) ∧
    happens (s .posted .ticket) (.ticketNotice 0 0 7 false) (fun t => t.me.fails.length == 1) ∧
    happens (s .cancel .ticket) (.ticketNotice 0 0 7 true) (fun t => (t.core 0).tk.length == 0) ∧
    happens (seat id) (.busyReceive 0 5) (fun t => !t.maySend 0 5 false) ∧
    happens { seat id with niu := { Niu.reset with busy := [⟨0, 5, 1, false, true⟩] } } (.busyBackoffExpiry 0 5) (fun t => t.maySend 0 5 false) := by
  decide
/-- A request of package 3's core 4 for 8 bytes at an offset. -/
def ask (off : BitVec 50) (k : FabKind) : Packet :=
  { srcPkg := 3, srcCore := 4, owner := .entry 0, dest := 0, off := off, kind := k, len := 8, mask := 0xFF, data := 9, op := 0, partId := 0
    tt := false, poison := false, route := [] }
/-- One window, from offset 0 on, of 1 MiB at address 0 of address space 0, for anyone, readable and writable. -/
def home : State :=
  let s := paged id
  { s with dev := { s.dev with winCnt := 1, wins := [(0, #v[0xF, 0x100000, 0, 0])] } }
set_option maxRecDepth 20000 in
theorem meets_home : (match home.findWindow 0x1000 0 home.dev.winCnt with | .ok (_, some w) => w.any && w.rd && w.wr | _ => false) = true ∧
    (home.homeWalk { index := 0, base := 0, size := 0x100000, va := 0, asn := 0, any := true, rd := true, wr := true } .load 0x1000).isOk ∧
    happens home (.fabricRequest (ask 0x1000 .store)) (fun t => readCell t.mem 0x1000 == 9 && t.out.length == 1) ∧
    happens home (.fabricRequest (ask 0x200000 .store)) (fun t => t.out == [.answer 3 4 (.entry 0) .refused []]) ∧
    happens (home.writeMem (cellsAt 0x300000 [0])) (.fabricRequest (ask 0x1000 .load)) (fun t => t.niu.sources.length == 1) := by decide
set_option maxRecDepth 20000 in
theorem meets_new_ticket : let s := { home.writeMem (cellsAt 0x300000 [0]) with dev := { home.dev with svBase := 0x10000, svTgt := 0x2000 } }
    happens s (.fabricRequest (ask 0x1000 .load)) (fun t => t.niu.tickets == [⟨0, 0, 1, false⟩] && t.dev.svTail == 1 &&
      t.me.cw.ipend == 2 && t.out == [.answer 3 4 (.entry 0) (.ticket 0) []]) ∧
    happens { s with dev := { s.dev with svTail := 256 } } (.fabricRequest (ask 0x1000 .load)) (fun t => t.niu.held.length == 1) ∧
    happens { s with niu := { s.niu with tickets := [⟨7, 0, 1, false⟩] } } (.fabricRequest (ask 0x1000 .load))
      (fun t => t.out == [.answer 3 4 (.entry 0) (.ticket 7) []] && t.dev.svTail == 0) := by decide
set_option maxRecDepth 20000 in
theorem meets_perform_kinds : got (home.performHome { ask 0x1000 .amo with op := 1 } (.hbm 0x1000) .D) (fun r => readCell r.1.mem 0x1000 == 9) ∧
    got ((home.setPoison 0x1000).performHome { ask 0x1000 .store with len := 128, mask := BitVec.allOnes 128 } (.hbm 0x1000) .D)
      (fun r => !r.1.poisoned 0x1000) ∧
    got (home.performHome { ask 0x1000 .store with poison := true } (.hbm 0x1000) .D) (fun r => r.1.poisoned 0x1000) := by decide
/-- home with a live ticket 7, served or not, that package 3's core 4 names. -/
def ticketed (served : Bool) : State :=
  { home with niu := { Niu.reset with tickets := [⟨7, 0, 1, served⟩], sources := [{ pkg := 3, core := 4, t := 7, c := 1, s := 0 }] } }
set_option maxRecDepth 20000 in
theorem meets_tickets : happens (ticketed false) (.fabricRequest (ask 0x1000 .load)) (fun t => t.out == [.answer 3 4 (.entry 0) (.blocked 7) []]) ∧
    happens (ticketed false) (.fabricReplay (ask 0x1000 .load)) (fun t => t.out == [.answer 3 4 (.entry 0) (.blocked 7) []]) ∧
    happens (ticketed true) (.fabricReplay (ask 0x1000 .store)) (fun t => t.niu.sources == [] && readCell t.mem 0x1000 == 9) ∧
    happens home (.fabricReplay (ask 0x1000 .store)) (fun t => t.out == [.answer 3 4 (.entry 0) .refused []]) ∧
    happens (ticketed true) (.fabricSkip 3 4) (fun t => t.niu.sources == [] && t.niu.tickets == []) ∧
    happens (ticketed false) (.fabricCancel 3 4) (fun t => t.niu.sources.map (·.s) == [1]) ∧
    happens (ticketed false) (.tkdone 7) (fun t => t.out == [.notice 3 4 7 true]) ∧
    happens (ticketed true) (.tkdone 7) (fun t => t.out == []) := by decide
set_option maxRecDepth 20000 in
theorem meets_perform : got ((home.setPoison 0x1000).performHome (ask 0x1000 .load) (.hbm 0x1000) .D) (·.2 == .poison) ∧
    got (home.performHome (ask 0x1000 .load) (.hbm 0x1000) .D) (·.2 == .ok 0) := by decide
/-- home with a request held. -/
def holding (q : Packet) : State := { home with niu := { Niu.reset with held := [{ msg := .request q, busySent := false }] } }
set_option maxRecDepth 20000 in
theorem meets_held : happens (holding (ask 0x1000 .store)) .niuHeldAdmit (fun t => t.niu.held == [] && readCell t.mem 0x1000 == 9) ∧
    happens (holding (ask 0x1000 .store)) .niuBusy (fun t => t.out == [.busy 3 4]) ∧
    happens (holding (ask 0x1000 .store)) (.fabricRequest (ask 0x2000 .store)) (fun t => t.niu.held.length == 2) := by decide

/-! PortsAndLostRequests, PackageTimeFollows -/
/-- Port 2 in a state, with version 1 agreed on it. -/
def port (x : Port) : State :=
  { seat id with boot := { Boot.reset with stage := 1, ready := 1 }, dev := { Dev.reset with ver := [(4, (1, 1))] }, niu := { Niu.reset with ports := [(2, x)] } }
theorem meets_ports : happens (port { Port.reset with state := .up }) (.portRetrainEnter 2) (fun t => (t.port 2).state == .retraining) ∧
    happens (port { Port.reset with state := .failed }) (.portRetrain 2) (fun t => (t.port 2).state == .training) ∧
    happens (port { Port.reset with state := .training }) (.portUp 2 8) (fun t => (t.port 2).state == .up && t.boot.ready == 0x80001) ∧
    happens (port { Port.reset with state := .training }) (.portFailed 2) (fun t => (t.port 2).state == .failed) ∧
    happens (port { Port.reset with state := .up, fails := List.replicate 15 0 }) (.flitCrcFailure 2)
      (fun t => t.agenda == [.own (.portRetrainEnter 2)]) ∧
    happens (port Port.reset) (.portFailureNotice 9 1 0) (fun t => t.niu.failedPorts == [(9, 1, 0)]) ∧
    happens { seat id with niu := { Niu.reset with failedPorts := [(9, 1, 3)] } } (.portFailureNotice 9 1 3) (fun t => t.out == []) := by decide
/-- A posted store of context 0 to package 5, on its way over port 1 of package 9. -/
def losing : State :=
  let s := linked
  let e := tkEntry s .posted .sent .store
  { withEntry s { e with packet := { e.packet with dest := 5, route := [(9, 1)] } } with
    niu := { Niu.reset with flows := [{ core := 0, dest := 5, route := [(9, 1)], notes := [], served := [], lost := [] }] } }
set_option maxRecDepth 40000 in
theorem meets_lost : losing.region (losing.niu.llBase.toNat / 2 ^ 18 % 2 ^ 38 * 2 ^ 18 + 256 * (losing.niu.llTail.toNat % 1024)) = .hbm 0 ∧
    (losing.core 0).accesses.length = 1 ∧
    happens losing (.portFailureNotice 9 1 0) (fun t => t.niu.llTail == 1 && t.me.lost == [0] && (t.core 0).tk.length == 0) := by decide
set_option maxRecDepth 40000 in
theorem meets_lost_kinds : let s := linked
    let one := fun (k : TkKind) => let e := tkEntry s k .sent .load
      { withEntry s { e with packet := { e.packet with dest := 5, route := [(9, 1)] } } with
        niu := { Niu.reset with flows := [{ core := 0, dest := 5, route := [(9, 1)], notes := [], served := [], lost := [] }] } }
    s.niu.crosses [(9, 1)] 9 1 = true ∧ (((one .read).core 0).tk.all fun a => a.1 < 32) = true ∧ ((one .read).niu.llTail - (one .read).niu.llHead).toNat + 1 ≤ 1024 ∧
    happens (one .read) (.portFailureNotice 9 1 5) (fun t => (t.core 0).tk.map (·.2.answer) == [some .refused]) ∧
    happens (one .read) (.portFailureNotice 9 2 5) (fun t => (t.core 0).tk.map (·.2.answer) == [none]) := by decide
theorem meets_time_lock : happens { seat id with niu := { Niu.reset with good := some 0 }, dev := { Dev.reset with time := 1000000000 } } .timeLock
      (fun t => t.niu.locked) := by decide
theorem meets_time : happens { seat id with niu := { Niu.reset with timectl := 1, ports := [(2, { Port.reset with state := .up })] } } .syncSend
      (fun t => t.out == [.sync 2 0]) ∧
    happens (seat id) (.syncMessage 2 5) (fun t => t.dev.time == 5 && t.niu.offset == 5) ∧
    happens { seat id with dev := { Dev.reset with time := 9 } } (.syncMessage 2 5) (fun t => t.dev.time == 9 && t.niu.hold == 4) ∧
    happens { seat id with niu := { Niu.reset with locked := true } } (.syncMessage 2 1001) (fun t => t.agenda == [.own .timeLockLoss]) ∧
    happens { seat id with niu := { Niu.reset with timectl := 1 } } .timeLock (fun t => t.niu.locked) ∧
    happens (seat id) .timeLock (fun t => !t.niu.locked) ∧
    happens { seat id with niu := { Niu.reset with locked := true, offset := 1001 } } .timeLockLoss (fun t => !t.niu.locked && t.niu.timeLost) ∧
    happens { seat id with niu := { Niu.reset with timectl := 1 } } (.ptset 5) (fun t => t.dev.time == 5) ∧
    happens (seat id) (.ptset 5) (fun t => t.dev.time == 0) ∧
    happens (seat id) (.pdelayMeasure 2 5) (fun t => (t.port 2).delay == 5) := by decide

/-! ErrorsAndTermination -/
theorem meets_errors : ((seat id).ras.tail - (seat id).ras.head).toNat < 256 ∧
    happens (seat id) (.correctedError 0 0 0x1000) (fun t => t.ras.ring.length == 1) ∧
    happens (seat id) (.uncorrectableError 0 0 0x1000 false) (fun t => t.poisoned 0x1000) ∧
    happens (seat id) (.uncorrectableError 2 0 0x1000 false) (fun t => !t.poisoned 0x1000) ∧
    happens (seat id) (.agentDied 0x20) (fun t => t.poisoned 0x1000) ∧
    happens ((seat id).setCtx 8 { Ctx.reset with st := .running }) (.uncorrectableError 5 8 0 false)
      (fun t => (t.ctx 8).cw.fwcause == 0x230 && (t.ctx 8).mode == 3) := by decide
set_option maxRecDepth 20000 in
theorem meets_tenants : let s := { spawning with ras := { Ras.reset with tnskein := Ras.reset.tnskein.set 0 2 } }
    happens (s.setCtx 64 { Ctx.reset with st := .running }) (.tnkill 1) (fun t => (t.ctx 64).st == .idle && t.me.st == .running) := by decide

/-! TheReleaseFromReset, DarkroomCommands, ShutterAndPowerFail -/
theorem meets_release : happens State.reset .resetRelease (fun t => t.agenda == [.own .imageVerify, .event .resetRelease]) ∧
    happens State.reset .imageVerify (fun t => t.boot.stage == 2 && t.boot.err == 8) ∧
    happens { State.reset with boot := { Boot.reset with stage := 2 } } (.safelight 0) (fun t => t.boot.ready == 1) ∧
    happens { seat id with boot := { Boot.reset with stage := 2 }, power := { Power.reset with inb := 3 } } (.safelight 0)
      (fun t => t.power.applied && t.power.chg == 1 && t.me.cw.ipend == 16) := by decide
/-- Safelight reached and an image running. -/
def started : State := { State.reset with boot := { Boot.reset with stage := 1, ready := 1 } }
set_option maxRecDepth 20000 in
theorem meets_dies : happens started (.hbmPairReady 0 true) (fun t => t.boot.ready == 0x201) ∧
    happens started (.hbmPairReady 0 false) (fun t => t.boot.ready == 0x200000001) ∧
    happens started (.dieReady 0 false) (fun t => t.boot.ready == 0x2000001) ∧
    happens started (.dieReady 0 true) (fun t => t.boot.ready == 1) ∧
    happens { started with boot := { started.boot with payloadAt := some 0x1780000000 } } (.dieReady 0 true)
      (fun t => (t.ctx 0).st == .starting && (t.ctx 0).pc == 0x1780000000 && t.boot.ready == 3) := by decide
theorem meets_darkroom : happens { started with boot := { started.boot with stage := 2 } } (.recover 8) (fun t => t.boot.err != 0) ∧
    happens started (.commit 0) (fun t => t.boot.fuses.rollback == 0) ∧ happens started (.lcadv 1) (fun t => t.boot.fuses.lcstate == 1) ∧
    happens started (.lcadv 2) (fun t => t.boot.fuses.lcstate == 0) ∧ happens started (.revoke 3) (fun t => t.boot.fuses.revoked == 8) ∧
    happens started (.srvlock 1) (fun t => t.boot.srvlock) ∧
    (started.d2h 0).cfg.getLsbD 0 = false ∧
    (let s := { started with dev := { Dev.reset with d2h := [(0, { D2h.reset with cfg := 1 })] } }
     (s.d2h 0).cfg.getLsbD 0 = true ∧ (s.d2h 0).free ≠ 0) := by decide
theorem meets_shutter : let s := { seat id with power := { Power.reset with applied := true, frame := some 6 }, dev := { Dev.reset with ver := [(1, (1, 1))] } }
    happens s (.shutterFrame 0xD690) (fun t => t.power.pin == 6 && t.me.cw.ipend == 16) ∧
    happens s (.shutterFrame 0xD780) (fun t => t.power.frame == some 7 && t.power.pin == 0) ∧
    happens s (.shutterFrame 0xD680) (fun t => t.power.frame == none) ∧ s.agreed 1 ≠ 0 ∧
    happens s (.shtin 3) (fun t => t.power.inb == 3) ∧ happens s (.shutterI3cWrite 4) (fun t => t.power.i3c == 4) ∧
    happens (seat id) (.shtin 3) (fun t => t.power.inb == 0) := by decide
theorem meets_power_manager : powerLimit Power.reset.level < (5000 : BitVec 16).toNat * 4 ∧
    happens (seat id) (.powerManagerTick 5000) (fun t => t.power.cpflPaused && t.free == 1) := by decide
set_option maxRecDepth 40000 in
theorem meets_power_fail : happens (seat id) .pfail (fun t => t.power.drain == .stopping && t.me.phase == .fetch) ∧
    happens { State.reset with power := { Power.reset with drain := .stopping } } .pfailStopTimeout
      (fun t => t.power.drain == .writing 1 && !recordVerifies t.boot.flash.drain) ∧
    happens { seat id with power := { Power.reset with drain := .halted } } .pfail (fun t => t.power.drain == .halted) ∧
    (let s := { State.reset with power := { Power.reset with drain := .halted }, agenda := [.event .pfail] }
     after (step s) (fun t => t.agenda == [])) ∧
    (let s := { State.reset with power := { Power.reset with drain := .writing 1 }, agenda := [.own .imageVerify] }
     after (step s) (fun t => t.agenda == [])) := by decide
theorem meets_power_fail_settled : ∀ c, ({ State.reset with power := { Power.reset with drain := .stopping } } : State).settling c = false :=
  fun _ => rfl

/-! RegisterWrites: an offset of each kind, and the first and last of each range -/
/-- seat, Safelight reached. -/
def lit : State := { seat id with boot := { Boot.reset with ready := 1 } }
theorem meets_register_writes : happens lit (.registerWrite .supervisor 0x100 0xFFFFFFFF) (fun t => t.devRead 0x100 == 0xFFFF) ∧
    happens lit (.registerWrite .supervisor 0x10F8 5) (fun t => t.devRead 0x10F8 == 5) ∧
    happens lit (.registerWrite .supervisor 0x1278 5) (fun t => t.devRead 0x1278 == 5) ∧
    happens lit (.registerWrite .supervisor 0x1000200 5) (fun t => t.devRead 0x1000200 == 5) ∧
    happens lit (.registerWrite .supervisor 0x17F0200 5) (fun t => t.devRead 0x17F0200 == 5) ∧
    happens lit (.registerWrite .host 0x1000200 5) (fun t => t.devRead 0x1000200 == 0) ∧
    happens lit (.registerWrite .supervisor 0x17F9100 5) (fun t => t.devRead 0x17F9100 == 5) ∧
    happens lit (.registerWrite .supervisor 0x1000000 0) (fun t => t.devRead 0x1000000 == 0x11111111) ∧
    happens lit (.registerWrite .firmware 0x14F8 5) (fun t => t.devRead 0x14F8 == 5) ∧
    happens lit (.registerWrite .supervisor 0x1480 5) (fun t => t.devRead 0x1480 == 1) ∧
    happens lit (.registerWrite .host 0x10FD8 1) (fun t => t.agenda == [.own (.mailboxDoorbell 63 1)]) ∧
    happens lit (.registerWrite .host 0x2F000 1) (fun t => t.agenda == [.own (.shootdownRequest 15)]) ∧
    happens lit (.registerWrite .host 0x1810 1) (fun t => t.agenda == []) ∧
    happens lit (.registerWrite .host 0x300 0xF05) (fun t => t.devRead 0x300 == 0xF01 && t.agenda == [.own .gangRelease]) ∧
    happens lit (.registerWrite .host 0x400 (BitVec.allOnes 64)) (fun t => t.devRead 0x400 == 0x3FFFFFFFFF001) ∧
    happens lit (.registerWrite .host 0x478 5) (fun t => t.devRead 0x478 == 5) ∧
    happens lit (.registerWrite .host 0xA00 5) (fun t => t.devRead 0xA00 == 5 && t.agenda.length == 1) ∧
    happens lit (.registerWrite .host 0xA18 5) (fun t => t.devRead 0xA18 == 5 && t.agenda.length == 0) := by decide
theorem meets_more_register_writes : happens lit (.registerWrite .supervisor 0x10000 (BitVec.allOnes 64))
      (fun t => t.devRead 0x10000 == 0xFFFFFFFFFFC000) ∧
    happens lit (.registerWrite .host 0x11FC0 (BitVec.allOnes 64)) (fun t => t.devRead 0x11FC0 == 0xFFFFFFFFFFC000) ∧
    happens lit (.registerWrite .host 0x10048 (BitVec.allOnes 64)) (fun t => t.devRead 0x10048 == 0xFFFFFFFFFFF000) ∧
    happens lit (.registerWrite .host 0x11058 7) (fun t => t.devRead 0x11058 == 7) ∧
    happens lit (.registerWrite .host 0x10000 5) (fun t => t.devRead 0x10000 == 0) ∧
    happens lit (.registerWrite .supervisor 0x1009108 5) (fun t => t.agenda == [.own (.icsend 7 5)]) ∧
    happens (lit.modSkein 0 fun x => { x with cqfail := 1 }) (.registerWrite .supervisor 0x1000100 32) (fun t => (t.skein 0).cqfail == 0) ∧
    happens lit (.registerWrite .supervisor 0x1000008 5) (fun t => t.agenda == []) ∧
    happens { lit with boot := { lit.boot with stage := 2 } } (.registerWrite .host 0x800008 5) (fun t => t.devRead 0x800008 == 5) ∧
    happens lit (.registerWrite .host 0x2F004 0x1000000) (fun t => t.agenda == [.own (.shootdownRequest 15)]) ∧
    happens lit (.registerWrite .host 0 0x2010000) (fun t => t.agenda == [.own (.versionWrite 0 1 2)]) ∧
    happens lit (.registerWrite .host 0x12000 5) (fun t => t.agenda == []) := by decide


/-! RoundingIsCorrect: 1 and its neighbour in FP32, and a value a quarter of the way between -/
theorem meets_rounding : 0x3F800000 + 1 ≤ Fmt.fp32.maxCode ∧ (Fmt.fp32.decode 0x3F800000).lt (.fin false (2 ^ 25 + 1) (-25)) = true ∧
    (Val.fin false (2 ^ 25 + 1) (-25)).lt (Fmt.fp32.decode 0x3F800001) = true ∧
    (Fmt.fp32.round (.fin false (2 ^ 25 + 1) (-25)) .rne false).1 = 0x3F800000 := by decide
theorem meets_finite_code : 0x7F7FFFFF % 2 ^ (Fmt.fp32.width - 1) ≤ Fmt.fp32.maxCode := by decide

theorem meets_rounding_kinds : (Fmt.fp32.round (.fin true (2 ^ 25 + 1) (-25)) .rdn false) = (0xBF800001, { noFlags with nx := true }) ∧
    (Fmt.fp32.round (.fin true (2 ^ 25 + 1) (-25)) .rup false).1 = 0xBF800000 ∧ (Fmt.fp32.decode 0).lt (.fin false 1 (-150)) = true ∧
    (Val.fin false 1 (-150)).lt (Fmt.fp32.decode 1) = true ∧ Fmt.fp32.round (.fin true 1 (-150)) .rmm false =
      (0x80000001, { noFlags with nx := true, uf := true }) := by decide
theorem meets_rounding_beyond : Fmt.fp16.decode Fmt.fp16.maxCode = .fin false 2047 5 ∧ (Val.fin false (2 * 2047) 5).lt (.fin false 1 20) = true ∧
    Fmt.fp16.round (.fin true 1 20) .rdn false = (0xFC00, { noFlags with of := true, nx := true }) ∧
    Fmt.fp16.round (.fin false 1 20) .rdn false = (0x7BFF, { noFlags with of := true, nx := true }) := by decide
/-- R115: infinity minus infinity is invalid, one over zero divides by zero; R116: the lesser zero is the negative one. -/
theorem test_special_values : let s := fun (a b : Dword) => seat fun c => (c.setX 10 a).setX 11 b
    after (exec (.fadd 9 10 11 0 2) (s 0x7F800000 0xFF800000)) (fun t => t.getX 9 == 0x7FC00000 && t.me.cw.fpctl == 0x10) ∧
    after (exec (.fdiv 9 10 11 0 2) (s 0x3F800000 0x80000000)) (fun t => t.getX 9 == 0xFF800000 && t.me.cw.fpctl == 0x20) ∧
    after (exec (.fmin 9 10 11 2) (s 0 0x80000000)) (fun t => t.getX 9 == 0x80000000 && t.me.cw.fpctl == 0) ∧
    after (exec (.fsub 9 10 11 3 2) (s 0x3F800000 0x3F800000)) (fun t => t.getX 9 == 0x80000000 && t.me.cw.fpctl == 0) := by decide

/-! SpecialFunctionValues, SpecialFunctionsRoundOnce: a value of each row of R122, and arguments with a result that has a flag or is not zero -/
theorem meets_special_kinds : Fmt.fp32.decode 0x40000000 = .fin false (2 ^ 23) (-22) ∧ (2 : Int) * 2 ^ 22 = 2 ^ 23 * 2 ^ 0 ∧
    Fmt.fp32.top < 0x7F800001 ∧ 0 < 0x80000001 % 2 ^ 31 ∧ 0x80000001 % 2 ^ 31 < Fmt.fp32.top ∧ 0 < 0x3F80 ∧ 0x3F80 < Fmt.bf16.top := by decide
set_option maxRecDepth 40000 in
theorem meets_special_rounded : Fmt.fp32.special .exp2 0x3F000000 ≠ (0, noFlags) ∧ Fmt.fp32.special .log2 0x40400000 ≠ (0, noFlags) ∧
    Fmt.bf16.special .sin 0x3F80 ≠ (0, noFlags) ∧ Fmt.bf16.special .cos 0x3F80 ≠ (0, noFlags) ∧
    Fmt.bf16.special .tanh 0x3F80 ≠ (0, noFlags) := by decide

/-! ConversionValues, BlockValues, ReductionValues -/
theorem meets_conversion_values : ((fmtOf 6).decode 0x3F800000).isNan = false ∧ (fmtOf 6).decode 0x7F800001 = .nan true ∧
    (fmtOf 4).decode 0x4248 = .fin false (2 ^ 10 + 0x248) (-9) := by decide
theorem meets_block_values : (Fmt.e4m3.decode 0x7F).isNan = true ∧ Fmt.e5m2.decode 0x7C = .inf false ∧
    Fmt.e2m1.decode 0xF = .fin true 3 1 := by decide
/-- A block of 3 and −1: the largest magnitude lies between 2 and 4. -/
theorem meets_block_scale : (3 : ℚ) * 2 ^ (0 : Int) < (2 : ℚ) ^ ((1 : Int) + 1) ∧ (1 : ℚ) * 2 ^ (0 : Int) < (2 : ℚ) ^ ((1 : Int) + 1) ∧
    (2 : ℚ) ^ (1 : Int) ≤ 3 * 2 ^ (0 : Int) := by norm_num
theorem meets_reduction_values : 1024 / (fmtOf 6).width = 2 ^ 5 ∧ 1024 / (fmtOf 4).width = 2 ^ 6 ∧
    ((fmtOf 6).decode 0x80000000).isZero = true ∧ ((fmtOf 6).decode 0x80000000).isNeg = true := by decide

/-! TileDots, DrainsAndMagnitudes -/
/-- Products 5 and −2^−39: the largest lies between 4 and 8. -/
theorem meets_group_sum : |(5 : ℚ)| < 2 ^ ((2 : Int) + 1) ∧ (2 : ℚ) ^ (2 : Int) ≤ |5| ∧ |(-1 : ℚ) * 2 ^ (-39 : Int)| < 2 ^ ((2 : Int) + 1) := by
  norm_num
theorem meets_tile_values : (Fmt.fp32.decode 0x7FC00000).isNan = true ∧ (0x0100 : BitVec 16).toNat / 256 % 4 = 1 ∧
    (0x7000 : BitVec 16).toNat / 256 % 4 = 0 ∧ (0x7000 : BitVec 16).getLsbD 14 = true ∧ (Fmt.fp32.decode 0xBF800000).isNan = false := by decide

/-! StepRunsTheDecodedInstruction: checks that wait, and a long bundle entered at slot A -/
set_option maxRecDepth 20000 in
theorem meets_step_checks : let s := seat fun c => { c with checks := [(2, 7)], phase := .fetch }
    s.atomicSent s.cur = false ∧ after (step s) (fun t => t.me.cw.fwcause == 0x230 && t.me.cw.tval == 7 && t.me.checks == []) = true := by decide
set_option maxRecDepth 20000 in
theorem meets_step_long_slot_a :
    let s := ((firm fun c => { c with phase := .fetch, slotA := true, pc := 0x1000 }).writeMem (cellsAt 0x1000 (toBytes 8 0x92000001))).modCore 0
      fun k => { k with slots := [(0, 1)] }
    (s.me.checks = [] ∧ s.takeable s.cur = none ∧ got (s.fetch s.cur) (fun r => r.2.getLsbD 31) ∧
    after (step s) (fun t => t.me.cw.fwcause == 0x130)) := by decide

/-! ContextSaveAndLoad, ThreadImage -/
theorem meets_thread_image : (seat fun c => { c with fails := [failedStore], mkRec := some (3, 9, 0) }).me.fails = [failedStore] ∧
    (let s := withEntry (firm id) (tkEntry (firm id) .read .ticket .load)
     (s.readEntries s.cur).length = 1) := by decide

/-! ErrorsAreRecorded, TenantsAreTerminated -/
theorem meets_check_waits : let s := (seat id).setCtx 8 { Ctx.reset with st := .parked, park := some .wait }
    s.isServer (coreOf 8) = false ∧ s.ras.tenantOf (skeinOf 8) = none ∧
    happens s (.uncorrectableError 5 8 0 false) (fun t => (t.ctx 8).st == .parked && (t.ctx 8).checks.length == 1) := by decide

/-! HomeServesTheFabric: the ends of a walk -/
theorem meets_home_walk : let w : Window := { index := 0, base := 0, size := 0x100000, va := 0, asn := 0, any := true, rd := true, wr := true }
    got ((home.writeMem (cellsAt 0x300000 [0])).homeWalk w .load 0x1000) (fun r => match r.2 with | .absent false => true | _ => false) ∧
    got ((home.writeMem (cellsAt 0x300000 [0x05])).homeWalk w .load 0x1000) (fun r => match r.2 with | .refused => true | _ => false) ∧
    got (home.homeWalk { w with asn := 1 } .load 0x1000) (fun r => match r.2 with | .absent false => true | _ => false) := by decide

/-! PowerFailDrain: an atomic whose replay has no answer -/
theorem meets_abandoned : let e := { tkEntry (seat id) .read .ticket .amo with replaying := true }
    let s := withEntry (seat fun c => { c with st := .parked, park := some (.ticket 0) }) e
    happens { s with power := { Power.reset with drain := .stopping } } .pfailStopTimeout (fun t => t.power.abandoned == [0]) := by decide

/-! R187: a fetch of a poisoned line that the core's own L1 has written whole -/
theorem meets_code_cleared : let s := (seat id).setPoison 0x1000
    let l : L1Line := { line := 0x20, s := true, state := .modified, dirty := BitVec.allOnes 128, whole := true, bytes := 0 }
    s.codePoisoned 0 ⟨0x1000, 0x1000, .S⟩ = true ∧ (s.modCore 0 fun k => { k with l1 := [l] }).codePoisoned 0 ⟨0x1000, 0x1000, .S⟩ = false := by
  decide

/-! HomeAcquireRelease, AtomicResults, FencesAndCacheOperations, WaitsCompleteOrPark: an acquire with a posted store unacknowledged -/
theorem meets_acquire_waits : let s := withEntry pointed (tkEntry pointed .posted .sent .store)
    s.releaseWaits s.cur 9 = true ∧ after (exec (.ldaq 9 0 3 9 1) s) (fun t => t.me.phase == .first) ∧
    after (exec (.amo 9 0 1 9 1 1 1) s) (fun t => t.me.phase == .first) ∧ after (exec (.fence 9 0) s) (fun t => t.me.phase == .first) ∧
    after (exec (.tokwait 9 0 9 1) s) (fun t => t.me.phase == .first) ∧ after (exec (.ldaq 2 0 3 9 1) s) (fun t => t.me.phase == .second) := by
  decide

/-! CachesKeepValues: a pin at another skein, and a line that an L1 holds modified -/
theorem meets_coherence : let pinned := (cached 1 true).setSkein 1 { SkeinSt.reset with sc := [] }
    let l : L1Line := { line := 0x20, s := false, state := .modified, dirty := 0, whole := false, bytes := 0 }
    happens pinned (.coherenceRequest 1 0x20 true true) (fun t => (t.skein 0).held == [(0x20, true, true)]) ∧
    happens pinned (.coherenceRequest 1 0x20 true false) (fun t => (t.skein 0).held == []) ∧
    happens ((seat id).modCore 0 fun k => { k with l1 := [l] }) (.coherenceRequest 0 0x20 true false)
      (fun t => (t.core 0).l1 == [] && t.msc.any (·.line == 0x20)) := by decide

/-! SendsAndGangStop: a settling user thread's multiply goes ahead -/
theorem meets_gang_ahead : let s := { seat (fun c => { c with phase := .second }) with dev := { Dev.reset with gsctl := 1 } }
    happens (s.modCore 0 fun k => { k with tq := [{ tileCmd with begun := true }] }) .gangStopTrigger
      (fun t => (t.core 0).tq.map (·.ahead) == [true]) := by decide

/-! HomeServesTheFabric: a poisoned packet, and one whose line's set is full of pins -/
theorem meets_poisoned_packet : let q := { ask 0x1000 .store with poison := true }
    got (home.performHome q (.hbm 0x1000) .D) (fun r => r.1.msc.any (·.line == 0x20)) := by decide

/-! ErrorsAndTermination: an S line written whole, and a request held at a pin -/
set_option maxRecDepth 20000 in
theorem meets_terminated_lines : let s := { spawning with ras := { Ras.reset with tnskein := Ras.reset.tnskein.set 0 2 } }
    let l : L1Line := { line := 0x20, s := true, state := .modified, dirty := BitVec.allOnes 128, whole := true, bytes := 0 }
    let u := (s.setPoison 0x1000).modCore 8 fun k => { k with l1 := [l] }
    happens u (.tnkill 1) (fun t => !t.poisoned 0x1000) ∧
    happens (s.setSkein 1 { SkeinSt.reset with held := [(0x40, true, true)] }) (.tnkill 1) (fun t => (t.skein 1).held == [] && t.away.length == 1) := by
  decide

/-! PowerFailDrain: a parked atomic whose replay has its answer -/
theorem meets_answered : let e := { tkEntry (seat id) .read .done .amo with answer := some (.ok 0) }
    let s := withEntry (seat fun c => { c with st := .parked, park := some (.ticket 0) }) e
    s.finishing 0 = true ∧ happens s .pfail (fun t => t.me.st == .parked) ∧
    happens { s with power := { Power.reset with drain := .stopping } } .pfailStopTimeout
      (fun t => t.power.drain == .timedOut && t.power.abandoned == []) ∧
    happens { s with power := { Power.reset with drain := .timedOut } } (.parkedWake 0) (fun t => t.me.st == .running) := by decide

/-! AtomicResults, PowerFailDrain: an atomic on a U page -/
/-- paged, its one leaf of treatment U. -/
def uncached : State := (paged fun c => c.setX 1 0x1000).writeMem (cellsAt 0x300001 [2])
set_option maxRecDepth 20000 in
theorem meets_uncached_atomic : let asked := uncached.modMe fun c => { c with asked := true }
    got (uncached.mapRange (uncached.who 0) .rmw 0x1000 8) (fun r => r.2.all (·.t == .U)) ∧ uncached.me.asked = false ∧
    after (exec (.amo 0 0 1 9 1 0 1) uncached) (fun t => t.me.asked && t.me.phase == .first && readCell t.mem 0x1000 == 0) ∧
    after (exec (.amo 0 0 1 9 1 0 1) (asked.setX 9 5)) (fun t => !t.me.asked && t.me.phase == .second && readCell t.mem 0x1000 == 5) ∧
    happens { asked with power := { Power.reset with drain := .stopping } } .pfailStopTimeout
      (fun t => t.power.abandoned == [0] && t.me.phase == .fetch) := by decide

/-! TableWalk: R322's malformed cases one by one, a leaf of 64 KiB, a table's entry, and what a walk reads -/
/-- paged with one table entry at 0x300000 that is p. -/
def tableOf (p : Dword) : State := (paged id).writeMem (cellsAt 0x300000 (toBytes 8 p.toNat))
theorem meets_table_walk : let walk := fun (p : Dword) (level : Nat) => (tableOf p).walkFrom 0 level 0x300000
    ([0, 4, 0x40].all fun p => got (walk p 1) (· == .absent)) ∧
    ([0x5, 0x11, 0x41, 0x81, 0x403, 0x0040000000000003, 0x4000000000000003, 0x8000000000000003].all fun p => got (walk p 1) (· == .malformed)) ∧
    ([1, 0x8000000000000003, 0x0040000000000003].all fun p => got (walk p 0) (· == .malformed)) ∧
    got (walk 0x8000000000002003 0) (· == .leaf 0 0x8000000000002003 0x300000) ∧ got (walk 9 0) (· == .leaf 0 9 0x300000) ∧
    got (((tableOf 0xC0401).writeMem (cellsAt 0x301000 [3])).walkFrom 0 1 0x300000) (· == .leaf 0 3 0x301000) := by decide
theorem meets_table_reads : (paged id).region 0x200000 = .hbm 0x200000 ∧ got ((paged id).physDword false 0x200000) (· == 0x300001) ∧
    got ((paged id).physDword true 0x200008) (· == 0) ∧
    stopped (((paged id).setPoison 0x200000).physDword false 0x200000) (fun e => match e with | .machine 2 9 0x200000 => true | _ => false) := by decide

/-! WalkOutcomes, CopyEngineUnits: a write that dref refuses to a page whose A is clear -/
/-- paged, address space 0 with dref, its leaf with A and D clear, x1 a pointer. -/
def refusing : State := ((paged fun c => c.setX 1 0x1000).writeMem (cellsAt 0x300000 [0x17])).writeMem (cellsAt 0x200000 [0x05])
set_option maxRecDepth 20000 in
theorem meets_dirty_refused :
    stopped (refusing.mapRange (refusing.who 0) .store 0x1000 8) (fun e => match e with
      | .dirtyRefused e a p => e.detail == 2 && a == 0x300000 && p == 0x57 | _ => false) ∧
    after (exec (.std 9 1 0) refusing) (fun t => t.me.cw.cause == 0x207 && t.memDword 0x300000 == 0x57) ∧
    (let c : CopyCmd := { (State.copyCmd refusing none 0 4 0 0 0 0) with dst := 0x2000, src := 0x1000, rowLen := 8, rows := 1, buf := [1, 2, 3, 4, 5, 6, 7, 8], started := true }
     happens (refusing.modCore 0 fun k => k.setQueue 0 [.cmd c]) (.copyUnit 0)
       (fun t => (t.headCmd 0 0).map (·.failed) == some true && t.memDword 0x300000 == 0x57)) := by decide

/-! HomeAcquireRelease, RetiredStoresArePerformed: a release at a fabric scope gives up S lines; an acquire's place keeps its order -/
set_option maxRecDepth 20000 in
theorem meets_fabric_release : let l : L1Line := { line := 0x40, s := true, bytes := 7, dirty := 1, whole := false, state := .modified }
    let s := pointed.modCore 0 fun k => { k with l1 := [l] }
    after (exec (.strl 7 1 3 9 1) s) (fun t => (t.core 0).l1 == [] && readCell t.mem 0x2000 == 7) ∧
    after (exec (.strl 2 1 3 9 1) s) (fun t => (t.core 0).l1.map (·.line) == [0x40]) := by decide
theorem meets_acquire_place : let s := firm fun c => { c with stores := [.bytes .D [(0x1000, 5)] false, .seen, .bytes .D [(0x2000, 6)] false] }
    happens s (.storePerform 0 1) (fun t => t.me.stores.length == 3) ∧ happens s (.storePerform 0 2) (fun t => t.me.stores.length == 2) := by decide

/-! RouterServesRequests: a launch for a die that is not ready -/
/-- dieless with mailbox 1 waiting for its head entry's launch. -/
def earlyMail : State := dieless.setH2d 1 { H2d.reset with waiting := true, cfg := 1, entries := [(0, 0)] }
/-- spawning with that launch at the router, unchecked, with program counter pc. -/
def earlyHeld (pc : Dword) : State :=
  let s := (spawning.writeMem (cellsAt 0x200008 [2])).setH2d 1 { H2d.reset with waiting := true, cfg := 1, entries := [(0, 0)] }
  { s with dev := { s.dev with router := [{ core := 9, req := { launch 9 with pc := pc }, origin := .mailbox 1, hold := false, unchecked := true }] } }
set_option maxRecDepth 20000 in
theorem meets_early_launch : got (earlyMail.asLookup 0) (fun _ => true) ∧ earlyMail.boot.ready.getLsbD 1 = false ∧
    happens earlyMail (.launchRoute (.mailbox 1) (launch 9)) (fun t => t.dev.router.map (·.unchecked) == [true]) ∧
    got ((earlyHeld 4).asLookup 0) (·.2.isSome) ∧
    happens (earlyHeld 4) (.routerFill 9) (fun t => t.dev.router == [] && (t.h2d 1).entries == [] && (t.core 9).lq == []) ∧
    happens (earlyHeld 0x1000) (.routerFill 9) (fun t => t.dev.router == [] && (t.core 9).lq.length == 1) := by decide

/-! IssueAndFusedFetch: a choice already made, and the end of a cycle that left one unchosen -/
theorem meets_choice : let s := three.modCore 0 fun k => { k with nextChoice := 1 }
    happens s (.issueArbitrate 0) (fun t => (t.ctx 2).waitCount == 0 && (t.core 0).slots == []) ∧ (three.core 0).nextChoice ≤ three.cyc ∧
    happens three (.issueArbitrate 0) (fun t => (t.core 0).unchosen.length == 1 && (t.core 0).nextChoice == 1 && tableGet (t.core 0).ctr 4 0 == 0) ∧
    happens (three.modCore 0 fun k => { k with unchosen := [0] }) (.issueArbitrate 0) (fun t => tableGet (t.core 0).ctr 4 0 == 1) := by decide

/-! TileState, TileRegisterResults, TileFormatAndQueue, TileMemory, TileMultiplies: slots that are free, lacking or held back, and operands that stop -/
/-- tiled with so many slots of skein 0 freed only by an unretired command of context 1 on core 1. -/
def short (n : Nat) : State := (tiled 0).modCore 1 fun k => { k with tq := [{ tileCmd with ctx := 1, old := List.replicate n 0 }] }
set_option maxRecDepth 40000 in
theorem meets_slots : (tiled 0).obtains 0 8 = true ∧ (tiled 0).enables 0 = true ∧ (tiled 0).tileRoom 0 = true ∧
    (short 503).obtains 0 1 = true ∧ (short 504).obtains 0 1 = false ∧ (short 488).enables 0 = false ∧
    after (exec (.tzero 0) (short 504)) (fun t => t.me.phase == .first) ∧
    (let own := fun n => (short n).modCore 0 fun k => { k with tq := [{ tileCmd with old := [0] }] }
     (own 495).obtains 0 1 = true ∧ (own 496).obtains 0 1 = false) := by decide
theorem meets_tile_oldest : ((tiled 0).myCore.tq.all fun t => t.ctx != ctxInCore (tiled 0).cur) = true ∧
    (let s := (tiled 0).modCore 0 fun k => { k with tq := [tileCmd] }
     after (exec .trel s) (fun t => t.me.tile && t.me.phase == .first) ∧ goes (exec .trel (tiled 0)) ∧
     after (exec (.tzero 0) s) (fun t => (t.core 0).tq.map (·.old.length) == [0, 1])) := by decide
set_option maxRecDepth 40000 in
theorem meets_multiply_stops : let s := oneRow 0
    trapped ((seat id).rowPages 0 .tileRead 2 0 [(0x1000, 32)]) (fun x => x.code == 8 && x.tval2 == 0x4000000000000002) ∧
    after (exec (.tmma 0 1 1 2 1 2 1 1 0 0 0) ((s.setX 1 0x100000000000000))) (fun t => t.me.cw.fwcause == 0x130) ∧
    after (exec (.tmma 0 1 1 2 1 2 1 1 0 0 0) (s.setPoison 0x1000)) (fun t => t.me.cw.fwcause == 0x130) := by decide
theorem meets_tile_restore : let x := (tiled 0x0122).me
    (x.tileImage.take 16) = toBytes 8 0x08010001 ++ toBytes 8 0x0122 := by decide

/-! AnswersAndNotices: an answer that comes late -/
theorem meets_late_answer : let s := withEntry (seat id) (tkEntry (seat id) .read .sent .load)
    let kept := fun (t : State) => (t.core 0).tk.map (·.2.state) == [.sent]
    happens { s with power := { Power.reset with abandoned := [0] } } (.fabricResponse 0 (.entry 0) (.ok 5)) kept := by decide

/-! PowerFailDrain: an abandoned thread's replay is answered late -/
theorem meets_late_replay : let e := { tkEntry (seat id) .read .done .amo with answer := some (.ok 0) }
    let s := withEntry (seat fun c => { c with st := .parked, park := some (.ticket 0) }) e
    let t := { s with power := { Power.reset with drain := .timedOut, abandoned := [0] } }
    t.finishing 0 = false ∧ happens t (.parkedWake 0) (fun t => t.me.st == .parked) := by decide

/-! CachesKeepValues: a fill whose memory is not yet ready waits -/
theorem meets_fill_waits : let s := { (queued { copying with level := some 0 }) with boot := Boot.reset }
    stopped (s.mapRange (copying.who 0) .load copying.srcAt 1) (fun e => match e with | .wait => true | _ => false) ∧
    s.nextQueue 0 = some 0 ∧ happens s (.cpflFill 0) (fun t => (t.headCmd 0 0).map (·.col) == some 0) := by decide

/-! TileArbiter: an idle engine starts anew; a command retires after its thread's older ones; the limit falls slowly -/
theorem meets_tile_rounds : let step := { tileCmd with waiting := [], running := [⟨0, 0, [], none⟩], begun := true }
    let at_ := fun (l : List TileCmd) (e : Engine) => (tiling l []).setSkein 0 { SkeinSt.reset with eng := [(0, e)] }
    happens (at_ [] { Engine.reset with core := 3, used := 2 }) (.tileGrant 0 0)
      (fun t => (tableGet (t.skein 0).eng 0 Engine.reset).core == 0 && (tableGet (t.skein 0).eng 0 Engine.reset).used == 0) ∧
    happens (at_ [tileCmd, { step with running := [⟨0, 1, [], none⟩] }] { Engine.reset with run := some (0, 1, 0) }) (.tileStepComplete 0 0)
      (fun t => (t.core 0).tq.length == 2) ∧
    (SkeinSt.reset.gauge.window 1200).limit = 2392 := by decide

/-! ThreadsEnd: a thread whose tile command is unretired, and an increment that dref refuses -/
theorem meets_end_waits : let s := (ending none []).modCore 0 fun k => { k with tq := [tileCmd] }
    happens s (.exitDrainComplete 0) (fun t => t.me.st == .exiting) := by decide
set_option maxRecDepth 20000 in
theorem meets_end_dirty_refused : let s := ((ending (some ⟨0x1000, 1, 0, 0⟩) []).writeMem (cellsAt 0x300000 [0x17])).writeMem (cellsAt 0x200000 [0x05])
    happens s (.exitDrainComplete 0) (fun t => t.me.st == .idle && t.ras.ring.length == 1 && t.memDword 0x300000 == 0x57) ∧
    happens ((ending (some ⟨0x1000, 1, 0, 0⟩) []).setPoison 0x1000) (.exitDrainComplete 0) (fun t => t.me.st == .idle && t.ras.ring.length == 1) ∧
    happens (ending (some ⟨0x1000, 1, 7, 0⟩) []) (.exitDrainComplete 0) (fun t => t.me.st == .idle && t.ras.ring.length == 1) := by decide

/-! RoundingBeyondTheLargest: halfway to the next finite value that FP16 would have, where RNE and RMM overflow, and just below -/
theorem meets_rounding_threshold : (Fmt.fp16.round (.fin false 4095 4) .rne false).1 = 0x7C00 ∧ (Fmt.fp16.round (.fin false 4095 4) .rmm false).1 = 0x7C00 ∧
    Fmt.fp16.round (.fin false 8189 3) .rne false = (0x7BFF, { noFlags with nx := true }) ∧
    (Fmt.fp16.round (.fin false 8189 3) .rup false).1 = 0x7C00 := by decide

end Sys2Proof.Tests
end

/-! # R44: the fixed registers, and reading what was last written -/

namespace Sys2Proof.Registers

open Sys2Proof.Machine Sys2Proof.Safety Sys2Proof.Laws

/-! ## Discarded writes -/

@[simp] theorem setX_zero (c : Ctx) (v : Dword) : c.setX 0 v = c := if_pos rfl
@[simp] theorem setP_zero (c : Ctx) (q : Bool) : c.setP 0 q = c := if_pos rfl
@[simp] theorem setK_zero (c : Ctx) (v : KReg) : c.setK 0 v = c := if_pos rfl

/-! ## The image of a b register (R46) -/

/-- The low three bits of an image: the valid bit, and the two bits that a write ignores. -/
theorem getLsbD_image_low (b : BReg) (i : Nat) (h : i < 3) : b.image.getLsbD i = (decide (i = 0) && b.valid) := by
  have hv : (BReg.image.ofBit b.valid).getLsbD i = (decide (i = 0) && b.valid) := by
    cases b.valid <;> simp [BReg.image.ofBit]
  rw [BReg.image, BitVec.getLsbD_append, if_pos h, hv]

/-- The other bits of an image are the target's. -/
theorem getLsbD_image_high (b : BReg) (i : Nat) (h : ¬ i < 3) : b.image.getLsbD i = b.target.getLsbD (i - 3) := by
  rw [BReg.image, BitVec.getLsbD_append, if_neg h]

/-- The mask of R46 clears the bits 1 and 2. -/
theorem getLsbD_imageMask (i : Nat) (h : i < 64) : (~~~(6 : Dword)).getLsbD i = (decide (i = 0) || decide (3 ≤ i)) := by
  revert i; decide

/-- An image that is written reads back without its bits [2:1]. -/
theorem image_ofImage (v : Dword) : (BReg.ofImage v).image = v &&& ~~~(6 : Dword) := by
  refine BitVec.eq_of_getLsbD_eq fun i hi => ?_
  rw [BitVec.getLsbD_and, getLsbD_imageMask i hi]
  by_cases h : i < 3
  · rw [getLsbD_image_low _ i h]
    by_cases h0 : i = 0
    · simp [h0, BReg.ofImage]
    · simp [h0, h]
  · have h3 : 3 ≤ i := Nat.not_lt.mp h
    rw [getLsbD_image_high _ i h]
    have hs : i - 3 < 61 := by omega
    simp [BReg.ofImage, h3, hs]

theorem image_getB_setB_ofImage (c : Ctx) (a d : Reg3) (v : Dword) :
    ((c.setB d (.ofImage v)).getB a).image = if a = d then v &&& ~~~(6 : Dword) else (c.getB a).image := by
  rw [getB_setB, apply_ite BReg.image, image_ofImage]

/-! ## Instructions that name register 0 as their destination -/

@[simp] theorem low3_zero : low3 0 = 0 := rfl

theorem add_completes (d a b : Reg) (s : State) :
    Completes (.add d a b) s (s.me.setX d (s.me.getX a + s.me.getX b)) :=
  doneA_completes (f := fun c => c.setX d (c.getX a + c.getX b)) rfl

theorem pand_completes (d a b : Reg) (s : State) :
    Completes (.pand d a b) s (s.me.setP (low3 d) (s.me.getP (low3 a) && s.me.getP (low3 b))) :=
  doneA_completes (f := fun c => c.setP (low3 d) (c.getP (low3 a) && c.getP (low3 b))) rfl

theorem kand_completes (d a b : Reg) (s : State) :
    Completes (.kand d a b) s (s.me.setK (low3 d) (s.me.getK (low3 a) &&& s.me.getK (low3 b))) :=
  doneA_completes (f := fun c => c.setK (low3 d) (c.getK (low3 a) &&& c.getK (low3 b))) rfl

theorem add_zero_completes (a b : Reg) (s : State) : Completes (.add 0 a b) s s.me := by
  simpa only [setX_zero] using add_completes 0 a b s

theorem pand_zero_completes (a b : Reg) (s : State) : Completes (.pand 0 a b) s s.me := by
  simpa only [low3_zero, setP_zero] using pand_completes 0 a b s

theorem kand_zero_completes (a b : Reg) (s : State) : Completes (.kand 0 a b) s s.me := by
  simpa only [low3_zero, setK_zero] using kand_completes 0 a b s

/-- Settles O12: each file by its law of reading after writing, b through its image, and one instruction for each file whose
register 0 discards writes. -/
theorem registerFileReadsAndWrites : Obligations.RegisterFileReadsAndWrites :=
  ⟨fun c a d v => ⟨getX_zero c, setX_zero c v, getX_setX c d a v⟩,
    fun c a d q => ⟨getP_zero c, setP_zero c q, getP_setP c d a q⟩,
    fun c a d v => ⟨getK_zero c, setK_zero c v, getK_setK c d a v⟩,
    fun c a d v => getV_setV c d a v,
    fun c a d v => getM_setM c d a v,
    fun c a d v => image_getB_setB_ofImage c a d v,
    fun s a b => ⟨add_zero_completes a b s, pand_zero_completes a b s, kand_zero_completes a b s⟩⟩

end Sys2Proof.Registers

/-! # R170: FCLASS names the class of its operand from the encoding's fields -/

namespace Sys2Proof.Classes

open Sys2Proof.Machine Sys2Proof.Safety Sys2Proof.Laws

/-! ## The fields of an encoding (R108) -/

/-- The exponent field of c. -/
def exponentOf (F : Fmt) (c : Nat) : Nat := c / 2 ^ F.frac % 2 ^ F.exp

/-- The fraction field of c. -/
def fractionOf (F : Fmt) (c : Nat) : Nat := c % 2 ^ F.frac

/-- Whether the sign bit of c is set. -/
def negOf (F : Fmt) (c : Nat) : Bool := c / 2 ^ (F.exp + F.frac) % 2 == 1

theorem exponentOf_lt (F : Fmt) (c : Nat) : exponentOf F c < 2 ^ F.exp := Nat.mod_lt _ (Nat.two_pow_pos _)

theorem fractionOf_lt (F : Fmt) (c : Nat) : fractionOf F c < 2 ^ F.frac := Nat.mod_lt _ (Nat.two_pow_pos _)

theorem magnitude_div (F : Fmt) (c : Nat) : c % 2 ^ (F.exp + F.frac) / 2 ^ F.frac = exponentOf F c := by
  rw [Nat.pow_add, Nat.mod_mul_left_div_self, exponentOf]

theorem magnitude_mod (F : Fmt) (c : Nat) : c % 2 ^ (F.exp + F.frac) % 2 ^ F.frac = fractionOf F c :=
  Nat.mod_mod_of_dvd c (Nat.pow_dvd_pow 2 (Nat.le_add_left _ _))

/-- The magnitude bits are the exponent field above the fraction field. -/
theorem magnitude_eq (F : Fmt) (c : Nat) :
    c % 2 ^ (F.exp + F.frac) = exponentOf F c * 2 ^ F.frac + fractionOf F c := by
  rw [← magnitude_div, ← magnitude_mod, Nat.div_add_mod']

/-- Decoding reads the low bits of a register only (R167). -/
theorem decode_mod_width (F : Fmt) (c : Nat) : F.decode (c % 2 ^ F.width) = F.decode c := by
  have hw : 2 ^ F.width = 2 ^ (F.exp + F.frac) * 2 := by rw [← Nat.pow_succ, Fmt.width]; congr 1; omega
  have hsign : c % 2 ^ F.width / 2 ^ (F.exp + F.frac) % 2 = c / 2 ^ (F.exp + F.frac) % 2 := by
    rw [hw, Nat.mod_mul_right_div_self, Nat.mod_mod]
  have hmag : c % 2 ^ F.width % 2 ^ (F.exp + F.frac) = c % 2 ^ (F.exp + F.frac) := by
    rw [hw, Nat.mod_mul_right_mod]
  simp only [Fmt.decode, hsign, hmag]

/-! ## Decoding by the fields -/

/-- F keeps the exponent field of all ones for infinities and NaNs, and is wide enough to tell signalling from quiet NaNs,
as FP16, BF16, FP32 and FP64 are and the formats of eight bits and fewer are not (R108). -/
structure Interchange (F : Fmt) : Prop where
  hasInf : F.hasInf = true
  maxCode : F.maxCode = F.top - 1
  wide : 16 ≤ F.width

theorem interchange_fmtOf2 (t : BitVec 2) : Interchange (fmtOf2 t.toNat) := by
  have h : ∀ t : BitVec 2, (fmtOf2 t.toNat).hasInf = true ∧
      (fmtOf2 t.toNat).maxCode = (fmtOf2 t.toNat).top - 1 ∧ 16 ≤ (fmtOf2 t.toNat).width := by decide
  obtain ⟨hinf, hmax, hwide⟩ := h t
  exact ⟨hinf, hmax, hwide⟩

theorem top_pos (F : Fmt) : 0 < F.top := by cases F <;> decide

/-- The finite magnitudes are those below the exponent field of all ones. -/
theorem maxCode_lt_iff {F : Fmt} (hF : Interchange F) (c : Nat) :
    F.maxCode < c % 2 ^ (F.exp + F.frac) ↔ exponentOf F c = 2 ^ F.exp - 1 := by
  have hle : F.maxCode < c % 2 ^ (F.exp + F.frac) ↔ F.top ≤ c % 2 ^ (F.exp + F.frac) := by
    have := top_pos F
    rw [hF.maxCode]; omega
  rw [hle, Fmt.top, ← Nat.le_div_iff_mul_le (Nat.two_pow_pos _), magnitude_div]
  have := exponentOf_lt F c
  omega

theorem decode_of_special {F : Fmt} (hF : Interchange F) {c : Nat} (h : exponentOf F c = 2 ^ F.exp - 1) :
    F.decode c = if fractionOf F c = 0 then .inf (negOf F c) else .nan (fractionOf F c < 2 ^ (F.frac - 1)) := by
  have hmag : c % 2 ^ (F.exp + F.frac) = F.top + fractionOf F c := by rw [magnitude_eq, h, Fmt.top]
  have hzero : (c % 2 ^ (F.exp + F.frac) == F.top) = decide (fractionOf F c = 0) := by
    simp only [hmag, beq_eq_decide, Nat.add_eq_left]
  simp only [Fmt.decode, magnitude_mod, if_pos ((maxCode_lt_iff hF c).mpr h), hF.hasInf, hzero, hF.wide,
    Bool.true_and, decide_true, decide_eq_true_eq, negOf]

theorem decode_of_finite {F : Fmt} (hF : Interchange F) {c : Nat} (h : exponentOf F c ≠ 2 ^ F.exp - 1) :
    F.decode c = if exponentOf F c = 0 then .fin (negOf F c) (fractionOf F c) F.last
      else .fin (negOf F c) (2 ^ F.frac + fractionOf F c) (F.last + exponentOf F c - 1) := by
  simp only [Fmt.decode, magnitude_mod, magnitude_div, if_neg (mt (maxCode_lt_iff hF c).mp h), negOf]

/-! ## The class -/

/-- The bit of R170 for the encoding v with e exponent bits and f fraction bits. -/
def fieldClass (e f v : Nat) : Nat :=
  let neg := v / 2 ^ (e + f) % 2 = 1
  let x := v / 2 ^ f % 2 ^ e
  let g := v % 2 ^ f
  if x = 2 ^ e - 1 then
    if g = 0 then (if neg then 0 else 7) else if g / 2 ^ (f - 1) = 0 then 8 else 9
  else if x = 0 then if g = 0 then (if neg then 3 else 4) else if neg then 2 else 5
  else if neg then 1 else 6

theorem fieldClass_eq (F : Fmt) (c : Nat) : fieldClass F.exp F.frac c =
    if exponentOf F c = 2 ^ F.exp - 1 then
      if fractionOf F c = 0 then (if negOf F c then 0 else 7)
      else if fractionOf F c < 2 ^ (F.frac - 1) then 8 else 9
    else if exponentOf F c = 0 then
      if fractionOf F c = 0 then (if negOf F c then 3 else 4) else if negOf F c then 2 else 5
    else if negOf F c then 1 else 6 := by
  have hquiet : fractionOf F c / 2 ^ (F.frac - 1) = 0 ↔ fractionOf F c < 2 ^ (F.frac - 1) :=
    Nat.div_eq_zero_iff_lt (Nat.two_pow_pos _)
  simp only [← hquiet, negOf, beq_iff_eq]
  rfl

/-- The class of the value an encoding stands for is the one its fields name. -/
theorem classBit_eq_fieldClass {F : Fmt} (hF : Interchange F) (c : Nat) :
    F.classBit c = fieldClass F.exp F.frac c := by
  rw [fieldClass_eq, Fmt.classBit]
  by_cases htop : exponentOf F c = 2 ^ F.exp - 1
  · rw [decode_of_special hF htop, if_pos htop]
    by_cases hzero : fractionOf F c = 0 <;> simp [hzero]
  · rw [decode_of_finite hF htop, if_neg htop]
    by_cases hsub : exponentOf F c = 0
    · simp [hsub, fractionOf_lt F c]
    · have hnormal : ¬ 2 ^ F.frac + fractionOf F c < 2 ^ F.frac := by omega
      simp [hsub, hnormal]

/-- Bits above the format's width do not change the class. -/
theorem classBit_mod_width (F : Fmt) (c : Nat) : F.classBit (c % 2 ^ F.width) = F.classBit c := by
  rw [Fmt.classBit, Fmt.classBit, decode_mod_width]

/-! ## FCLASS -/

theorem fclass_writesX (s : State) (d a : Reg) (t : BitVec 2) :
    WritesX (.fclass d a t) s d
      (.ofNat 64 (2 ^ (fmtOf2 t.toNat).classBit ((s.getX a).toNat % 2 ^ (fmtOf2 t.toNat).width))) :=
  doneA_completes (f := fun c =>
    c.setX d (.ofNat 64 (2 ^ (fmtOf2 t.toNat).classBit ((c.getX a).toNat % 2 ^ (fmtOf2 t.toNat).width)))) rfl

/-- The field widths of the four scalar formats (R87, R108). -/
theorem fieldWidths_fmtOf2 (t : BitVec 2) :
    (if t = 0 then (5, 10) else if t = 1 then (8, 7) else if t = 2 then (8, 23) else (11, 52)) =
      ((fmtOf2 t.toNat).exp, (fmtOf2 t.toNat).frac) := by
  revert t; decide

/-- Settles O18: FCLASS writes the bit of the decoded value's class, and that class is the one the encoding's exponent,
fraction and sign fields name. -/
theorem fclassSetsOneBit : Obligations.FclassSetsOneBit := by
  intro s d a t
  rw [fieldWidths_fmtOf2]
  have h := fclass_writesX s d a t
  rw [classBit_mod_width, classBit_eq_fieldClass (interchange_fmtOf2 t)] at h
  exact h

end Sys2Proof.Classes

/-! # R203: EXIT is one word of major 0x1E -/

namespace Sys2Proof.ExitWord

open Sys2Proof.Machine

/-! ## Accepting a spelled instruction (R91) -/

theorem accept_eq_ok_iff (r : Option Instr) (i : Instr) : accept r = .ok i ↔ r = some i ∧ i.wf = true := by
  cases r with
  | none => simp [accept]
  | some j =>
    by_cases hj : j.wf = true
    · simp only [accept, if_pos hj, Except.ok.injEq, Option.some.injEq]
      exact ⟨fun h => ⟨h, h ▸ hj⟩, And.left⟩
    · simp only [accept, if_neg hj, reduceCtorEq, Option.some.injEq, false_iff]
      exact fun ⟨h, hi⟩ => hj (h ▸ hi)

/-! ## The majors of the C word (R89) -/

/-- Bit 31 is the L bit, so it is clear in every C word (R73). -/
theorem rawC_eq_none_of_bit31 {n : Nat} (h : 2 ^ 31 ≤ n) : rawC n = none := by
  unfold rawC
  split
  case h_33 => rfl
  all_goals omega

theorem rawC_of_major1E {n : Nat} (h : n / 2 ^ 25 = 0x1E) : rawC n = decodeC1E n := by
  simp only [rawC, h]

/-- No other major spells EXIT: each of their decoders answers with its own instructions or none. -/
theorem major_eq_of_rawC_eq_exit {n : Nat} (h : rawC n = some .exit) : n / 2 ^ 25 = 0x1E := by
  unfold rawC at h
  split at h
  case h_29 hmajor => exact hmajor
  all_goals
    grind [decodeC01, decodeC02, decodeC03, decodeC04, decodeC05, decodeC06, decodeC07, decodeC08, decodeC09, decodeC0A,
      decodeC0B, decodeC0C, decodeC0D, decodeC0E, decodeC10, decodeC11, decodeC12, decodeC13, decodeC14, decodeC15,
      decodeC16, decodeC17, decodeC18, decodeC19, decodeC1A, decodeC1B, decodeC1C, decodeC1D, decodeC1F, decodeC20,
      decodeC21]

/-! ## The functions of major 0x1E (R201, R202, R203) -/

theorem decodeC1E_eq_exit_iff (n : Nat) : decodeC1E n = some .exit ↔ bits 0 10 n = 2 ∧ bits 10 15 n = 0 := by
  unfold decodeC1E
  split
  case h_1 hfn => simp [hfn]
  case h_2 hfn => simp [hfn]
  case h_3 hfn => simp [hfn]
  case h_4 hfn => simpa using fun h => absurd h hfn

theorem decodeC1E_eq_none {n : Nat} (h : 3 ≤ bits 0 10 n) : decodeC1E n = none := by
  unfold decodeC1E
  split
  case h_4 => rfl
  all_goals omega

/-! ## EXIT -/

theorem rawC_eq_exit_iff (n : Nat) : rawC n = some .exit ↔ n = 0x3C000002 := by
  constructor
  · intro h
    have hmajor := major_eq_of_rawC_eq_exit h
    rw [rawC_of_major1E hmajor] at h
    obtain ⟨hfn, hzero⟩ := (decodeC1E_eq_exit_iff n).mp h
    unfold bits at hfn hzero
    omega
  · rintro rfl
    rfl

theorem decodeC_eq_exit_iff (w : BitVec 32) : decodeC w = .ok .exit ↔ w = 0x3C000002 := by
  have hword : w.toNat = 0x3C000002 ↔ w = 0x3C000002 := BitVec.toNat_inj (y := 0x3C000002)
  have hwf : Instr.exit.wf = true := rfl
  rw [decodeC, accept_eq_ok_iff, rawC_eq_exit_iff, and_iff_left hwf, hword]

/-- A word of major 0x1E with a function from 3 on is no instruction, whether its bit 31 is clear or set. -/
theorem decodeC_eq_error_of_major1E {w : BitVec 32} (hmajor : w.toNat / 2 ^ 25 % 2 ^ 6 = 0x1E)
    (hfn : 3 ≤ w.toNat % 2 ^ 10) : decodeC w = .error .pattern := by
  have hnone : rawC w.toNat = none := by
    by_cases hbit : 2 ^ 31 ≤ w.toNat
    · exact rawC_eq_none_of_bit31 hbit
    · rw [rawC_of_major1E (by omega)]
      exact decodeC1E_eq_none (by unfold bits; omega)
  rw [decodeC, hnone, accept]

/-- Settles O5: only major 0x1E spells EXIT, and in it the function and the zero fields leave one word. -/
theorem exitIsOneSoloWord : Obligations.ExitIsOneSoloWord := by
  have hsolo : isSolo 0x3C000002 = true := by rw [isSolo, (decodeC_eq_exit_iff _).mpr rfl]
  exact ⟨hsolo, fun w => ⟨decodeC_eq_exit_iff w, fun hmajor hfn => ⟨.pattern, decodeC_eq_error_of_major1E hmajor hfn⟩⟩⟩

end Sys2Proof.ExitWord
